-- ==== Sys2Proof/Word.lean ====
section
/-! DEFINITION. Word widths, and finite maps with natural-number keys kept as sorted lists. -/

namespace Sys2Proof

abbrev Byte := BitVec 8
abbrev Half := BitVec 16
abbrev Word := BitVec 32
abbrev Dword := BitVec 64

/-- A finite map with natural-number keys: a list of pairs, kept in ascending key order by `put`. -/
abbrev FMap (α : Type) := List (Nat × α)

/-- The value at a key, if the key is listed. -/
def FMap.find? {α : Type} (m : FMap α) (k : Nat) : Option α :=
  match m with
  | [] => none
  | (i, x) :: m => if i = k then some x else FMap.find? m k

/-- The value at a key, or a default for an unlisted key. -/
def FMap.getD {α : Type} (m : FMap α) (k : Nat) (d : α) : α :=
  (FMap.find? m k).getD d

/-- Sets the value at a key, keeping ascending key order. -/
def FMap.put {α : Type} (m : FMap α) (k : Nat) (x : α) : FMap α :=
  match m with
  | [] => [(k, x)]
  | (i, y) :: m =>
    if k < i then (k, x) :: (i, y) :: m
    else if i = k then (k, x) :: m
    else (i, y) :: FMap.put m k x

/-- Removes a key. -/
def FMap.del {α : Type} (m : FMap α) (k : Nat) : FMap α :=
  m.filter fun e => e.1 ≠ k

/-- Applies a function to every listed value. -/
def FMap.mapVal {α β : Type} (m : FMap α) (f : α → β) : FMap β :=
  m.map fun e => (e.1, f e.2)

/-- The little-endian value of a list of bytes, the first byte lowest (R5). -/
def leNat : List Byte → Nat
  | [] => 0
  | b :: bs => b.toNat + 256 * leNat bs

/-- The `n` little-endian bytes of a number, the lowest first (R5). -/
def leBytes : Nat → Nat → List Byte
  | 0, _ => []
  | n + 1, v => BitVec.ofNat 8 v :: leBytes n (v / 256)

end Sys2Proof
end

