-- ==== Sys2Proof/Syntax.lean ====
section
/-! DEFINITION. The instruction set: operand types, the arguments of every row of spec/opcode_table.json, and `Instr`
with one constructor per row: thread instructions, Lantern records, Ladle command words and the device's events. -/

namespace Sys2Proof

/-! ## Shared operand kinds -/

/-- The eight integer types (R37, R81). -/
inductive IType
  | i8 | i16 | i32 | i64 | n8 | n16 | n32 | n64
  deriving DecidableEq, Repr

/-- The ten element formats (R39, R43, R49). -/
inductive Fmt
  | f32 | f16 | bf16 | e4m3 | e5m2 | e2m3 | e3m2 | e2m1 | lns6 | f64
  deriving DecidableEq, Repr

/-- Rounding modes (R49). -/
inductive Rm
  | rn | rz | rd | ru | rs
  deriving DecidableEq, Repr

/-- Scopes (R82). -/
inductive Scope
  | thr | crw | blk | clu | dev | pod | sys
  deriving DecidableEq, Repr

/-- Address spaces (R82). -/
inductive Space
  | glb | prv | loc | wbuf | abuf | cbuf
  deriving DecidableEq, Repr

/-- Ordering codes (R201). -/
inductive Ord4
  | plain | acq | rel | ar
  deriving DecidableEq, Repr

/-- Crew roles (R23). -/
inductive Role
  | general | feed | matrix | vector
  deriving DecidableEq, Repr

/-- Word conditions of Lantern and Ladle commands (R284, R325). -/
inductive Cond
  | eq | ne | ltu | geu | lt | ge
  deriving DecidableEq, Repr

/-- Integer comparisons (R130). -/
inductive ICond
  | eq | ne | lt | le | gt | ge
  deriving DecidableEq, Repr

/-- Floating-point comparisons (R154). -/
inductive FCond
  | eq | ne | lt | le | gt | ge | nan | num
  deriving DecidableEq, Repr

/-- A type code of CVT: an integer type or a format (R158). -/
inductive CType
  | int (t : IType)
  | flt (f : Fmt)
  deriving DecidableEq, Repr

/-- Integer atomic operations (R213, OP 0 to 6). -/
inductive IntAtom
  | add | min | max | and | or | xor | exch
  deriving DecidableEq, Repr

/-- Floating-point atomic operations (R213, OP 7 to 9). -/
inductive FltAtom
  | add | min | max
  deriving DecidableEq, Repr

/-- An atomic operation with its type (R213). -/
inductive AtomOp
  | int (o : IntAtom) (t : IType)
  | flt (o : FltAtom) (f : Fmt)
  deriving DecidableEq, Repr

/-- A general register number (R76). -/
abbrev GReg := BitVec 8

/-- A predicate source: number and negate (R76). -/
structure PSrc where
  n : BitVec 3
  neg : Bool
  deriving DecidableEq, Repr

/-- The last source of an integer instruction: a register, imm8 or imm32 (R75, R80). -/
inductive Src
  | reg (r : GReg)
  | imm8 (v : Byte)
  | imm32 (v : Word)
  deriving DecidableEq, Repr

/-- A register, or the 32-bit immediate of the 96-bit form. -/
inductive RI
  | reg (r : GReg)
  | imm (v : Word)
  deriving DecidableEq, Repr

/-- A register, or imm8 (family 0x8, R402). -/
inductive R8
  | reg (r : GReg)
  | imm (v : Byte)
  deriving DecidableEq, Repr

/-- A byte offset: the signed 8 bits of a 64-bit form, or imm32 (R83). -/
inductive Off
  | o8 (v : Byte)
  | o32 (v : Word)
  deriving DecidableEq, Repr

/-- The guard and the flag mark of a class L instruction: `none` marks no flag, `some false` slot A,
`some true` slot B (R77, R78). -/
structure LHdr where
  g : BitVec 4
  flag : Option Bool
  deriving DecidableEq, Repr

/-! ## Arguments of thread instructions -/

structure Bare where
  g : BitVec 4
  deriving DecidableEq, Repr

structure NopArgs where
  g : BitVec 4
  wide : Bool
  deriving DecidableEq, Repr

structure BraArgs where
  g : BitVec 4
  off : Word
  deriving DecidableEq, Repr

structure AArgs where
  g : BitVec 4
  a : GReg
  deriving DecidableEq, Repr

structure DArgs where
  g : BitVec 4
  d : GReg
  deriving DecidableEq, Repr

structure PauseArgs where
  g : BitVec 4
  c : Src
  deriving DecidableEq, Repr

structure Alu3Args where
  g : BitVec 4
  t : IType
  sat : Bool
  d : GReg
  a : GReg
  b : Src
  deriving DecidableEq, Repr

structure ImadArgs where
  g : BitVec 4
  t : IType
  sat : Bool
  d : GReg
  a : GReg
  b : GReg
  c : Src
  deriving DecidableEq, Repr

structure UnArgs where
  g : BitVec 4
  t : IType
  sat : Bool
  d : GReg
  a : GReg
  deriving DecidableEq, Repr

structure LeaArgs where
  g : BitVec 4
  k : BitVec 5
  t : IType
  d : GReg
  a : GReg
  b : Src
  deriving DecidableEq, Repr

structure IcmpArgs where
  g : BitVec 4
  c : ICond
  t : IType
  pd : BitVec 3
  a : GReg
  b : Src
  deriving DecidableEq, Repr

structure IselArgs where
  g : BitVec 4
  t : IType
  d : GReg
  a : GReg
  b : GReg
  p : PSrc
  deriving DecidableEq, Repr

/-- MOVI's forms (R132): the three 96-bit forms, and the two 128-bit forms. -/
inductive MoviForm
  | n32 (v : Word)
  | n64 (v : Word)
  | i64 (v : Word)
  | n64w (v : Dword)
  | i64w (v : Dword)
  deriving DecidableEq, Repr

structure MoviArgs where
  g : BitVec 4
  d : GReg
  v : MoviForm
  deriving DecidableEq, Repr

/-- The special registers of MOVS, in the order of their numbers (R133). -/
inductive SReg
  | tid | lane | crew | blkx | blky | blkz | core | clu | twin | ctx | rank | gen
  deriving DecidableEq, Repr

structure MovsArgs where
  g : BitVec 4
  d : GReg
  r : SReg
  deriving DecidableEq, Repr

structure Lut3Args where
  g : BitVec 4
  table : Byte
  wide : Bool
  d : GReg
  a : GReg
  b : GReg
  c : GReg
  deriving DecidableEq, Repr

structure PlutArgs where
  g : BitVec 4
  table : Byte
  pd : BitVec 3
  p1 : PSrc
  p2 : PSrc
  p3 : PSrc
  deriving DecidableEq, Repr

structure RotArgs where
  g : BitVec 4
  right : Bool
  t : IType
  d : GReg
  a : GReg
  b : Src
  deriving DecidableEq, Repr

structure BfeArgs where
  g : BitVec 4
  t : IType
  d : GReg
  a : GReg
  p : BitVec 6
  len1 : BitVec 6
  deriving DecidableEq, Repr

structure BfiArgs where
  g : BitVec 4
  t : IType
  d : GReg
  a : GReg
  b : GReg
  p : BitVec 6
  len1 : BitVec 6
  deriving DecidableEq, Repr

structure BselArgs where
  g : BitVec 4
  d : GReg
  a : GReg
  b : GReg
  c : GReg
  deriving DecidableEq, Repr

structure Fp3Args where
  g : BitVec 4
  f : Fmt
  rm : Rm
  sat : Bool
  d : GReg
  a : GReg
  b : RI
  deriving DecidableEq, Repr

structure FmaArgs where
  g : BitVec 4
  f : Fmt
  rm : Rm
  sat : Bool
  d : GReg
  a : GReg
  b : GReg
  c : RI
  deriving DecidableEq, Repr

structure FcmpArgs where
  g : BitVec 4
  c : FCond
  f : Fmt
  pd : BitVec 3
  a : GReg
  b : RI
  deriving DecidableEq, Repr

/-- One source and one destination in a format, with a rounding mode (FCLASS, FRINT, UNPK, special functions). -/
structure F1Args where
  g : BitVec 4
  f : Fmt
  rm : Rm
  d : GReg
  a : GReg
  deriving DecidableEq, Repr

structure CvtArgs where
  g : BitVec 4
  dt : CType
  st : CType
  rm : Rm
  sat : Bool
  d : GReg
  a : GReg
  w : GReg
  deriving DecidableEq, Repr

structure CvtsArgs where
  g : BitVec 4
  div : Bool
  dt : Fmt
  st : Fmt
  rm : Rm
  sat : Bool
  d : GReg
  a : GReg
  s : GReg
  w : GReg
  deriving DecidableEq, Repr

structure RndArgs where
  g : BitVec 4
  d : GReg
  k : GReg
  c : GReg
  deriving DecidableEq, Repr

structure MaskArgs where
  g : BitVec 4
  m : BitVec 4
  deriving DecidableEq, Repr

structure WaitPutArgs where
  g : BitVec 4
  m : BitVec 4
  a : GReg
  p : PSrc
  deriving DecidableEq, Repr

/-- A mask and one register pair: MSET's source or MSET.rd's destination. -/
structure MsetArgs where
  g : BitVec 4
  m : BitVec 4
  r : GReg
  deriving DecidableEq, Repr

inductive ShfMode
  | at | off | wrap | xor
  deriving DecidableEq, Repr

structure XshfArgs where
  g : BitVec 4
  mode : ShfMode
  d : GReg
  pd : BitVec 3
  m : BitVec 4
  b : GReg
  deriving DecidableEq, Repr

inductive VoteMode
  | all | any | same
  deriving DecidableEq, Repr

structure XvoteArgs where
  g : BitVec 4
  mode : VoteMode
  pd : BitVec 3
  e : GReg
  m : BitVec 4
  deriving DecidableEq, Repr

structure XbalArgs where
  g : BitVec 4
  d : GReg
  e : GReg
  m : BitVec 4
  deriving DecidableEq, Repr

inductive RedOp
  | add | min | max | and | or | xor
  deriving DecidableEq, Repr

inductive RedType
  | i32 | n32 | f32
  deriving DecidableEq, Repr

structure XredArgs where
  g : BitVec 4
  op : RedOp
  t : RedType
  sat : Bool
  d : GReg
  m : BitVec 4
  deriving DecidableEq, Repr

structure LdArgs where
  h : LHdr
  acq : Bool
  scope : Scope
  space : Space
  t : IType
  d : GReg
  a : GReg
  off : Off
  deriving DecidableEq, Repr

structure StArgs where
  h : LHdr
  rel : Bool
  scope : Scope
  space : Space
  t : IType
  a : GReg
  off : Off
  b : GReg
  deriving DecidableEq, Repr

structure LdcArgs where
  h : LHdr
  t : IType
  d : GReg
  a : GReg
  off : Byte
  deriving DecidableEq, Repr

structure PrefArgs where
  g : BitVec 4
  l1 : Bool
  a : GReg
  off : Off
  deriving DecidableEq, Repr

structure FenceArgs where
  g : BitVec 4
  ord : Ord4
  scope : Scope
  deriving DecidableEq, Repr

structure IinvArgs where
  g : BitVec 4
  a : GReg
  off : Byte
  deriving DecidableEq, Repr

structure AtomArgs where
  h : LHdr
  op : AtomOp
  ord : Ord4
  scope : Scope
  space : Space
  d : GReg
  a : GReg
  off : Off
  b : GReg
  deriving DecidableEq, Repr

structure CasArgs where
  h : LHdr
  ord : Ord4
  scope : Scope
  space : Space
  t : IType
  d : GReg
  a : GReg
  b : GReg
  c : GReg
  deriving DecidableEq, Repr

structure RedArgs where
  h : LHdr
  op : AtomOp
  rel : Bool
  scope : Scope
  space : Space
  a : GReg
  off : Off
  b : GReg
  deriving DecidableEq, Repr

structure RedtArgs where
  h : LHdr
  op : AtomOp
  rel : Bool
  a : GReg
  off : Word
  b : GReg
  tag : GReg
  deriving DecidableEq, Repr

structure RcloseArgs where
  g : BitVec 4
  a : GReg
  b : GReg
  deriving DecidableEq, Repr

/-- A copy's size code: 4, 8 or 16 bytes (R218). -/
inductive CpySize
  | s4 | s8 | s16
  deriving DecidableEq, Repr

structure CpyArgs where
  h : LHdr
  size : CpySize
  scope : Scope
  space : Space
  a : GReg
  off : Off
  b : GReg
  deriving DecidableEq, Repr

structure TbarArgs where
  g : BitVec 4
  a : GReg
  b : R8
  deriving DecidableEq, Repr

structure TbarwArgs where
  g : BitVec 4
  pd : BitVec 3
  a : GReg
  b : R8
  deriving DecidableEq, Repr

structure BarArgs where
  g : BitVec 4
  k : BitVec 4
  deriving DecidableEq, Repr

structure RingArgs where
  g : BitVec 4
  q : BitVec 4
  b : R8
  deriving DecidableEq, Repr

structure WldArgs where
  h : LHdr
  fmt : Fmt
  scaled : Bool
  a : GReg
  off : Option Word
  deriving DecidableEq, Repr

structure MloopArgs where
  h : LHdr
  fmt : Fmt
  cb : Bool
  scaled : Bool
  sparse : Bool
  init : Bool
  c : GReg
  a : GReg
  s : GReg
  rows1 : BitVec 10
  steps1 : BitVec 12
  da : BitVec 16
  dw : BitVec 14
  dc : BitVec 12
  deriving DecidableEq, Repr

structure MzeroArgs where
  h : LHdr
  a : GReg
  len : Word
  deriving DecidableEq, Repr

structure DcfgArgs where
  g : BitVec 4
  v : RI
  deriving DecidableEq, Repr

/-- The layout of VADD to VMOV (R265). A space bit is `true` for `cbuf`. -/
structure VecArgs where
  h : LHdr
  op : BitVec 4
  fmt : Fmt
  rm : Rm
  sat : Bool
  sd : Bool
  sa : Bool
  sb : Bool
  sc : Bool
  d : GReg
  a : GReg
  b : GReg
  c : GReg
  rows1 : BitVec 10
  deriving DecidableEq, Repr

structure VcvtArgs where
  h : LHdr
  fmt : Fmt
  scaled : Bool
  rm : Rm
  sat : Bool
  sa : Bool
  d : GReg
  a : GReg
  rows1 : BitVec 10
  deriving DecidableEq, Repr

structure VstArgs where
  h : LHdr
  scope : Scope
  fmt : Fmt
  rm : Rm
  sat : Bool
  sa : Bool
  d : GReg
  a : GReg
  b : GReg
  rows1 : BitVec 10
  deriving DecidableEq, Repr

structure LdlStartArgs where
  h : LHdr
  d : GReg
  a : GReg
  deriving DecidableEq, Repr

structure LdlStartAtArgs where
  h : LHdr
  d : GReg
  a : GReg
  n : BitVec 7
  deriving DecidableEq, Repr

structure DAArgs where
  g : BitVec 4
  d : GReg
  a : GReg
  deriving DecidableEq, Repr

structure LdlBaseArgs where
  g : BitVec 4
  pd : BitVec 3
  ch : BitVec 4
  v : RI
  deriving DecidableEq, Repr

structure LdlFreeArgs where
  g : BitVec 4
  pd : BitVec 3
  ch : BitVec 4
  deriving DecidableEq, Repr

structure ArelsArgs where
  g : BitVec 4
  ch : BitVec 4
  b : RI
  deriving DecidableEq, Repr

structure RldArgs where
  g : BitVec 4
  acq : Bool
  t : IType
  d : GReg
  a : GReg
  off : Off
  deriving DecidableEq, Repr

structure RstArgs where
  h : LHdr
  rel : Bool
  t : IType
  a : GReg
  off : Off
  b : GReg
  deriving DecidableEq, Repr

structure RatomArgs where
  h : LHdr
  op : AtomOp
  ord : Ord4
  d : GReg
  a : GReg
  off : Off
  b : GReg
  deriving DecidableEq, Repr

structure RatomCasArgs where
  h : LHdr
  ord : Ord4
  t : IType
  d : GReg
  a : GReg
  b : GReg
  c : GReg
  deriving DecidableEq, Repr

structure RredArgs where
  h : LHdr
  op : AtomOp
  rel : Bool
  a : GReg
  off : Off
  b : GReg
  deriving DecidableEq, Repr

structure CollArgs where
  h : LHdr
  d : GReg
  a : GReg
  t0 : Half
  t1 : Half
  t2 : Half
  t3 : Half
  deriving DecidableEq, Repr

structure TokArgs where
  g : BitVec 4
  t : RI
  deriving DecidableEq, Repr

structure MfenceArgs where
  g : BitVec 4
  pd : BitVec 3
  a : GReg
  deriving DecidableEq, Repr

structure TrapArgs where
  g : BitVec 4
  code : Half
  deriving DecidableEq, Repr

/-- The system registers of SRD and SWR, in the order of their numbers (R100). -/
inductive SysReg
  | thstat | fcause | fpc | fhdr | faddr | finfo | hscratch0 | hscratch1 | csp | cslo | cshi
  deriving DecidableEq, Repr

structure SrArgs where
  g : BitVec 4
  r : SysReg
  x : GReg
  deriving DecidableEq, Repr

structure PerfrArgs where
  g : BitVec 4
  d : GReg
  n : BitVec 4
  deriving DecidableEq, Repr

/-! ## Arguments of Ladle commands (R312 to R325) -/

/-- SRC with its dimension words, innermost first as (size, stride), and its scale word (R313). -/
structure LSrc where
  raw : Bool
  fmt : Fmt
  scaled : Bool
  base : Dword
  dims : List (Word × Dword)
  sbase : Dword
  deriving DecidableEq, Repr

structure LDst where
  ch : BitVec 4
  abuf : Bool
  split : Bool
  rmask : Half
  land : Word
  logn : BitVec 4
  slotsz : Half
  pitch : Half
  deriving DecidableEq, Repr

structure LWalk where
  tc1 : Half
  tr1 : BitVec 12
  adim : BitVec 3
  amt : Word
  count1 : Half
  deriving DecidableEq, Repr

structure LGather where
  w64 : Bool
  signed : Bool
  tc1 : Half
  tr1 : BitVec 12
  ntile1 : BitVec 20
  list : Dword
  deriving DecidableEq, Repr

structure LQuant where
  tfmt : Fmt
  scaled : Bool
  rm : Rm
  sat : Bool
  off : Bool
  salt : Word
  key : Dword
  deriving DecidableEq, Repr

structure LBr where
  cond : Cond
  off : Half
  value : Word
  addr : Dword
  deriving DecidableEq, Repr

structure LWaitm where
  cond : Cond
  deadline : Half
  value : Word
  addr : Dword
  deriving DecidableEq, Repr

structure LSignal where
  value : Word
  addr : Dword
  deriving DecidableEq, Repr

/-! ## Arguments of Lantern commands (R280) -/

structure LaunchArgs where
  desc : Dword
  gx : Word
  gy : Half
  gz : Half
  first : BitVec 11
  count1 : BitVec 11
  deriving DecidableEq, Repr

structure LaunchiArgs where
  desc : Dword
  grid : Dword
  first : BitVec 11
  count1 : BitVec 11
  deriving DecidableEq, Repr

/-- A condition on a word of memory (R284). -/
structure MemCond where
  cond : Cond
  w32 : Bool
  addr : Dword
  value : Dword
  mask : Dword
  deriving DecidableEq, Repr

structure IfmemArgs where
  m : MemCond
  skip : Word
  deriving DecidableEq, Repr

structure WaitmemArgs where
  m : MemCond
  deadline : Word
  deriving DecidableEq, Repr

structure SignalArgs where
  after : Bool
  addr : Dword
  value : Dword
  deriving DecidableEq, Repr

structure GswapArgs where
  gen : Half
  deadline : Dword
  deriving DecidableEq, Repr

structure SnapArgs where
  view : BitVec 6
  base : Dword
  len : Dword
  ctx : BitVec 6
  deriving DecidableEq, Repr

structure PreemptArgs where
  ctx : BitVec 6
  save : Dword
  deriving DecidableEq, Repr

/-! ## Arguments of events -/

/-- A packet of the fabric: the header fields of R340, the bytes of its data flits, and the port at which it arrives. -/
structure Packet where
  kind : Byte
  dcount : BitVec 4
  chan : BitVec 2
  fcls : BitVec 2
  lseq : BitVec 12
  dstdev : Half
  srcdev : Half
  pkey : Half
  gen : Half
  seq : BitVec 24
  srcctx : BitVec 6
  tag : Word
  opcode : Word
  offset : Dword
  opb : Dword
  opc : Dword
  opnum : Word
  chunk : Word
  groupid : Half
  crc : Word
  data : List Byte
  port : BitVec 6
  deriving DecidableEq, Repr

/-- A table-gate message (R394): its signed bytes and its signature. -/
structure GateHdr where
  bytes : List Byte
  sig : List Byte
  deriving DecidableEq, Repr

/-- A partition-key entry of gate message OP 6 (R388). -/
inductive PkeyEntry
  | egress (c : BitVec 6) (pkey : Half) (valid : Bool) (rate : Half) (burst : Half) (dmask : BitVec 128)
  | ingress (i : BitVec 6) (pkey : Half) (ctx : BitVec 6) (valid : Bool) (exb : Dword)
  deriving DecidableEq, Repr

/-- The Belfry configuration (R368). -/
structure BelfryCfg where
  peers : List Half
  i : Byte
  thresh : Byte
  mbxDev : Half
  mbxOff : BitVec 38
  mbxLog : BitVec 5
  mbxKey : Half
  deriving DecidableEq, Repr

/-- A place in the device's memories where an error is found (R116, R219): in HBM the ECC word, by its address and how many 64-bit
words it holds; in a slice of L2, a core's L1 or its instruction buffer by the address that the word holds; in a buffer of a block that
stands on a core by its place there. -/
inductive ErrPlace
  | hbm (pa words : Nat)
  | l2 (pa : Nat)
  | l1 (core : Nat) (pa : Nat)
  | ib (core : Nat) (va : Nat)
  | buf (core : Nat) (block : Nat) (space : Space) (addr : Nat)
  deriving DecidableEq, Repr

/-- Who waits for a translation that a walker replays (R379); `remote` stands for the requests that have arrived. -/
inductive Walker
  | thread (core slot : Nat)
  | stream (clu slot : Nat)
  | queue (q : Nat)
  | coll (slot : Nat)
  | stripe (i : Nat)
  | remote
  deriving DecidableEq, Repr

/-- What the host does to device memory: a write, or an atomic (R187, R210); or to its own memory, which the device reaches as HOST
pages: a write. -/
inductive HostOp
  | write (pa : Nat) (bytes : List Byte)
  | own (pa : Nat) (bytes : List Byte)
  | atom (pa : Nat) (op : AtomOp) (v : Dword)
  deriving DecidableEq, Repr

/-- The place of a training port: its partner offers 112 GBd or only the standard rate (R338). -/
structure TrainArgs where
  port : Nat
  fast : Bool
  deriving DecidableEq, Repr

/-- Recast's stripe arrival: the stripe number, the serving device, its status and its bytes with the offsets of poisoned ones and the
digest sent (R369 to R372). -/
structure StripeArgs where
  i : Nat
  dev : Half
  status : Byte
  bytes : List Byte
  bad : List Nat
  digest : List Byte
  packets : List Packet
  deriving DecidableEq, Repr

/-- The firmware images that stage 0x1 fetches (R119): the public key that signs them, and the bytes and the signature of each. -/
structure ImageArgs where
  key : List Byte
  img0 : List Byte
  sig0 : List Byte
  img1 : List Byte
  sig1 : List Byte
  deriving DecidableEq, Repr

/-- One constructor per row of spec/opcode_table.json. Each docstring names the row's mnemonic and rule. -/
inductive Instr
  /-- NOP, R89. -/
  | nop (x : NopArgs)
  /-- BRA, R142. -/
  | bra (x : BraArgs)
  /-- BRX, R142. -/
  | brx (x : AArgs)
  /-- CALL, R142. -/
  | call (x : BraArgs)
  /-- CALLX, R142. -/
  | callx (x : AArgs)
  /-- RET, R142. -/
  | ret (x : Bare)
  /-- EXIT, R146. -/
  | exit (x : Bare)
  /-- YIELD, R147. -/
  | yield (x : Bare)
  /-- PAUSE, R148. -/
  | pause (x : PauseArgs)
  /-- IADD, R126. -/
  | iadd (x : Alu3Args)
  /-- ISUB, R126. -/
  | isub (x : Alu3Args)
  /-- IMUL, R126. -/
  | imul (x : Alu3Args)
  /-- IMULH, R127. -/
  | imulh (x : Alu3Args)
  /-- IMAD, R126. -/
  | imad (x : ImadArgs)
  /-- IDIV, R128. -/
  | idiv (x : Alu3Args)
  /-- IREM, R128. -/
  | irem (x : Alu3Args)
  /-- IMIN, R126. -/
  | imin (x : Alu3Args)
  /-- IMAX, R126. -/
  | imax (x : Alu3Args)
  /-- IABS, R126. -/
  | iabs (x : UnArgs)
  /-- LEA, R129. -/
  | lea (x : LeaArgs)
  /-- ICMP, R130. -/
  | icmp (x : IcmpArgs)
  /-- ISEL, R131. -/
  | isel (x : IselArgs)
  /-- MOV, R132. -/
  | mov (x : UnArgs)
  /-- MOVI, R132. -/
  | movi (x : MoviArgs)
  /-- MOVS, R133. -/
  | movs (x : MovsArgs)
  /-- AND, R134. -/
  | and (x : Alu3Args)
  /-- OR, R134. -/
  | or (x : Alu3Args)
  /-- XOR, R134. -/
  | xor (x : Alu3Args)
  /-- LUT3, R135. -/
  | lut3 (x : Lut3Args)
  /-- PLUT, R136. -/
  | plut (x : PlutArgs)
  /-- SHL, R137. -/
  | shl (x : Alu3Args)
  /-- SHR, R137. -/
  | shr (x : Alu3Args)
  /-- ROT, R137. -/
  | rot (x : RotArgs)
  /-- BFE, R138. -/
  | bfe (x : BfeArgs)
  /-- BFI, R138. -/
  | bfi (x : BfiArgs)
  /-- POPC, R139. -/
  | popc (x : UnArgs)
  /-- CLZ, R139. -/
  | clz (x : UnArgs)
  /-- BREV, R139. -/
  | brev (x : UnArgs)
  /-- BSEL, R140. -/
  | bsel (x : BselArgs)
  /-- FADD, R151. -/
  | fadd (x : Fp3Args)
  /-- FSUB, R151. -/
  | fsub (x : Fp3Args)
  /-- FMUL, R151. -/
  | fmul (x : Fp3Args)
  /-- FMA, R151. -/
  | fma (x : FmaArgs)
  /-- FDIV, R152. -/
  | fdiv (x : Fp3Args)
  /-- FMIN, R153. -/
  | fmin (x : Fp3Args)
  /-- FMAX, R153. -/
  | fmax (x : Fp3Args)
  /-- FCMP, R154. -/
  | fcmp (x : FcmpArgs)
  /-- FCLASS, R155. -/
  | fclass (x : F1Args)
  /-- HADD2, R156. -/
  | hadd2 (x : Fp3Args)
  /-- HSUB2, R156. -/
  | hsub2 (x : Fp3Args)
  /-- HMUL2, R156. -/
  | hmul2 (x : Fp3Args)
  /-- HFMA2, R156. -/
  | hfma2 (x : FmaArgs)
  /-- HMIN2, R156. -/
  | hmin2 (x : Fp3Args)
  /-- HMAX2, R156. -/
  | hmax2 (x : Fp3Args)
  /-- HCMP2, R157. -/
  | hcmp2 (x : FcmpArgs)
  /-- CVT, R159. -/
  | cvt (x : CvtArgs)
  /-- CVTS, R160. -/
  | cvts (x : CvtsArgs)
  /-- FRINT, R161. -/
  | frint (x : F1Args)
  /-- PACK, R162. -/
  | pack (x : Fp3Args)
  /-- UNPK, R163. -/
  | unpk (x : F1Args)
  /-- RND, R167. -/
  | rnd (x : RndArgs)
  /-- RND_LO, R167. -/
  | rndLo (x : RndArgs)
  /-- FEXP2, R164. -/
  | fexp2 (x : F1Args)
  /-- FLOG2, R164. -/
  | flog2 (x : F1Args)
  /-- FRCP, R164. -/
  | frcp (x : F1Args)
  /-- FRSQ, R164. -/
  | frsq (x : F1Args)
  /-- FSQRT, R164. -/
  | fsqrt (x : F1Args)
  /-- FSIN, R164. -/
  | fsin (x : F1Args)
  /-- FCOS, R164. -/
  | fcos (x : F1Args)
  /-- FTANH, R164. -/
  | ftanh (x : F1Args)
  /-- LD, R204. -/
  | ld (x : LdArgs)
  /-- ST, R205. -/
  | st (x : StArgs)
  /-- LDC, R206. -/
  | ldc (x : LdcArgs)
  /-- PREF, R207. -/
  | pref (x : PrefArgs)
  /-- FENCE, R208. -/
  | fence (x : FenceArgs)
  /-- CCTL_L1INV, R197. -/
  | cctlL1inv (x : Bare)
  /-- CCTL_IINV, R209. -/
  | cctlIinv (x : IinvArgs)
  /-- CCTL_IINVALL, R209. -/
  | cctlIinvall (x : Bare)
  /-- ATOM, R213. -/
  | atom (x : AtomArgs)
  /-- CAS, R215. -/
  | cas (x : CasArgs)
  /-- RED, R213. -/
  | red (x : RedArgs)
  /-- REDT, R216. -/
  | redt (x : RedtArgs)
  /-- RCLOSE, R217. -/
  | rclose (x : RcloseArgs)
  /-- CPY_IN, R218. -/
  | cpyIn (x : CpyArgs)
  /-- CPY_OUT, R218. -/
  | cpyOut (x : CpyArgs)
  /-- TBARI, R404. -/
  | tbari (x : TbarArgs)
  /-- TBARA, R404. -/
  | tbara (x : AArgs)
  /-- TBARA_N, R404. -/
  | tbaraN (x : TbarArgs)
  /-- TBARVD, R404. -/
  | tbarvd (x : AArgs)
  /-- TBARW, R405. -/
  | tbarw (x : TbarwArgs)
  /-- BAR, R406. -/
  | bar (x : BarArgs)
  /-- BAR_ARV, R406. -/
  | barArv (x : BarArgs)
  /-- RINGP, R407. -/
  | ringp (x : RingArgs)
  /-- RINGW_EMPTY, R407. -/
  | ringwEmpty (x : RingArgs)
  /-- RINGW_FULL, R407. -/
  | ringwFull (x : RingArgs)
  /-- JOIN, R174. -/
  | join (x : MaskArgs)
  /-- LEAVE, R174. -/
  | leave (x : MaskArgs)
  /-- WAIT, R177. -/
  | wait (x : MaskArgs)
  /-- WAIT_PUT, R177. -/
  | waitPut (x : WaitPutArgs)
  /-- MSET, R175. -/
  | mset (x : MsetArgs)
  /-- MSET_RD, R175. -/
  | msetRd (x : MsetArgs)
  /-- XSHF, R183. -/
  | xshf (x : XshfArgs)
  /-- XVOTE, R185. -/
  | xvote (x : XvoteArgs)
  /-- XBAL, R185. -/
  | xbal (x : XbalArgs)
  /-- XRED, R184. -/
  | xred (x : XredArgs)
  /-- WLD, R252. -/
  | wld (x : WldArgs)
  /-- WLDS, R252. -/
  | wlds (x : WldArgs)
  /-- MLOOP, R255. -/
  | mloop (x : MloopArgs)
  /-- MZERO, R259. -/
  | mzero (x : MzeroArgs)
  /-- MSYNC, R260. -/
  | msync (x : Bare)
  /-- MSTAT, R262. -/
  | mstat (x : DArgs)
  /-- MSCLR, R262. -/
  | msclr (x : AArgs)
  /-- DCFG, R253. -/
  | dcfg (x : DcfgArgs)
  /-- VADD, R266. -/
  | vadd (x : VecArgs)
  /-- VSUB, R266. -/
  | vsub (x : VecArgs)
  /-- VMUL, R266. -/
  | vmul (x : VecArgs)
  /-- VFMA, R266. -/
  | vfma (x : VecArgs)
  /-- VMIN, R266. -/
  | vmin (x : VecArgs)
  /-- VMAX, R266. -/
  | vmax (x : VecArgs)
  /-- VEXP2, R266. -/
  | vexp2 (x : VecArgs)
  /-- VRMAX, R267. -/
  | vrmax (x : VecArgs)
  /-- VRSUM, R267. -/
  | vrsum (x : VecArgs)
  /-- VSCL, R266. -/
  | vscl (x : VecArgs)
  /-- VCVT, R268. -/
  | vcvt (x : VcvtArgs)
  /-- VCMP, R266. -/
  | vcmp (x : VecArgs)
  /-- VMOV, R266. -/
  | vmov (x : VecArgs)
  /-- VST, R269. -/
  | vst (x : VstArgs)
  /-- LDL_START, R329. -/
  | ldlStart (x : LdlStartArgs)
  /-- LDL_START_AT, R329. -/
  | ldlStartAt (x : LdlStartAtArgs)
  /-- LDL_STOP, R330. -/
  | ldlStop (x : AArgs)
  /-- LDL_STAT, R331. -/
  | ldlStat (x : DAArgs)
  /-- LDL_STAT_FREE, R331. -/
  | ldlStatFree (x : DAArgs)
  /-- LDL_BASE_BIND, R332. -/
  | ldlBaseBind (x : LdlBaseArgs)
  /-- LDL_BASE_FREE, R332. -/
  | ldlBaseFree (x : LdlFreeArgs)
  /-- AWAIT, R333. -/
  | await (x : LdlBaseArgs)
  /-- ARELS, R334. -/
  | arels (x : ArelsArgs)
  /-- RLD, R348. -/
  | rld (x : RldArgs)
  /-- RST, R348. -/
  | rst (x : RstArgs)
  /-- RATOM, R348. -/
  | ratom (x : RatomArgs)
  /-- RATOM_CAS, R347. -/
  | ratomCas (x : RatomCasArgs)
  /-- RRED, R348. -/
  | rred (x : RredArgs)
  /-- FLOWSEL_ORD, R351. -/
  | flowselOrd (x : Bare)
  /-- FLOWSEL_UNORD, R351. -/
  | flowselUnord (x : Bare)
  /-- COLL, R354. -/
  | coll (x : CollArgs)
  /-- TOKEN, R359. -/
  | token (x : TokArgs)
  /-- TWAIT, R359. -/
  | twait (x : TokArgs)
  /-- MFENCE, R364. -/
  | mfence (x : MfenceArgs)
  /-- TRAP, R302. -/
  | trap (x : TrapArgs)
  /-- BKPT, R302. -/
  | bkpt (x : TrapArgs)
  /-- HRET, R303. -/
  | hret (x : Bare)
  /-- HRET_SKIP, R303. -/
  | hretSkip (x : Bare)
  /-- PRECK, R298. -/
  | preck (x : Bare)
  /-- SRD, R304. -/
  | srd (x : SrArgs)
  /-- SWR, R304. -/
  | swr (x : SrArgs)
  /-- FLTR, R305. -/
  | fltr (x : Bare)
  /-- FLTR_PG, R305. -/
  | fltrPg (x : AArgs)
  /-- ESCL, R306. -/
  | escl (x : Bare)
  /-- CYCR, R415. -/
  | cycr (x : DArgs)
  /-- PERFR, R415. -/
  | perfr (x : PerfrArgs)
  /-- GANG_PICK, R290. -/
  | gangPick (c : Nat)
  /-- CLASS_L_COMPLETION, R401. -/
  | classLCompletion (c t u : Nat)
  /-- DEFERRED_FAULT_DELIVERY, R222. -/
  | deferredFaultDelivery (c t : Nat)
  /-- PAUSE_EXPIRY, R148. -/
  | pauseExpiry (c t : Nat)
  /-- YIELD_PAUSE_EXPIRY, R295. -/
  | yieldPauseExpiry (c t : Nat)
  /-- BOUND_COPY_COMPLETION, R404. -/
  | boundCopyCompletion (c t u : Nat)
  /-- WLD_EXECUTE, R252. -/
  | wldExecute (c : Nat)
  /-- MLOOP_EXECUTE, R256. -/
  | mloopExecute (c n : Nat)
  /-- MZERO_EXECUTE, R259. -/
  | mzeroExecute (c : Nat)
  /-- DCFG_APPLY, R253. -/
  | dcfgApply (c : Nat)
  /-- VECTOR_OP_EXECUTE, R266. -/
  | vectorOpExecute (c n : Nat)
  /-- LADLE_SRC, R313. -/
  | ladleSrc (x : LSrc)
  /-- LADLE_DST, R315. -/
  | ladleDst (x : LDst)
  /-- LADLE_WALK, R317. -/
  | ladleWalk (x : LWalk)
  /-- LADLE_GATHER, R318. -/
  | ladleGather (x : LGather)
  /-- LADLE_QUANT, R314. -/
  | ladleQuant (x : LQuant)
  /-- LADLE_LOOP, R325. -/
  | ladleLoop (n : Word)
  /-- LADLE_BR, R325. -/
  | ladleBr (x : LBr)
  /-- WAITM, R325. -/
  | waitm (x : LWaitm)
  /-- WAITM_TIMEOUT, R325. -/
  | waitmTimeout (l k : Nat)
  /-- LADLE_SIGNAL_STORE32, R325. -/
  | ladleSignalStore32 (x : LSignal)
  /-- LADLE_SIGNAL_ADD32, R325. -/
  | ladleSignalAdd32 (x : LSignal)
  /-- LADLE_SIGNAL_TOKEN, R325. -/
  | ladleSignalToken (x : LSignal)
  /-- LADLE_CALL, R325. -/
  | ladleCall (addr : Dword)
  /-- TILE_DELIVERY, R321. -/
  | tileDelivery (l k : Nat)
  /-- RUN_AHEAD_READ, R324. -/
  | runAheadRead (l k : Nat) (va : Dword)
  /-- REPLAY_WALK, R379. -/
  | replayWalk (w : Walker)
  /-- PAGE_DIVERSION, R382. -/
  | pageDiversion (ctx : Nat) (va : Dword)
  /-- REDT_APPLY, R216. -/
  | redtApply (c t u : Nat)
  /-- SEQUENCER_APPLY, R411. -/
  | sequencerApply (u : Nat)
  /-- BLOCK_RETIREMENT, R30. -/
  | blockRetirement (u b : Nat)
  /-- LAUNCH_COMPLETION, R31. -/
  | launchCompletion (u : Nat)
  /-- WPTR_WRITE, R277. -/
  | wptrWrite (q : Nat) (v : Dword)
  /-- CFG_WRITE, R277. -/
  | cfgWrite (q : Nat) (v : Dword)
  /-- STAT_CLEAR, R279. -/
  | statClear (q : Nat)
  /-- LAUNCH, R282. -/
  | launch (x : LaunchArgs)
  /-- LAUNCHI, R282. -/
  | launchi (x : LaunchiArgs)
  /-- LANTERN_LOOP, R284. -/
  | lanternLoop (n : Word)
  /-- IFMEM, R284. -/
  | ifmem (x : IfmemArgs)
  /-- CALLL, R284. -/
  | calll (addr : Dword)
  /-- WAITMEM, R284. -/
  | waitmem (x : WaitmemArgs)
  /-- WAITMEM_TIMEOUT, R284. -/
  | waitmemTimeout (q : Nat)
  /-- WAITLCH, R284. -/
  | waitlch (n : Word)
  /-- SIGNAL_STORE64, R284. -/
  | signalStore64 (x : SignalArgs)
  /-- SIGNAL_ADD64, R284. -/
  | signalAdd64 (x : SignalArgs)
  /-- SIGNAL_STORE32, R284. -/
  | signalStore32 (x : SignalArgs)
  /-- SIGNAL_ADD32, R284. -/
  | signalAdd32 (x : SignalArgs)
  /-- GSWAP, R285. -/
  | gswap (x : GswapArgs)
  /-- SNAP_CREATE, R384. -/
  | snapCreate (x : SnapArgs)
  /-- SNAP_RELEASE, R385. -/
  | snapRelease (x : SnapArgs)
  /-- PREEMPT, R296. -/
  | preempt (x : PreemptArgs)
  /-- CONTEXT_SAVE, R297. -/
  | contextSave (ctx : Nat)
  /-- RECOMPUTE_DISCARD, R297. -/
  | recomputeDiscard (ctx : Nat)
  /-- RESUME, R300. -/
  | resume (x : PreemptArgs)
  /-- STAGE_LINKS, R117. -/
  | stageLinks (trained : List TrainArgs)
  /-- KILL, R114. -/
  | kill (ctx : Nat)
  /-- KILL_COMPLETION, R282. -/
  | killCompletion (ctx : Nat)
  /-- REGISTER_WRITE, R108. -/
  | registerWrite (off : Nat) (v : Dword)
  /-- LINK_TRAIN, R338. -/
  | linkTrain (x : TrainArgs)
  /-- LINK_LOSS, R341. -/
  | linkLoss (port : Nat)
  /-- BELFRY_LINK_DETECT, R365. -/
  | belfryLinkDetect (port : Nat)
  /-- LINK_ACK, R341. -/
  | linkAck (port : Nat) (lseq : BitVec 12)
  /-- LINK_REPLAY, R341. -/
  | linkReplay (port : Nat) (lseq : BitVec 12) (sender : Bool)
  /-- LEND_INTERVAL, R342: an interval ends in which a port has received u0, u1 and u2 flits on channels 0 to 2. -/
  | lendInterval (port u0 u1 u2 : Nat)
  /-- LEND_ANNOUNCEMENT, R342. -/
  | lendAnnouncement (port : Nat) (epoch l0 l1 l2 : Half)
  /-- REMOTE_REQUEST, R349. -/
  | remoteRequest (p : Packet)
  /-- REMOTE_RESPONSE, R350. -/
  | remoteResponse (p : Packet)
  /-- REQUEST_RESEND, R345. -/
  | requestResend (tag : Word)
  /-- REQUEST_TIMEOUT, R345. -/
  | requestTimeout (tag : Word)
  /-- COLL_FIRE, R359. -/
  | collFire (slot : Nat)
  /-- CHUNK_RECEIVE, R357. -/
  | chunkReceive (p : Packet)
  /-- CHUNK_ACK, R357. -/
  | chunkAck (p : Packet)
  /-- CHUNK_RESEND, R357. -/
  | chunkResend (slot i : Nat)
  /-- COLL_COMPLETION, R360. -/
  | collCompletion (slot : Nat)
  /-- BELFRY_INTERVAL, R367. -/
  | belfryInterval (io : Nat)
  /-- HEARTBEAT_RECEIVE, R367. -/
  | heartbeatReceive (p : Packet)
  /-- NOTICE_RECEIVE, R366. -/
  | noticeReceive (p : Packet)
  /-- STRIPE_REQUEST, R369. -/
  | stripeRequest (p : Packet)
  /-- STRIPE_ATTEMPT, R371. -/
  | stripeAttempt (i : Nat)
  /-- STRIPE_RECEIVE, R372. -/
  | stripeReceive (x : StripeArgs)
  /-- HOST_ACCESS, R187. -/
  | hostAccess (x : HostOp)
  /-- EGRESS_RATE_RELEASE, R388. -/
  | egressRateRelease (ctx : Nat)
  /-- PACKET_FORWARD, R340. -/
  | packetForward (p : Packet)
  /-- BOOT_ADDR_WRITE, R117. -/
  | bootAddrWrite (v : Dword)
  /-- STAGE_IMAGE, R119. -/
  | stageImage (x : ImageArgs)
  /-- STAGE_MEMORY, R117. -/
  | stageMemory (err : Half)
  /-- FEAT_ACCEPT_WRITE, R112. -/
  | featAcceptWrite (hi : Bool) (v : Dword)
  /-- CLK_CTL_WRITE, R114. -/
  | clkCtlWrite (v : Dword)
  /-- PWR_LIMIT_WRITE, R115. -/
  | pwrLimitWrite (v : Dword)
  /-- CTX_CFG_WRITE, R114. -/
  | ctxCfgWrite (i : Nat) (v : Dword)
  /-- CTX_FAULT_CLEAR, R114. -/
  | ctxFaultClear (i : Nat) (v : Dword)
  /-- CORE_CTL_WRITE, R114. -/
  | coreCtlWrite (i : Nat) (v : Dword)
  /-- ERR_STAT_CLEAR, R116. -/
  | errStatClear (v : Dword)
  /-- ERR_CE_WRITE, R116. -/
  | errCeWrite (v : Dword)
  /-- POWER_EVALUATION, R115. -/
  | powerEvaluation (avg : Half)
  /-- UNCORRECTABLE_ERROR, R219. -/
  | uncorrectableError (p : ErrPlace)
  /-- CORRECTED_ERROR, R116. -/
  | correctedError (p : ErrPlace)
  /-- CORE_DOMAIN_POWER_DOWN, R120. -/
  | coreDomainPowerDown (die : Nat)
  /-- ATTESTATION_REPORT, R397. -/
  | attestationReport (nonce : List Byte)
  /-- MEASUREMENT_EXTEND, R396. -/
  | measurementExtend (i : Nat) (d : List Byte)
  /-- GATE_SET_KEY, R394. -/
  | gateSetKey (h : GateHdr) (key : List Byte)
  /-- GATE_RANK_BANK, R386. -/
  | gateRankBank (h : GateHdr) (first : Nat) (entries : List Half)
  /-- GATE_GENERATION, R394. -/
  | gateGeneration (h : GateHdr) (gen : Half)
  /-- GATE_ROUTE_BANK, R387. -/
  | gateRouteBank (h : GateHdr) (first : Nat) (paths : List Byte)
  /-- GATE_ROUTE_SWAP, R387. -/
  | gateRouteSwap (h : GateHdr)
  /-- GATE_CLEAR_PORT_DOWN, R393. -/
  | gateClearPortDown (h : GateHdr) (mask : BitVec 36)
  /-- GATE_PKEY_ENTRY, R388. -/
  | gatePkeyEntry (h : GateHdr) (e : PkeyEntry)
  /-- GATE_BELFRY_CONFIG, R368. -/
  | gateBelfryConfig (h : GateHdr) (cfg : BelfryCfg)
  /-- GATE_RECAST_PLAN, R370. -/
  | gateRecastPlan (h : GateHdr) (pa : Dword)
  /-- GATE_FABID, R394. -/
  | gateFabid (h : GateHdr) (fabid : Half)
  /-- CORE_DOMAIN_POWER_UP, R120. -/
  | coreDomainPowerUp (die : Nat)
  /-- ENDL, R325. -/
  | endl
  /-- LADLE_RET, R325. -/
  | ladleRet
  /-- LADLE_FENCE, R325. -/
  | ladleFence
  /-- HALT, R325. -/
  | halt
  /-- DISPATCH, R286. -/
  | dispatch
  /-- ENDLOOP, R284. -/
  | endloop
  /-- RETL, R284. -/
  | retl
  /-- COLD_RESET, R111. -/
  | coldReset
  /-- WARM_RESET, R111. -/
  | warmReset
  /-- POWER_LOSS, R121. -/
  | powerLoss
  /-- STAGE_OFFER, R112. -/
  | stageOffer
  /-- FEAT_LOCK, R112. -/
  | featLock
  /-- THERM_TRIP, R116. -/
  | thermTrip
  /-- THERM_WARN, R116. -/
  | thermWarn
  /-- LANTERN_WD, R116. -/
  | lanternWd
  /-- FENCE_ABORT_DEADLINE, R363. -/
  | fenceAbortDeadline
  /-- BANK_SWAP, R363. -/
  | bankSwap
  deriving DecidableEq, Repr

end Sys2Proof
end

