-- ==== Sys2Proof/Config.lean ====
section
/-! DEFINITION. What the AED-NE8 or its fuses fix, and the free values: what the manual leaves open is an opaque
constant here, of which nothing can be proved. -/

namespace Sys2Proof.Config

/-! ## Free values (log entry 5) -/

/-- A byte the manual leaves open, one for each value of `State.fresh`. -/
opaque freeByte : Nat → Byte

/-- Byte i of the padding of a VCVT record, for each format, SCALED, SAT, rounding and source row (R251, R274). -/
opaque padByte : Fmt → Bool → Bool → Rm → List Byte → Nat → Byte

/-- Which entry of a full set of a cache leaves, for each value of `State.fresh` (log entry 15). -/
opaque freeWay : Nat → Nat

/-- How many ways of a slice are locked as the collective staging ring; at most four count (R199; log entry 15). -/
opaque stagingWays : Nat → Nat

/-- The choice that the AED-NE8's fixed special functions make among the results that R164 admits for an operand: the
function's opcode and the operand's bits select it (R166; log entry 8). -/
opaque freeUlp : Nat → Word → Nat

/-! ## Cryptography outside the manual (log entry 9) -/

/-- Whether an ML-DSA-44 signature over a message verifies under a public key (FIPS 204; R394). -/
opaque mlDsaVerify : List Byte → List Byte → List Byte → Bool

/-- The ML-DSA-44 signature that the identity unit makes over a report (FIPS 204; R397). -/
opaque mlDsaSign : List Byte → BitVec 19360

/-- The identity public key that FIPS 204 derives from the fused seed (R395). -/
opaque identityKey : List Byte

/-- The boot nonce of 32 bytes that the gate draws at reset number n (R394). -/
opaque bootNonce : Nat → BitVec 256

/-! ## Formats that the manual leaves to the firmware (log entry 11) -/

/-- The body of a gate message with an OP and its fields in the order of R394. -/
opaque gateBody : Nat → List Nat → List Byte

/-- The security version that a firmware image carries (R118). -/
opaque imageVersion : List Byte → Nat

/-! ## Fuses (R119, R394; log entry 4) -/

/-- The fused hash of the key that signs firmware images, and the fused minimum of their security version (R118, R119). -/
opaque bootKeyHash : List Byte
opaque minVersion : Nat

/-- The fused hash of the fabric manager's public key. -/
opaque fabricKeyHash : List Byte

/-- The fused serial. -/
opaque serial : Dword

/-- DEV_ID.STEP. DESIGN CHOICE (log entry 4). -/
def step : Byte := 0

/-- PWR_CLAMP.WATTS: fused, at most 2,600 (R115). DESIGN CHOICE: the greatest value admitted (log entry 4). -/
def pwrClamp : Half := 2600

/-! ## Capacities of the AED-NE8 (R16, R20, R21) -/

def nCores : Nat := 2048
def nThreads : Nat := 2048
def nCrews : Nat := 128
def nBlocks : Nat := 32
def nBarriers : Nat := 16
def nRings : Nat := 16
def laneRegs : Nat := 2048
def locBytes : Nat := 262144
def wbufBytes : Nat := 524288
def abufBytes : Nat := 524288
def cbufBytes : Nat := 2097152
def hbmBytes : Nat := 824633720832
def nPorts : Nat := 36
def nStreams : Nat := 16
def nQueues : Nat := 128
def queueEntries : Nat := 64
def launchEntries : Nat := 256
def collSlots : Nat := 256
def receiptsPer : Nat := 256
def logRecords : Nat := 2048
def runAheadBytes : Nat := 32768
def stagingTile : Nat := 32768
def stagingBytes : Nat := 65536
def stripesInFlight : Nat := 64

end Sys2Proof.Config
end

