-- ==== Sys2Proof/WellFormed.lean ====
section
/-! DEFINITION. Which instructions are well formed: the operand, type, scope and field limits that spec/03_encoding.md
(R75 to R83, R87) and each instruction's own rule give. A word that breaks one of them decodes to no instruction. -/

namespace Sys2Proof

/-- The width n of an integer type (R123). -/
def IType.n : IType → Nat
  | .i8 => 8 | .n8 => 8 | .i16 => 16 | .n16 => 16 | .i32 => 32 | .n32 => 32 | .i64 => 64 | .n64 => 64

/-- Whether a type is read as signed (R123). -/
def IType.signed : IType → Bool
  | .i8 => true | .i16 => true | .i32 => true | .i64 => true | .n8 => false | .n16 => false | .n32 => false | .n64 => false

/-- Whether a type is 64 bits wide. -/
def IType.w64 (t : IType) : Bool := t.n == 64

/-- A format's width in bits (R39). -/
def Fmt.n : Fmt → Nat
  | .f32 => 32 | .f16 => 16 | .bf16 => 16 | .e4m3 => 8 | .e5m2 => 8 | .e2m3 => 6 | .e3m2 => 6 | .e2m1 => 4
  | .lns6 => 6 | .f64 => 64

def evenReg (r : GReg) : Bool := r.toNat % 2 == 0

def quadReg (r : GReg) : Bool := r.toNat % 4 == 0

/-- A guard other than 0x8 (R77). -/
def guardWf (g : BitVec 4) : Bool := g != 8

/-- A register operand of an integer type: a pair when the type is 64 bits wide (R123). -/
def tyReg (t : IType) (r : GReg) : Bool := !t.w64 || evenReg r

/-- The value of an immediate extended for a type (R124). -/
def immVal {w : Nat} (t : IType) (v : BitVec w) : Int := if t.signed then v.toInt else (v.toNat : Int)

/-- An imm32 within the range of an 8-bit or 16-bit type (R124). -/
def imm32Wf (t : IType) (v : Word) : Bool :=
  if t.n == 8 || t.n == 16 then
    if t.signed then decide (-(2 ^ (t.n - 1) : Int) ≤ v.toInt ∧ v.toInt < 2 ^ (t.n - 1)) else decide (v.toNat < 2 ^ t.n)
  else true

/-- The last source of an integer instruction; `wide` says whether imm32 is admitted. -/
def srcWf (t : IType) (wide : Bool) : Src → Bool
  | .reg r => tyReg t r
  | .imm8 _ => true
  | .imm32 v => wide && imm32Wf t v

def isN3264 : IType → Bool
  | .n32 => true | .n64 => true | _ => false

def is3264 (t : IType) : Bool := t.n == 32 || t.n == 64

/-- The shape d, a, b with an integer type. -/
def alu3Wf (types : IType → Bool) (sat wide : Bool) (x : Alu3Args) : Bool :=
  guardWf x.g && types x.t && (sat || !x.sat) && tyReg x.t x.d && tyReg x.t x.a && srcWf x.t wide x.b

/-- The shape of SHL, SHR and ROT: the amount is one register or imm8 (R137). -/
def amountWf : Src → Bool
  | .reg _ => true | .imm8 _ => true | .imm32 _ => false

def unWf (types : IType → Bool) (sat : Bool) (pairD : Bool) (x : UnArgs) : Bool :=
  guardWf x.g && types x.t && (sat || !x.sat) && (!pairD || tyReg x.t x.d) && tyReg x.t x.a

def moviWf (x : MoviArgs) : Bool :=
  guardWf x.g && (match x.v with | .n32 _ => true | _ => evenReg x.d)

/-! ## Shapes of the floating-point families (R150) -/

def isF3264 : Fmt → Bool
  | .f32 => true | .f64 => true | _ => false

def isPacked : Fmt → Bool
  | .f16 => true | .bf16 => true | _ => false

/-- A register operand of a format: a pair for FP64 (R150). -/
def fReg (f : Fmt) (r : GReg) : Bool := f != .f64 || evenReg r

/-- Register or imm32; the 96-bit form is not admitted with FP64 (R150). -/
def fRI (f : Fmt) : RI → Bool
  | .reg r => fReg f r
  | .imm _ => f != .f64

def notRs (rm : Rm) : Bool := rm != .rs

/-- FADD to FMUL and HADD2 to HMUL2: a rounding code and `.sat` (R151, R156). -/
def fp3Wf (fmts : Fmt → Bool) (x : Fp3Args) : Bool :=
  guardWf x.g && fmts x.f && notRs x.rm && fReg x.f x.d && fReg x.f x.a && fRI x.f x.b

/-- FMIN, FMAX: no rounding, no `.sat`, no immediate (R153); `wide` admits imm32 (R156). -/
def fminWf (fmts : Fmt → Bool) (wide : Bool) (x : Fp3Args) : Bool :=
  fp3Wf fmts x && x.rm == .rn && !x.sat && (wide || match x.b with | .reg _ => true | .imm _ => false)

def fmaWf (fmts : Fmt → Bool) (x : FmaArgs) : Bool :=
  guardWf x.g && fmts x.f && notRs x.rm && fReg x.f x.d && fReg x.f x.a && fReg x.f x.b && fRI x.f x.c

def fcmpWf (fmts : Fmt → Bool) (x : FcmpArgs) : Bool :=
  guardWf x.g && fmts x.f && fReg x.f x.a && fRI x.f x.b

def CType.pair : CType → Bool
  | .int t => t.w64
  | .flt f => f == .f64

def ctReg (t : CType) (r : GReg) : Bool := !t.pair || evenReg r

/-- The rounding codes admitted into a format (R159): to LNS6 only `.rn` and `.rz`. -/
def roundTo (f : Fmt) (rm : Rm) : Bool := f != .lns6 || rm == .rn || rm == .rz

/-- CVT (R158, R159). -/
def cvtWf (x : CvtArgs) : Bool :=
  guardWf x.g && ctReg x.dt x.d && ctReg x.st x.a && (x.rm == .rs || x.w == 0) &&
    (match x.dt, x.st with
     | .flt f, _ => roundTo f x.rm
     | .int _, .flt _ => notRs x.rm
     | .int _, .int _ => x.rm == .rn)

/-- CVTS (R160). -/
def cvtsWf (x : CvtsArgs) : Bool :=
  guardWf x.g && fReg x.dt x.d && fReg x.st x.a && (x.rm == .rs || x.w == 0) && roundTo x.dt x.rm

def unpkWf (x : F1Args) : Bool :=
  guardWf x.g && x.rm == .rn &&
    (match x.f with
     | .bf16 => evenReg x.d | .f16 => evenReg x.d | .e4m3 => quadReg x.d | .e5m2 => quadReg x.d | _ => false)

/-- The FP32-only special functions (R164). -/
def f1FixedWf (x : F1Args) : Bool := guardWf x.g && x.f == .f32 && x.rm == .rn

/-- FRCP, FSQRT and FRINT (R161, R164). -/
def f1RoundWf (x : F1Args) : Bool := guardWf x.g && isF3264 x.f && notRs x.rm && fReg x.f x.d && fReg x.f x.a

def packWf (x : Fp3Args) : Bool :=
  guardWf x.g && isPacked x.f && notRs x.rm && (match x.b with | .reg _ => true | .imm _ => false)

/-! ## Memory shapes (R194, R201 to R218) -/

def blkScope : Scope → Bool
  | .thr => true | .crw => true | .blk => true | _ => false

/-- The scopes that a space admits for loads and stores (R194). -/
def spaceScope : Space → Scope → Bool
  | .glb, _ => true
  | .prv, sc => sc == .thr
  | .loc, sc => blkScope sc
  | .wbuf, sc => blkScope sc
  | .abuf, sc => blkScope sc
  | .cbuf, sc => blkScope sc

/-- The spaces and scopes that atomics admit (R194). -/
def atomSpace : Space → Scope → Bool
  | .glb, _ => true
  | .loc, sc => blkScope sc
  | _, _ => false

/-- The address base: a pair for `glb` and `prv` (R83). -/
def baseReg : Space → GReg → Bool
  | .glb, a => evenReg a
  | .prv, a => evenReg a
  | _, _ => true

/-- A class L header: its guard (R77). -/
def lhdrWf (h : LHdr) : Bool := guardWf h.g

/-- An atomic operation and its type (R213); `.exch` only where `exch` says so. -/
def atomOpWf (exch : Bool) : AtomOp → Bool
  | .int o t => is3264 t && (exch || o != .exch)
  | .flt .add f => isF3264 f || isPacked f
  | .flt .min f => isF3264 f
  | .flt .max f => isF3264 f

/-- The width in bits of an atomic's operand: 32 for the two-wide formats (R213). -/
def AtomOp.n : AtomOp → Nat
  | .int _ t => t.n
  | .flt _ .f64 => 64
  | .flt _ _ => 32

def atomReg (o : AtomOp) (r : GReg) : Bool := o.n != 64 || evenReg r

def ldWf (x : LdArgs) : Bool :=
  lhdrWf x.h && spaceScope x.space x.scope && tyReg x.t x.d && baseReg x.space x.a

def stWf (x : StArgs) : Bool :=
  lhdrWf x.h && spaceScope x.space x.scope && tyReg x.t x.b && baseReg x.space x.a

def ldcWf (x : LdcArgs) : Bool := lhdrWf x.h && isN3264 x.t && tyReg x.t x.d

def atomWf (x : AtomArgs) : Bool :=
  lhdrWf x.h && atomOpWf true x.op && atomSpace x.space x.scope && atomReg x.op x.d && atomReg x.op x.b &&
    baseReg x.space x.a

def casWf (x : CasArgs) : Bool :=
  lhdrWf x.h && is3264 x.t && atomSpace x.space x.scope && tyReg x.t x.d && tyReg x.t x.b && tyReg x.t x.c &&
    baseReg x.space x.a

def redWf (x : RedArgs) : Bool :=
  lhdrWf x.h && atomOpWf false x.op && atomSpace x.space x.scope && atomReg x.op x.b && baseReg x.space x.a

def redtWf (x : RedtArgs) : Bool :=
  lhdrWf x.h && atomOpWf false x.op && atomReg x.op x.b && evenReg x.a

def cpyWf (x : CpyArgs) : Bool :=
  lhdrWf x.h && (x.scope == .dev || x.scope == .sys) && x.space != .glb && x.space != .prv && evenReg x.a

/-! ## Matrix and vector shapes (R248 to R270) -/

/-- The weight records that R248's table admits. -/
def recordWf (fmt : Fmt) (scaled sparse : Bool) : Bool :=
  match fmt with
  | .lns6 => scaled
  | .e4m3 => true
  | .e5m2 => true
  | .bf16 => !scaled
  | .f16 => !scaled
  | .f32 => !scaled && !sparse
  | _ => false

def dcvOk (v : Word) : Bool := (v >>> 16) == 0 && (v >>> 4) &&& 0xF == 0 && v &&& 3 != 2 && v &&& 3 != 3

def dcfgWf (x : DcfgArgs) : Bool := guardWf x.g && (match x.v with | .reg _ => true | .imm v => dcvOk v)

def vFmt : Fmt → Bool
  | .f32 => true | .f16 => true | .bf16 => true | _ => false

/-- A register and space bit of an operand that the instruction lacks must be zero (R265). -/
def lacks (has : Bool) (sp : Bool) (r : GReg) : Bool := has || (!sp && r == 0)

/-- The layout of R265: which of a, b and c the instruction has, and whether it rounds. -/
def vecWf (a b c : Bool) (rounds : Bool) (ops : Nat) (x : VecArgs) : Bool :=
  lhdrWf x.h && decide (x.op.toNat < ops) && vFmt x.fmt && notRs x.rm && (rounds || (x.rm == .rn && !x.sat)) &&
    lacks a x.sa x.a && lacks b x.sb x.b && lacks c x.sc x.c &&
    (x.fmt == .f32 || !(x.sd && (!a || x.sa) && (!b || x.sb) && (!c || x.sc)))

def vcvtWf (x : VcvtArgs) : Bool :=
  lhdrWf x.h && (x.fmt == .e4m3 || x.fmt == .e5m2 || (x.fmt == .lns6 && x.scaled)) && (x.rm == .rn || x.rm == .rz)

def vstWf (x : VstArgs) : Bool :=
  lhdrWf x.h && (x.scope == .dev || x.scope == .sys) && vFmt x.fmt && notRs x.rm && evenReg x.d &&
    (x.sa || (x.rm == .rn && !x.sat))

/-! ## Fabric and system shapes -/

def tokWf (t : Half) : Bool := t == 0xFFFF || decide (t.toNat < 4096)

def collWf (x : CollArgs) : Bool := lhdrWf x.h && evenReg x.a && tokWf x.t0 && tokWf x.t1 && tokWf x.t2 && tokWf x.t3

def tokRiWf : RI → Bool
  | .reg _ => true
  | .imm v => decide (v.toNat < 4096)

/-- The 64-bit system registers (R100). -/
def SysReg.wide : SysReg → Bool
  | .thstat => false | .fcause => false | .finfo => false | _ => true

/-- The system registers that SWR admits (R100). -/
def SysReg.writable : SysReg → Bool
  | .thstat => false | .csp => false | .cslo => false | .cshi => false | _ => true

def sysReg (r : SysReg) (x : GReg) : Bool := !r.wide || evenReg x

/-- A crew mask number (R76). -/
def maskNo (m : BitVec 4) : Bool := decide (m.toNat < 12)

/-! ## Ladle commands (R311 to R325) -/

/-- Formats of unscaled SRC elements (R313). -/
def srcPlain : Fmt → Bool
  | .f32 => true | .f16 => true | .bf16 => true | .e4m3 => true | .e5m2 => true | .f64 => true | _ => false

/-- Formats of scaled SRC elements (R313). -/
def srcScaled : Fmt → Bool
  | .e4m3 => true | .e5m2 => true | .e2m3 => true | .e3m2 => true | .e2m1 => true | .lns6 => true | _ => false

/-- The byte multiple that BASE and every stride keep: the element's size, or one packed block (R313). -/
def srcAlign (raw : Bool) (f : Fmt) : Nat :=
  if raw then 1 else if f.n == 6 then 24 else if f.n == 4 then 16 else f.n / 8

def lsrcWf (x : LSrc) : Bool :=
  decide (1 ≤ x.dims.length ∧ x.dims.length ≤ 5) &&
    (if x.raw then !x.scaled && x.fmt == .f32 else if x.scaled then srcScaled x.fmt else srcPlain x.fmt) &&
    x.dims.all (fun d => d.1 != 0) &&
    (match x.dims with
     | [] => false
     | d :: _ => d.2 == 0 && (!x.scaled || d.1.toNat % 32 == 0)) &&
    decide (x.base.toNat % srcAlign x.raw x.fmt = 0) &&
    x.dims.all (fun d => decide (d.2.toInt % (srcAlign x.raw x.fmt : Int) = 0)) &&
    (x.scaled || x.sbase == 0)

/-- The number of ones of a word. -/
def popCount {w : Nat} (v : BitVec w) : Nat := (List.range w).foldl (fun n i => if v.getLsbD i then n + 1 else n) 0

def ldstWf (x : LDst) : Bool :=
  decide (1 ≤ popCount x.rmask ∧ popCount x.rmask ≤ 12) && decide (x.logn.toNat ≤ 8) && x.slotsz != 0 && x.pitch != 0 &&
    decide (x.land.toNat % 16 = 0) && decide (2 ^ x.logn.toNat * (x.slotsz.toNat * 64) ≤ 2 ^ 31)

def lwalkWf (x : LWalk) : Bool := decide (x.adim.toNat ≤ 4)

def lgatherWf (x : LGather) : Bool := decide (x.list.toNat % (if x.w64 then 8 else 4) = 0)

def lquantWf (x : LQuant) : Bool :=
  !x.off || (x.tfmt == .f32 && !x.scaled && x.rm == .rn && !x.sat && x.salt == 0 && x.key == 0)

def wordAddr (a : Dword) : Bool := decide (a.toNat % 4 = 0)

def ltokWf (x : LSignal) : Bool := x.addr == 0 && decide (x.value.toNat < 4096)

/-! ## Lantern records (R278 to R285) -/

def partWf (first count1 : BitVec 11) : Bool := decide (first.toNat + count1.toNat + 1 ≤ 2048)

def launchWf (x : LaunchArgs) : Bool :=
  partWf x.first x.count1 && decide (x.desc.toNat % 64 = 0) && decide (x.gx.toNat * x.gy.toNat * x.gz.toNat < 2 ^ 32)

def launchiWf (x : LaunchiArgs) : Bool := partWf x.first x.count1 && decide (x.desc.toNat % 64 = 0)

def memCondWf (m : MemCond) : Bool :=
  if m.w32 then decide (m.addr.toNat % 4 = 0 ∧ m.value.toNat < 2 ^ 32 ∧ m.mask.toNat < 2 ^ 32)
  else decide (m.addr.toNat % 8 = 0)

def signalWf (n : Nat) (x : SignalArgs) : Bool := decide (x.addr.toNat % n = 0)

def aligned64K (a : Dword) : Bool := decide (a.toNat % 65536 = 0)

def snapCreateWf (x : SnapArgs) : Bool := aligned64K x.base && x.len != 0 && aligned64K x.len

def snapReleaseWf (x : SnapArgs) : Bool := snapCreateWf x

/-! ## All instructions -/

/-- Whether an instruction's fields keep the limits of the manual. An event carries no encoded fields. -/
def Instr.wf : Instr → Bool
  | .nop x => guardWf x.g
  | .bra x => guardWf x.g
  | .brx x => guardWf x.g && evenReg x.a
  | .call x => guardWf x.g
  | .callx x => guardWf x.g && evenReg x.a
  | .ret x => guardWf x.g
  | .exit x => guardWf x.g
  | .yield x => guardWf x.g
  | .pause x => guardWf x.g
  | .iadd x => alu3Wf (fun _ => true) true true x
  | .isub x => alu3Wf (fun _ => true) true true x
  | .imul x => alu3Wf (fun _ => true) true true x
  | .imulh x => alu3Wf is3264 false false x
  | .imad x => guardWf x.g && tyReg x.t x.d && tyReg x.t x.a && tyReg x.t x.b && srcWf x.t false x.c
  | .idiv x => alu3Wf (fun _ => true) false false x
  | .irem x => alu3Wf (fun _ => true) false false x
  | .imin x => alu3Wf (fun _ => true) false true x
  | .imax x => alu3Wf (fun _ => true) false true x
  | .iabs x => unWf (fun t => t.signed) true true x
  | .lea x => guardWf x.g && evenReg x.d && evenReg x.a && (x.t == .i32 || x.t == .n32 || x.t == .i64) && srcWf x.t true x.b
  | .icmp x => guardWf x.g && tyReg x.t x.a && srcWf x.t true x.b
  | .isel x => guardWf x.g && isN3264 x.t && tyReg x.t x.d && tyReg x.t x.a && tyReg x.t x.b
  | .mov x => unWf isN3264 false true x
  | .movi x => moviWf x
  | .movs x => guardWf x.g
  | .and x => alu3Wf isN3264 false true x
  | .or x => alu3Wf isN3264 false true x
  | .xor x => alu3Wf isN3264 false true x
  | .lut3 x => guardWf x.g && (!x.wide || (evenReg x.d && evenReg x.a && evenReg x.b && evenReg x.c))
  | .plut x => guardWf x.g
  | .shl x => guardWf x.g && isN3264 x.t && !x.sat && tyReg x.t x.d && tyReg x.t x.a && amountWf x.b
  | .shr x => guardWf x.g && is3264 x.t && !x.sat && tyReg x.t x.d && tyReg x.t x.a && amountWf x.b
  | .rot x => guardWf x.g && isN3264 x.t && tyReg x.t x.d && tyReg x.t x.a && amountWf x.b
  | .bfe x => guardWf x.g && is3264 x.t && tyReg x.t x.d && tyReg x.t x.a && decide (x.p.toNat + x.len1.toNat + 1 ≤ x.t.n)
  | .bfi x => guardWf x.g && isN3264 x.t && tyReg x.t x.d && tyReg x.t x.a && tyReg x.t x.b &&
      decide (x.p.toNat + x.len1.toNat + 1 ≤ x.t.n)
  | .popc x => unWf isN3264 false false x
  | .clz x => unWf isN3264 false false x
  | .brev x => unWf isN3264 false true x
  | .bsel x => guardWf x.g
  | .fadd x => fp3Wf isF3264 x
  | .fsub x => fp3Wf isF3264 x
  | .fmul x => fp3Wf isF3264 x
  | .fma x => fmaWf isF3264 x
  | .fdiv x => fp3Wf isF3264 x && !x.sat && (match x.b with | .reg _ => true | .imm _ => false)
  | .fmin x => fminWf isF3264 false x
  | .fmax x => fminWf isF3264 false x
  | .fcmp x => fcmpWf isF3264 x
  | .fclass x => guardWf x.g && isF3264 x.f && x.rm == .rn && fReg x.f x.a
  | .hadd2 x => fp3Wf isPacked x
  | .hsub2 x => fp3Wf isPacked x
  | .hmul2 x => fp3Wf isPacked x
  | .hfma2 x => fmaWf isPacked x
  | .hmin2 x => fminWf isPacked true x
  | .hmax2 x => fminWf isPacked true x
  | .hcmp2 x => fcmpWf isPacked x && decide (x.pd.toNat % 2 = 0)
  | .cvt x => cvtWf x
  | .cvts x => cvtsWf x
  | .frint x => f1RoundWf x
  | .pack x => packWf x
  | .unpk x => unpkWf x
  | .rnd x => guardWf x.g && quadReg x.d && evenReg x.k && quadReg x.c
  | .rndLo x => guardWf x.g && evenReg x.k && quadReg x.c
  | .fexp2 x => f1FixedWf x
  | .flog2 x => f1FixedWf x
  | .frcp x => f1RoundWf x
  | .frsq x => f1FixedWf x
  | .fsqrt x => f1RoundWf x
  | .fsin x => f1FixedWf x
  | .fcos x => f1FixedWf x
  | .ftanh x => f1FixedWf x
  | .ld x => ldWf x
  | .st x => stWf x
  | .ldc x => ldcWf x
  | .pref x => guardWf x.g && evenReg x.a
  | .fence x => guardWf x.g && x.ord != .plain
  | .cctlL1inv x => guardWf x.g
  | .cctlIinv x => guardWf x.g && evenReg x.a
  | .cctlIinvall x => guardWf x.g
  | .atom x => atomWf x
  | .cas x => casWf x
  | .red x => redWf x
  | .redt x => redtWf x
  | .rclose x => guardWf x.g
  | .cpyIn x => cpyWf x
  | .cpyOut x => cpyWf x
  | .tbari x => guardWf x.g
  | .tbara x => guardWf x.g
  | .tbaraN x => guardWf x.g
  | .tbarvd x => guardWf x.g
  | .tbarw x => guardWf x.g
  | .bar x => guardWf x.g
  | .barArv x => guardWf x.g
  | .ringp x => guardWf x.g
  | .ringwEmpty x => guardWf x.g
  | .ringwFull x => guardWf x.g
  | .join x => guardWf x.g && maskNo x.m
  | .leave x => guardWf x.g && maskNo x.m
  | .wait x => guardWf x.g && maskNo x.m
  | .waitPut x => guardWf x.g && maskNo x.m
  | .mset x => guardWf x.g && maskNo x.m && evenReg x.r
  | .msetRd x => guardWf x.g && maskNo x.m && evenReg x.r
  | .xshf x => guardWf x.g && maskNo x.m
  | .xvote x => guardWf x.g && maskNo x.m && evenReg x.e
  | .xbal x => guardWf x.g && maskNo x.m && evenReg x.d && evenReg x.e && x.d != x.e
  | .xred x => guardWf x.g && maskNo x.m && (!x.sat || (x.op == .add && x.t != .f32)) &&
      (x.t != .f32 || x.op == .add || x.op == .min || x.op == .max)
  | .wld x => lhdrWf x.h && recordWf x.fmt x.scaled false
  | .wlds x => lhdrWf x.h && recordWf x.fmt x.scaled true
  | .mloop x => lhdrWf x.h && recordWf x.fmt x.scaled x.sparse
  | .mzero x => lhdrWf x.h && x.len != 0 && decide (x.len.toNat % 64 = 0)
  | .msync x => guardWf x.g
  | .mstat x => guardWf x.g && evenReg x.d
  | .msclr x => guardWf x.g && evenReg x.a
  | .dcfg x => dcfgWf x
  | .vadd x => vecWf true true false true 1 x
  | .vsub x => vecWf true true false true 1 x
  | .vmul x => vecWf true true false true 1 x
  | .vfma x => vecWf true true true true 1 x
  | .vmin x => vecWf true true false true 1 x
  | .vmax x => vecWf true true false true 1 x
  | .vexp2 x => vecWf true false false true 1 x
  | .vrmax x => vecWf true false false false 2 x
  | .vrsum x => vecWf true false false false 2 x
  | .vscl x => vecWf true true false true 3 x
  | .vcvt x => vcvtWf x
  | .vcmp x => vecWf true true false false 8 x
  | .vmov x => if x.op == 0 then vecWf true false false true 2 x else vecWf false true false false 2 x
  | .vst x => vstWf x
  | .ldlStart x => lhdrWf x.h && evenReg x.a
  | .ldlStartAt x => lhdrWf x.h && evenReg x.a
  | .ldlStop x => guardWf x.g
  | .ldlStat x => guardWf x.g && evenReg x.d
  | .ldlStatFree x => guardWf x.g && evenReg x.d
  | .ldlBaseBind x => guardWf x.g
  | .ldlBaseFree x => guardWf x.g
  | .await x => guardWf x.g
  | .arels x => guardWf x.g
  | .rld x => guardWf x.g && tyReg x.t x.d && evenReg x.a
  | .rst x => lhdrWf x.h && tyReg x.t x.b && evenReg x.a
  | .ratom x => lhdrWf x.h && atomOpWf true x.op && atomReg x.op x.d && atomReg x.op x.b && evenReg x.a
  | .ratomCas x => lhdrWf x.h && is3264 x.t && tyReg x.t x.d && tyReg x.t x.b && tyReg x.t x.c && evenReg x.a
  | .rred x => lhdrWf x.h && atomOpWf false x.op && atomReg x.op x.b && evenReg x.a
  | .flowselOrd x => guardWf x.g
  | .flowselUnord x => guardWf x.g
  | .coll x => collWf x
  | .token x => guardWf x.g && tokRiWf x.t
  | .twait x => guardWf x.g && tokRiWf x.t
  | .mfence x => guardWf x.g
  | .trap x => guardWf x.g
  | .bkpt x => guardWf x.g
  | .hret x => guardWf x.g
  | .hretSkip x => guardWf x.g
  | .preck x => guardWf x.g
  | .srd x => guardWf x.g && sysReg x.r x.x
  | .swr x => guardWf x.g && x.r.writable && sysReg x.r x.x
  | .fltr x => guardWf x.g
  | .fltrPg x => guardWf x.g && evenReg x.a
  | .escl x => guardWf x.g
  | .cycr x => guardWf x.g && evenReg x.d
  | .perfr x => guardWf x.g && evenReg x.d && decide (x.n.toNat ≤ 9)
  | .ladleSrc x => lsrcWf x
  | .ladleDst x => ldstWf x
  | .ladleWalk x => lwalkWf x
  | .ladleGather x => lgatherWf x
  | .ladleQuant x => lquantWf x
  | .ladleLoop n => n != 0
  | .ladleBr x => wordAddr x.addr
  | .waitm x => wordAddr x.addr
  | .ladleSignalStore32 x => wordAddr x.addr
  | .ladleSignalAdd32 x => wordAddr x.addr
  | .ladleSignalToken x => ltokWf x
  | .ladleCall a => decide (a.toNat % 16 = 0)
  | .launch x => launchWf x
  | .launchi x => launchiWf x
  | .lanternLoop n => n != 0
  | .ifmem x => memCondWf x.m
  | .calll a => decide (a.toNat % 32 = 0)
  | .waitmem x => memCondWf x.m
  | .signalStore64 x => signalWf 8 x
  | .signalAdd64 x => signalWf 8 x
  | .signalStore32 x => signalWf 4 x
  | .signalAdd32 x => signalWf 4 x
  | .snapCreate x => snapCreateWf x
  | .snapRelease x => snapReleaseWf x
  | .preempt x => aligned64K x.save
  | .resume x => aligned64K x.save
  | _ => true

end Sys2Proof
end

