-- ==== Sys2Proof/Machine/Num.lean ====
section
/-! DEFINITION. Exact reals, the number formats and every rounding of spec/02_numbers.md (R37 to R68), and the special
functions of R164 to R166. -/

namespace Sys2Proof.Machine

/-- The reals of the manual's pseudocode (R68): −0, ±∞ and NaN are distinct values. `fin s m e` is (−1)^s × m × 2^e;
`quart s q` is (−1)^s × 2^(q/4), the value of an LNS6 code times a power of two, used where q is no multiple of 4. -/
inductive XR
  | nan
  | inf (s : Bool)
  | fin (s : Bool) (m : Nat) (e : Int)
  | quart (s : Bool) (q : Int)
  deriving DecidableEq, Repr

/-! ## Formats (R39, R43) -/

def Fmt.frac : Fmt → Nat
  | .f32 => 23 | .f16 => 10 | .bf16 => 7 | .e4m3 => 3 | .e5m2 => 2 | .e2m3 => 3 | .e3m2 => 2 | .e2m1 => 1 | .lns6 => 0
  | .f64 => 52

def Fmt.ebits : Fmt → Nat
  | .f32 => 8 | .f16 => 5 | .bf16 => 8 | .e4m3 => 4 | .e5m2 => 5 | .e2m3 => 2 | .e3m2 => 3 | .e2m1 => 2 | .lns6 => 0
  | .f64 => 11

def Fmt.bias : Fmt → Nat
  | .f32 => 127 | .f16 => 15 | .bf16 => 127 | .e4m3 => 7 | .e5m2 => 15 | .e2m3 => 1 | .e3m2 => 3 | .e2m1 => 1
  | .lns6 => 0 | .f64 => 1023

def Fmt.hasInf : Fmt → Bool
  | .f32 => true | .f16 => true | .bf16 => true | .e5m2 => true | .f64 => true | _ => false

def Fmt.hasNan : Fmt → Bool
  | .e2m3 => false | .e3m2 => false | .e2m1 => false | _ => true

/-- The canonical NaN of R40; code 0 for the formats that have none (R50). -/
def canonicalNan : Fmt → Nat
  | .f64 => 0x7FF8000000000000 | .f32 => 0x7FC00000 | .f16 => 0x7E00 | .bf16 => 0x7FC0 | .e4m3 => 0x7F | .e5m2 => 0x7E
  | .lns6 => 0x20 | _ => 0

/-- The sign bit's weight. -/
def Fmt.signBit (f : Fmt) : Nat := 2 ^ (Fmt.n f - 1)

/-- The encoding of the largest finite magnitude (R39). -/
def Fmt.maxCode (f : Fmt) : Nat :=
  match f with
  | .e4m3 => 0x7E
  | .lns6 => 31
  | f => if Fmt.hasInf f then (2 ^ Fmt.ebits f - 1) * 2 ^ Fmt.frac f - 1 else 2 ^ (Fmt.n f - 1) - 1

/-- The exponent of the smallest subnormal (R39). -/
def Fmt.emin (f : Fmt) : Int := 1 - (Fmt.bias f : Int) - Fmt.frac f

/-- `to_real` of R68: the value of an encoding (R39, R43). Bits above the format's width are ignored (R150). -/
def toReal (f : Fmt) (x : Nat) : XR :=
  let x := x % 2 ^ Fmt.n f
  let s := decide (Fmt.signBit f ≤ x)
  let a := x % Fmt.signBit f
  match f with
  | .lns6 =>
    if a = 0 then (if s then .nan else .fin false 0 0)
    else if ((a : Int) - 16) % 4 = 0 then .fin s 1 (((a : Int) - 16) / 4) else .quart s ((a : Int) - 16)
  | f =>
    let e := a / 2 ^ Fmt.frac f
    let m := a % 2 ^ Fmt.frac f
    if Fmt.hasInf f && e = 2 ^ Fmt.ebits f - 1 then (if m = 0 then .inf s else .nan)
    else if f == .e4m3 && a = 0x7F then .nan
    else if e = 0 then .fin s m (Fmt.emin f)
    else .fin s (2 ^ Fmt.frac f + m) (Fmt.emin f + e - 1)

/-! ## Exact arithmetic -/

/-- The integer square root, by `b` binary digits. -/
def isqrtBits : Nat → Nat → Nat → Nat
  | 0, _, r => r
  | b + 1, n, r => isqrtBits b n (if (r + 2 ^ b) * (r + 2 ^ b) ≤ n then r + 2 ^ b else r)

def isqrt (n : Nat) : Nat := isqrtBits (n.log2 / 2 + 1) n 0

/-- A binary value that stands for 2^(q/4) in every comparison with a value of at most 120 bits: the power's leading
bits with a 1 below them for the rest, since the power is irrational. -/
def quartApprox (s : Bool) (q : Int) : XR :=
  .fin s (2 * isqrt (isqrt (2 ^ ((q % 4).toNat + 640))) + 1) (q / 4 - 161)

def XR.norm : XR → XR
  | .quart s q => quartApprox s q
  | v => v

def XR.neg : XR → XR
  | .nan => .nan
  | .inf s => .inf !s
  | .fin s m e => .fin (!s) m e
  | .quart s q => .quart (!s) q

def XR.isNan : XR → Bool
  | .nan => true
  | _ => false

/-- The magnitude's integer at the exponent `e0` at most `e`. -/
def scaleTo (m : Nat) (e e0 : Int) : Nat := m * 2 ^ (e - e0).toNat

/-- The signed integer of a finite value at exponent `e0`. -/
def signedAt (s : Bool) (m : Nat) (e e0 : Int) : Int := if s then -(scaleTo m e e0 : Int) else (scaleTo m e e0 : Int)

/-- The exact sum; an exact zero of operands of opposite sign is −0 under `.rd` and +0 otherwise (R50 step 2). -/
def xadd (rm : Rm) (a b : XR) : XR :=
  match a.norm, b.norm with
  | .fin s m e, .fin t n f =>
    let e0 := min e f
    let v := signedAt s m e e0 + signedAt t n f e0
    if v = 0 then (if s == t then .fin s 0 0 else .fin (rm == .rd) 0 0)
    else .fin (decide (v < 0)) v.natAbs e0
  | .nan, _ => .nan
  | _, .nan => .nan
  | .inf s, .inf t => if s == t then .inf s else .nan
  | .inf s, _ => .inf s
  | _, .inf t => .inf t
  | _, _ => .nan

/-- The exact product; 0 × ∞ is NaN. -/
def xmul (a b : XR) : XR :=
  match a.norm, b.norm with
  | .fin s m e, .fin t n f => .fin (s != t) (m * n) (e + f)
  | .nan, _ => .nan
  | _, .nan => .nan
  | .inf s, .inf t => .inf (s != t)
  | .inf s, .fin t n _ => if n = 0 then .nan else .inf (s != t)
  | .fin s m _, .inf t => if m = 0 then .nan else .inf (s != t)
  | _, _ => .nan

/-- A × 2^k, exactly. -/
def xscale (a : XR) (k : Int) : XR :=
  match a with
  | .fin s m e => .fin s m (e + k)
  | .quart s q => .quart s (q + 4 * k)
  | v => v

/-- A quotient that rounds as the exact one does: 160 leading bits, and a 1 below them when the division is not exact. -/
def xdiv (a b : XR) : XR :=
  match a.norm, b.norm with
  | .fin s m e, .fin t n f =>
    if n = 0 then (if m = 0 then .nan else .inf (s != t))
    else
      let k := 160 + n.log2
      let q := m * 2 ^ k / n
      .fin (s != t) (2 * q + (if m * 2 ^ k % n = 0 then 0 else 1)) (e - f - k - 1)
  | .nan, _ => .nan
  | _, .nan => .nan
  | .inf _, .inf _ => .nan
  | .inf s, .fin t _ _ => .inf (s != t)
  | .fin s _ _, .inf t => .fin (s != t) 0 0
  | _, _ => .nan

/-- A square root that rounds as the exact one does; of a negative value NaN, of a zero the zero (R165). -/
def xsqrt (a : XR) : XR :=
  match a.norm with
  | .fin s m e =>
    if m = 0 then .fin s 0 0
    else if s then .nan
    else
      let m' := if e % 2 = 0 then m else 2 * m
      let r := isqrt (m' * 2 ^ 320)
      .fin false (2 * r + (if r * r = m' * 2 ^ 320 then 0 else 1)) (e / 2 - 161)
  | .inf s => if s then .nan else .inf false
  | v => v

/-- The order of two values that are not NaN: less, equal or greater. −0 and +0 are equal (R154). -/
def xcmp (a b : XR) : Ordering :=
  match a.norm, b.norm with
  | .fin s m e, .fin t n f => compare (signedAt s m e (min e f)) (signedAt t n f (min e f))
  | .inf s, .inf t => if s == t then .eq else if s then .lt else .gt
  | .inf s, _ => if s then .lt else .gt
  | _, .inf t => if t then .gt else .lt
  | _, _ => .eq

/-! ## Rounding (R44, R50 to R53) -/

/-- Whether an integer magnitude `m` with `r` out of `d` left over rounds up (R50 step 3, R51). -/
def roundUp (rm : Rm) (s : Bool) (w : Nat) (m r d : Nat) : Bool :=
  match rm with
  | .rn => decide (d < 2 * r) || (decide (2 * r = d) && decide (m % 2 = 1))
  | .rz => false
  | .rd => s && decide (r ≠ 0)
  | .ru => !s && decide (r ≠ 0)
  | .rs => decide (r ≠ 0) && decide (2 ^ 32 ≤ r * 2 ^ 32 / d + w)

/-- The encoding of an overflow, or of an infinity in a format without one (R52). -/
def overflow (f : Fmt) (rm : Rm) (s sat : Bool) : Nat :=
  let sb := if s then Fmt.signBit f else 0
  if sat then sb + Fmt.maxCode f
  else
    match f with
    | .e4m3 => 0x7F
    | f =>
      if Fmt.hasInf f then
        match rm with
        | .rn => sb + Fmt.maxCode f + 1
        | .rs => sb + Fmt.maxCode f + 1
        | .rz => sb + Fmt.maxCode f
        | .rd => if s then sb + Fmt.maxCode f + 1 else Fmt.maxCode f
        | .ru => if s then sb + Fmt.maxCode f else Fmt.maxCode f + 1
      else sb + Fmt.maxCode f

/-- A nonzero finite magnitude m × 2^e rounded into a binary format (R50 steps 3 to 5). -/
def roundFin (f : Fmt) (rm : Rm) (w : Nat) (sat : Bool) (s : Bool) (m : Nat) (e : Int) : Nat :=
  let q := max ((m.log2 : Int) + e - Fmt.frac f) (Fmt.emin f)
  let mag :=
    if q ≤ e then m * 2 ^ (e - q).toNat
    else
      let d := 2 ^ (q - e).toNat
      if roundUp rm s w (m / d) (m % d) d then m / d + 1 else m / d
  let code := (q - Fmt.emin f).toNat * 2 ^ Fmt.frac f + mag
  if Fmt.maxCode f < code then overflow f rm s sat else (if s then Fmt.signBit f else 0) + code

/-- The LNS6 code of 4 × log2 of the magnitude (R44 steps 2 to 5). -/
def lnsCode (s : Bool) (l : Int) : Nat :=
  if l < 1 then 0 else (if s then 32 else 0) + (if 31 < l then 31 else l.toNat)

/-- `round` of R68 for LNS6 (R44). -/
def roundLns (v : XR) (rm : Rm) : Nat :=
  match v with
  | .nan => 0x20
  | .inf s => lnsCode s 31
  | .quart s q => lnsCode s (16 + q)
  | .fin s m e =>
    if m = 0 then 0
    else if rm == .rz then lnsCode s (16 + ((m ^ 4).log2 + 4 * e))
    else lnsCode s (16 + ((m ^ 8).log2 + 8 * e + 1) / 2)

/-- `round` of R68 (R44, R50 to R52): the encoding of an exact value. -/
def round (v : XR) (f : Fmt) (rm : Rm) (w : Nat) (sat : Bool) : Nat :=
  match f with
  | .lns6 => roundLns v rm
  | f =>
    match v.norm with
    | .nan => canonicalNan f
    | .inf s =>
      if sat || !Fmt.hasInf f then overflow f .rn s sat else (if s then Fmt.signBit f else 0) + Fmt.maxCode f + 1
    | .fin s m e => if m = 0 then (if s then Fmt.signBit f else 0) else roundFin f rm w sat s m e
    | .quart _ _ => 0

def roundRne (v : XR) (f : Fmt) : Nat := round v f .rn 0 false

/-- The integer that a finite value rounds to by a mode (R53). -/
def toIntegral (rm : Rm) (s : Bool) (m : Nat) (e : Int) : Int :=
  let a : Nat :=
    if 0 ≤ e then m * 2 ^ e.toNat
    else
      let d := 2 ^ (-e).toNat
      if roundUp rm s 0 (m / d) (m % d) d then m / d + 1 else m / d
  if s then -(a : Int) else a

/-- The least and greatest value of an integer type (R38). -/
def IType.lo (t : IType) : Int := if IType.signed t then -(2 ^ (IType.n t - 1) : Int) else 0

def IType.hi (t : IType) : Int := if IType.signed t then 2 ^ (IType.n t - 1) - 1 else 2 ^ IType.n t - 1

/-- An exact integer clamped to a type's range (R38). -/
def clampTo (t : IType) (v : Int) : Int := if v < IType.lo t then IType.lo t else if IType.hi t < v then IType.hi t else v

/-- `to_int` of R68 (R53): always saturating. -/
def toInt (v : XR) (t : IType) (rm : Rm) : Int :=
  match v.norm with
  | .nan => 0
  | .inf s => if s then IType.lo t else IType.hi t
  | .fin s m e => clampTo t (toIntegral rm s m e)
  | .quart _ _ => 0

/-- An integer as an exact real; 0 is +0. -/
def ofInteger (v : Int) : XR := .fin (decide (v < 0)) v.natAbs 0

/-! ## Scalar operations on encodings (R151 to R155) -/

def fAdd (f : Fmt) (rm : Rm) (sat : Bool) (a b : Nat) : Nat := round (xadd rm (toReal f a) (toReal f b)) f rm 0 sat

def fSub (f : Fmt) (rm : Rm) (sat : Bool) (a b : Nat) : Nat :=
  round (xadd rm (toReal f a) (toReal f b).neg) f rm 0 sat

def fMul (f : Fmt) (rm : Rm) (sat : Bool) (a b : Nat) : Nat := round (xmul (toReal f a) (toReal f b)) f rm 0 sat

def fFma (f : Fmt) (rm : Rm) (sat : Bool) (a b c : Nat) : Nat :=
  round (xadd rm (xmul (toReal f a) (toReal f b)) (toReal f c)) f rm 0 sat

def fDiv (f : Fmt) (rm : Rm) (a b : Nat) : Nat := round (xdiv (toReal f a) (toReal f b)) f rm 0 false

def isZero : XR → Bool
  | .fin _ m _ => m == 0
  | _ => false

def isNeg : XR → Bool
  | .fin s _ _ => s
  | .inf s => s
  | .quart s _ => s
  | .nan => false

/-- FMIN and FMAX (R153): one of the encodings unchanged, or the canonical NaN. -/
def fMinMax (f : Fmt) (maxi : Bool) (a b : Nat) : Nat :=
  let x := toReal f a
  let y := toReal f b
  if x.isNan && y.isNan then canonicalNan f
  else if x.isNan then b
  else if y.isNan then a
  else if isZero x && isZero y then (if isNeg x == maxi then b else a)
  else if xcmp x y == (if maxi then .lt else .gt) then b else a

/-- The conditions of R154. -/
def fCond (c : FCond) (f : Fmt) (a b : Nat) : Bool :=
  let x := toReal f a
  let y := toReal f b
  let u := x.isNan || y.isNan
  match c with
  | .eq => !u && xcmp x y == .eq
  | .ne => u || xcmp x y != .eq
  | .lt => !u && xcmp x y == .lt
  | .le => !u && xcmp x y != .gt
  | .gt => !u && xcmp x y == .gt
  | .ge => !u && xcmp x y != .lt
  | .nan => u
  | .num => !u

/-- FCLASS's bit number (R155). -/
def fClass (f : Fmt) (a : Nat) : Nat :=
  match toReal f a with
  | .nan => 8
  | .inf s => if s then 0 else 7
  | .fin s m _ =>
    if m = 0 then (if s then 3 else 4)
    else if m < 2 ^ Fmt.frac f then (if s then 2 else 5)
    else (if s then 1 else 6)
  | .quart _ _ => 8

/-- FRINT (R161): a zero result carries the sign of A. -/
def fRint (f : Fmt) (rm : Rm) (a : Nat) : Nat :=
  match toReal f a with
  | .fin s m e =>
    let v := toIntegral rm s m e
    if v = 0 then (if s then Fmt.signBit f else 0) else round (ofInteger v) f .rn 0 false
  | .nan => canonicalNan f
  | _ => a

/-! ## Special functions (R164 to R166) -/

/-- Fixed-point precision of the special functions' exact values. -/
def fxBits : Nat := 256

def piFx : Nat := 0x3243f6a8885a308d313198a2e03707344a4093822299f31d0082efa98ec4e6c89
def ln2Fx : Nat := 0xb17217f7d1cf79abc9e3b39803f2f6af40f343267298b62d8a0d175b8baafa2b
def log2eFx : Nat := 0x171547652b82fe1777d0ffda0d23a7d11d6aef551bad2b4b1164a2cd9a3426491

/-- Terms of a power series in fixed point: `t` is the current term, `k` its index. -/
def expSeries : Nat → Nat → Nat → Nat → Nat
  | 0, _, _, _ => 0
  | n + 1, y, t, k => t + expSeries n y (t * y / 2 ^ fxBits / (k + 1)) (k + 1)

/-- 2^f for f in [0, 1), both in fixed point. -/
def exp2Frac (f : Nat) : Nat := expSeries 80 (f * ln2Fx / 2 ^ fxBits) (2 ^ fxBits) 0

/-- sin or cos of y in [0, π/2] by the alternating series: `t` is the term of degree `k`. -/
def trigSeries : Nat → Nat → Nat → Nat → Int
  | 0, _, _, _ => 0
  | n + 1, y, t, k => (t : Int) - trigSeries n y (t * y / 2 ^ fxBits * y / 2 ^ fxBits / ((k + 1) * (k + 2))) (k + 2)

/-- Binary digits of log2 of x in [1, 2), x with twice the precision: `n` digits. -/
def log2Digits : Nat → Nat → Nat → Nat
  | 0, _, acc => acc
  | n + 1, x, acc =>
    let y := x * x / 2 ^ (2 * fxBits)
    if 2 * 2 ^ (2 * fxBits) ≤ y then log2Digits n (y / 2) (2 * acc + 1) else log2Digits n y (2 * acc)

/-- A dyadic value times 2^k, rounded down to an integer. -/
def toFixed (m : Nat) (e : Int) (k : Nat) : Nat :=
  if 0 ≤ e + k then m * 2 ^ (e + k).toNat else m / 2 ^ (-(e + k)).toNat

/-- 2^(±x) for a fixed-point x ≥ 0 (an integer part below 2^12 and a fraction), as an exact binary value. -/
def exp2Val (s : Bool) (x : Nat) : XR :=
  let n := x / 2 ^ fxBits
  let f := x % 2 ^ fxBits
  if s then
    (if f = 0 then .fin false 1 (-(n : Int)) else .fin false (exp2Frac (2 ^ fxBits - f)) (-(n : Int) - 1 - fxBits))
  else (if f = 0 then .fin false 1 n else .fin false (exp2Frac f) ((n : Int) - fxBits))

/-- sin(π r) for a fixed-point r in [0, 1/2), which is below 1. -/
def sinFx (r : Nat) : Nat := min (2 ^ fxBits - 1) (trigSeries 60 (piFx * r / 2 ^ fxBits) (piFx * r / 2 ^ fxBits) 1).toNat

/-- sin(π x) for a fixed-point x in [0, 2): the sign and the magnitude. -/
def sinTurn (x : Nat) : Bool × Nat :=
  let one := 2 ^ fxBits
  let s := decide (one ≤ x)
  let y := x % one
  (s, sinFx (if one < 2 * y then one - y else y))

/-- The place of an FP32 code among all of them in order of value, −0 just below +0. -/
def ordIndex (c : Nat) : Int := if c < 2 ^ 31 then c else -1 - ((c - 2 ^ 31 : Nat) : Int)

/-- The FP32 code at a place. -/
def ordCode (i : Int) : Nat := if 0 ≤ i then i.toNat else 2 ^ 31 + (-1 - i).toNat

/-- An FP32 value at most `bound` × 2^q away from `v`: the free value selects among all of them (log entry 8). -/
def nearby (key : Nat) (a : Word) (v : XR) (bound : Nat) (q : Int) : Nat :=
  let d : XR := .fin false bound q
  let l := ordIndex (round (xadd .rn v d.neg) .f32 .ru 0 false)
  let h := ordIndex (round (xadd .rn v d) .f32 .rd 0 false)
  let lo := if l = 0 then -1 else l
  let hi := if h = -1 then 0 else h
  ordCode (lo + (Config.freeUlp key a % ((hi - lo).toNat + 1) : Nat))

/-- The exponent of the FP32 spacing at a value's magnitude (R164). -/
def ulpExp (v : XR) : Int :=
  match v with
  | .fin _ m e => max ((m.log2 : Int) + e - 23) (Fmt.emin .f32)
  | _ => 0

def f32One : Nat := 0x3F800000
def f32Inf : Nat := 0x7F800000
def f32NegInf : Nat := 0xFF800000
def f32Nan : Nat := 0x7FC00000

/-- FEXP2 (R164, R165). R164 bounds a result's error by 1 ulp, R165 has "the rounding of 2^A otherwise" after its edges, and R166 does not count
FEXP2 among the correctly rounded: the model rounds every finite result to nearest even (DEDUCED, log entry 8). -/
def fExp2 (a : Word) : Nat :=
  match toReal .f32 a.toNat with
  | .nan => f32Nan
  | .inf s => if s then 0 else f32Inf
  | .fin s m e =>
    if m = 0 then f32One
    else if 9 ≤ (m.log2 : Int) + e then (if s then 0 else f32Inf)
    else
      let x := toFixed m e fxBits
      let v := exp2Val s x
      if x % 2 ^ fxBits = 0 then roundRne v .f32
      else if s && decide (150 * 2 ^ fxBits < x) then 0
      else if !s && decide (128 * 2 ^ fxBits ≤ x) then f32Inf
      else roundRne v .f32
  | .quart _ _ => f32Nan

/-- FLOG2 (R164, R165). -/
def fLog2 (a : Word) : Nat :=
  match toReal .f32 a.toNat with
  | .nan => f32Nan
  | .inf s => if s then f32Nan else f32Inf
  | .fin s m e =>
    if m = 0 then f32NegInf
    else if s then f32Nan
    else
      let k : Int := m.log2 + e
      if m = 2 ^ m.log2 then roundRne (ofInteger k) .f32
      else
        let digits := 160
        let f := log2Digits digits (m * 2 ^ (2 * fxBits - m.log2)) 0
        let v : Int := k * 2 ^ digits + f
        let r : XR := .fin (decide (v < 0)) v.natAbs (-(digits : Int))
        if k = -1 || k = 0 then nearby 0x57 a r 1 (-22) else nearby 0x57 a r 1 (ulpExp r)
  | .quart _ _ => f32Nan

/-- FRCP, correctly rounded (R164). -/
def fRcp (f : Fmt) (rm : Rm) (a : Nat) : Nat := round (xdiv (.fin false 1 0) (toReal f a)) f rm 0 false

/-- FSQRT, correctly rounded (R164). -/
def fSqrt (f : Fmt) (rm : Rm) (a : Nat) : Nat := round (xsqrt (toReal f a)) f rm 0 false

/-- FRSQ (R164, R165): exact for A = 4^k. -/
def fRsq (a : Word) : Nat :=
  match toReal .f32 a.toNat with
  | .nan => f32Nan
  | .inf s => if s then f32Nan else 0
  | .fin s m e =>
    if m = 0 then (if s then f32NegInf else f32Inf)
    else if s then f32Nan
    else
      let v := xsqrt (xdiv (.fin false 1 0) (.fin false m e))
      if m = 2 ^ m.log2 && ((m.log2 : Int) + e) % 2 = 0 then roundRne v .f32 else nearby 0x59 a v 1 (ulpExp v)
  | .quart _ _ => f32Nan

/-- FSIN (R164, R165): argument in half-turns, reduced exactly. -/
def fSin (a : Word) : Nat :=
  match toReal .f32 a.toNat with
  | .fin s m e =>
    let x := toFixed m e fxBits % 2 ^ (fxBits + 1)
    if x % 2 ^ fxBits = 0 then (if s then 0x80000000 else 0)
    else
      let p := sinTurn x
      if 2 * x = 2 ^ fxBits || 2 * x = 3 * 2 ^ fxBits then (if s != p.1 then 0xBF800000 else f32One)
      else
        let v : XR := .fin (s != p.1) p.2 (-(fxBits : Int))
        nearby 0x5B a v 2 (ulpExp v)
  | _ => f32Nan

/-- FCOS (R164, R165): cos(π x) = sin(π (x + 1/2)). -/
def fCos (a : Word) : Nat :=
  match toReal .f32 a.toNat with
  | .fin _ m e =>
    let x := (toFixed m e fxBits + 2 ^ (fxBits - 1)) % 2 ^ (fxBits + 1)
    if x % 2 ^ fxBits = 0 then 0
    else
      let p := sinTurn x
      if 2 * x = 2 ^ fxBits || 2 * x = 3 * 2 ^ fxBits then (if p.1 then 0xBF800000 else f32One)
      else
        let v : XR := .fin p.1 p.2 (-(fxBits : Int))
        nearby 0x5C a v 2 (ulpExp v)
  | _ => f32Nan

/-- FTANH (R164, R165): (1 − t) / (1 + t) with t = 2^(−2 A log2 e); of a tiny A the exact value lies just below A. -/
def fTanh (a : Word) : Nat :=
  match toReal .f32 a.toNat with
  | .nan => f32Nan
  | .inf s => if s then 0xBF800000 else f32One
  | .fin s m e =>
    if m = 0 then (if s then 0x80000000 else 0)
    else
      let v : XR :=
        if 6 ≤ (m.log2 : Int) + e then .fin s (2 ^ 120 - 1) (-120)
        else if (m.log2 : Int) + e < -64 then .fin s (m * 2 ^ 200 - 1) (e - 200)
        else
          let t := exp2Val true (2 * toFixed m e fxBits * log2eFx / 2 ^ fxBits)
          let r := xdiv (xadd .rn (.fin false 1 0) t.neg) (xadd .rn (.fin false 1 0) t)
          if s then r.neg else r
      nearby 0x5D a v 2 (ulpExp v)
  | .quart _ _ => f32Nan

/-! ## Packing and blocks (R45 to R47, R64 to R67) -/

/-- Bits `lo` to `lo + n − 1` of a number. -/
def bitsAt (v lo n : Nat) : Nat := v / 2 ^ lo % 2 ^ n

/-- Element codes of a packed byte string: `n` elements of `f`'s width, element 0 lowest (R47). -/
def unpackElems (f : Fmt) (n : Nat) (bytes : List Byte) : List Nat :=
  let v := leNat bytes
  (List.range n).map fun i => bitsAt v (i * Fmt.n f) (Fmt.n f)

/-- The bytes of packed element codes (R47). -/
def packElems (f : Fmt) (xs : List Nat) : List Byte :=
  leBytes (xs.length * Fmt.n f / 8) (xs.foldr (fun x acc => x + 2 ^ Fmt.n f * acc) 0)

/-- emax of R65. -/
def Fmt.emax : Fmt → Int
  | .e4m3 => 8 | .e5m2 => 15 | .e2m3 => 2 | .e3m2 => 4 | .e2m1 => 2 | .lns6 => 3 | _ => 0

/-- ⌊log2⌋ of a finite nonzero magnitude. -/
def floorLog2 : XR → Option Int
  | .fin _ m e => if m = 0 then none else some (m.log2 + e)
  | .quart _ q => some (q / 4)
  | _ => none

def maxOpt (a b : Option Int) : Option Int :=
  match a, b with
  | some x, some y => some (max x y)
  | some x, none => some x
  | none, y => y

/-- A quantised block: its scale code, its element codes, and whether it held an infinity but no NaN (R64 to R67). -/
structure QBlock where
  scale : Nat
  codes : List Nat
  inf : Bool
  deriving DecidableEq, Repr

/-- Quantises a block of values with one random word for each (R64 to R67). -/
def quantise (f : Fmt) (rm : Rm) (vs : List (XR × Nat)) : QBlock :=
  if vs.any (fun v => v.1.isNan) then { scale := 0xFF, codes := vs.map fun _ => 0, inf := false }
  else
    let top := vs.foldl (fun t v => maxOpt t (floorLog2 v.1)) none
    let e : Int := match top with
      | none => 127
      | some x => max 0 (min 254 (x - Fmt.emax f + 127))
    let code (v : XR × Nat) : Nat :=
      match v.1 with
      | .inf s => if f == .e5m2 then (if s then 0xFC else 0x7C) else (if s then Fmt.signBit f else 0) + Fmt.maxCode f
      | x => round (xscale x (127 - e)) f rm v.2 true
    { scale := e.toNat, codes := vs.map code,
      inf := vs.any fun v => match v.1 with | .inf _ => true | _ => false }

/-! ## Matrix arithmetic (R55 to R60) -/

/-- The LNS6 log table T in units of 2^−11 (R55, R391). -/
def lnsTable (i : Nat) : Nat :=
  match i with
  | 0 => 0x800 | 1 => 0x983 | 2 => 0xB50 | _ => 0xD74

/-- `lns_term` of R56 in units of 2^−19; none is NaN. -/
def lnsTerm (a w : Nat) : Option Int :=
  if a % 64 = 0x20 || w % 64 = 0x20 then none
  else if a % 32 = 0 || w % 32 = 0 then some 0
  else
    let k : Int := (a % 32 : Nat) + (w % 32 : Nat) - 32
    let p : Nat := lnsTable (k % 4).toNat * 2 ^ (k / 4 + 8).toNat
    some (if bitsAt a 5 1 = bitsAt w 5 1 then (p : Int) else -(p : Int))

/-- The sum of optional integers; none if any is none. -/
def sumOpt : List (Option Int) → Option Int
  | [] => some 0
  | x :: xs =>
    match x, sumOpt xs with
    | some a, some b => some (a + b)
    | _, _ => none

/-- A product in a block with the scales sa and sw: NaN under the scale 0xFF (R57 step 5). -/
structure LnsProd where
  sa : Nat
  sw : Nat
  a : Nat
  w : Nat
  deriving DecidableEq, Repr

/-- One LNS6 product times 2^(sa + sw − 254), as a real (R57). -/
def LnsProd.val (p : LnsProd) : XR :=
  if p.sa = 0xFF || p.sw = 0xFF then .nan
  else
    match lnsTerm p.a p.w with
    | none => .nan
    | some t => .fin (decide (t < 0)) t.natAbs ((p.sa : Int) + p.sw - 254 - 19)

/-- The exact sum of a list of values, from the first on. -/
def xsum : List XR → XR
  | [] => .fin false 0 0
  | x :: xs => xs.foldl (xadd .rn) x

/-- An accumulator step: the value rounded once to FP32, then added to c with one more rounding (R57 step 4). -/
def accumulate (c : Nat) (v : XR) : Nat := fAdd .f32 .rn false c (roundRne v .f32)

end Sys2Proof.Machine
end

