-- ==== Sys2Proof/Decode.lean ====
section
/-! DEFINITION. Decoding: from 32-bit words to thread instructions (R74 to R88 and each instruction's rule), from 16-byte
words to Ladle commands (R311, R312) and from 32-byte records to Lantern commands (R278, R280); then the encoder.

A word is decoded in two steps. `candidate` finds the instruction by opcode, length and sub-operation, and reads its
fields: no candidate is ILLEGAL_OP (R87). The candidate stands only when it is well formed and its own encoding is the
whole word, so that every unused field, reserved bit and unadmitted code is found: anything else is ILLEGAL_FIELD. -/

namespace Sys2Proof

/-- The fields of R74 and R75 of one instruction. -/
structure Raw where
  len : BitVec 2
  op : Byte
  fs : Bool
  fe : Bool
  d : Byte
  a : Byte
  b : Byte
  c : Byte
  g : BitVec 4
  fn : Half
  imm : Dword
  deriving DecidableEq, Repr

def bit (b : Bool) : BitVec 1 := if b then 1 else 0

/-- The 64-bit base word of R74. -/
def Raw.base (r : Raw) : Dword :=
  (r.fn ++ (r.g ++ (r.c ++ (r.b ++ (r.a ++ (r.d ++ (bit r.fe ++ (bit r.fs ++ (r.op ++ r.len)))))))) : BitVec 64)

/-- The instruction's words, the first lowest: two, three or four by the length code (R74, R75). -/
def Raw.words (r : Raw) : List Word :=
  let lo := (r.base.extractLsb' 0 32)
  let hi := (r.base.extractLsb' 32 32)
  if r.len == 1 then [lo, hi]
  else if r.len == 2 then [lo, hi, r.imm.extractLsb' 0 32]
  else [lo, hi, r.imm.extractLsb' 0 32, r.imm.extractLsb' 32 32]

/-- The fields of a 64-bit base word with its extension. -/
def Raw.ofBase (v : Dword) (imm : Dword) : Raw :=
  { len := v.extractLsb' 0 2, op := v.extractLsb' 2 8, fs := v.getLsbD 10, fe := v.getLsbD 11,
    d := v.extractLsb' 12 8, a := v.extractLsb' 20 8, b := v.extractLsb' 28 8, c := v.extractLsb' 36 8,
    g := v.extractLsb' 44 4, fn := v.extractLsb' 48 16, imm := imm }

/-- The number of 32-bit words that a length code gives: 2, 3 or 4; 0 for the code 0b00 of a header (R74). -/
def lenWords (w : Word) : Nat := if w.extractLsb' 0 2 == 0 then 0 else (w.extractLsb' 0 2).toNat + 1

/-- The instruction at the head of a list of words, and its fields. -/
def Raw.ofWords : List Word → Option Raw
  | w0 :: w1 :: ws =>
    match lenWords w0, ws with
    | 2, _ => some (Raw.ofBase (w1 ++ w0) 0)
    | 3, w2 :: _ => some (Raw.ofBase (w1 ++ w0) ((0 : Word) ++ w2))
    | 4, w2 :: w3 :: _ => some (Raw.ofBase (w1 ++ w0) (w3 ++ w2))
    | _, _ => none
  | _ => none

/-! ## Code tables (R49, R81, R82, R201) -/

def IType.code : IType → Nat
  | .i8 => 0 | .i16 => 1 | .i32 => 2 | .i64 => 3 | .n8 => 4 | .n16 => 5 | .n32 => 6 | .n64 => 7

def IType.ofCode : Nat → IType
  | 0 => .i8 | 1 => .i16 | 2 => .i32 | 3 => .i64 | 4 => .n8 | 5 => .n16 | 6 => .n32 | _ => .n64

def Fmt.code : Fmt → Nat
  | .f32 => 0 | .f16 => 1 | .bf16 => 2 | .e4m3 => 3 | .e5m2 => 4 | .e2m3 => 5 | .e3m2 => 6 | .e2m1 => 7 | .lns6 => 8
  | .f64 => 9

def Fmt.ofCode : Nat → Fmt
  | 0 => .f32 | 1 => .f16 | 2 => .bf16 | 3 => .e4m3 | 4 => .e5m2 | 5 => .e2m3 | 6 => .e3m2 | 7 => .e2m1 | 8 => .lns6
  | _ => .f64

def Rm.code : Rm → Nat
  | .rn => 0 | .rz => 1 | .rd => 2 | .ru => 3 | .rs => 4

def Rm.ofCode : Nat → Rm
  | 0 => .rn | 1 => .rz | 2 => .rd | 3 => .ru | _ => .rs

def Scope.code : Scope → Nat
  | .thr => 0 | .crw => 1 | .blk => 2 | .clu => 3 | .dev => 4 | .pod => 5 | .sys => 6

def Scope.ofCode : Nat → Scope
  | 0 => .thr | 1 => .crw | 2 => .blk | 3 => .clu | 4 => .dev | 5 => .pod | _ => .sys

def Space.code : Space → Nat
  | .glb => 0 | .prv => 1 | .loc => 2 | .wbuf => 3 | .abuf => 4 | .cbuf => 5

def Space.ofCode : Nat → Space
  | 0 => .glb | 1 => .prv | 2 => .loc | 3 => .wbuf | 4 => .abuf | _ => .cbuf

def Ord4.code : Ord4 → Nat
  | .plain => 0 | .acq => 1 | .rel => 2 | .ar => 3

def Ord4.ofCode : Nat → Ord4
  | 0 => .plain | 1 => .acq | 2 => .rel | _ => .ar

def ICond.code : ICond → Nat
  | .eq => 0 | .ne => 1 | .lt => 2 | .le => 3 | .gt => 4 | .ge => 5

def ICond.ofCode : Nat → ICond
  | 0 => .eq | 1 => .ne | 2 => .lt | 3 => .le | 4 => .gt | _ => .ge

def FCond.code : FCond → Nat
  | .eq => 0 | .ne => 1 | .lt => 2 | .le => 3 | .gt => 4 | .ge => 5 | .nan => 6 | .num => 7

def FCond.ofCode : Nat → FCond
  | 0 => .eq | 1 => .ne | 2 => .lt | 3 => .le | 4 => .gt | 5 => .ge | 6 => .nan | _ => .num

def Cond.code : Cond → Nat
  | .eq => 0 | .ne => 1 | .ltu => 2 | .geu => 3 | .lt => 4 | .ge => 5

def Cond.ofCode : Nat → Cond
  | 0 => .eq | 1 => .ne | 2 => .ltu | 3 => .geu | 4 => .lt | _ => .ge

def IntAtom.code : IntAtom → Nat
  | .add => 0 | .min => 1 | .max => 2 | .and => 3 | .or => 4 | .xor => 5 | .exch => 6

def IntAtom.ofCode : Nat → IntAtom
  | 0 => .add | 1 => .min | 2 => .max | 3 => .and | 4 => .or | 5 => .xor | _ => .exch

def FltAtom.code : FltAtom → Nat
  | .add => 7 | .min => 8 | .max => 9

def FltAtom.ofCode : Nat → FltAtom
  | 7 => .add | 8 => .min | _ => .max

/-- The OP and type codes of an atomic (R213). -/
def AtomOp.op : AtomOp → Nat
  | .int o _ => o.code
  | .flt o _ => o.code

def AtomOp.ty : AtomOp → Nat
  | .int _ t => t.code
  | .flt _ f => f.code

def AtomOp.ofCodes (op ty : Nat) : AtomOp :=
  if op ≤ 6 then .int (IntAtom.ofCode op) (IType.ofCode ty) else .flt (FltAtom.ofCode op) (Fmt.ofCode ty)

def SReg.code : SReg → Nat
  | .tid => 0 | .lane => 1 | .crew => 2 | .blkx => 3 | .blky => 4 | .blkz => 5 | .core => 6 | .clu => 7 | .twin => 8
  | .ctx => 9 | .rank => 10 | .gen => 11

def SReg.ofCode : Nat → SReg
  | 0 => .tid | 1 => .lane | 2 => .crew | 3 => .blkx | 4 => .blky | 5 => .blkz | 6 => .core | 7 => .clu | 8 => .twin
  | 9 => .ctx | 10 => .rank | _ => .gen

def SysReg.code : SysReg → Nat
  | .thstat => 0 | .fcause => 1 | .fpc => 2 | .fhdr => 3 | .faddr => 4 | .finfo => 5 | .hscratch0 => 6 | .hscratch1 => 7
  | .csp => 8 | .cslo => 9 | .cshi => 10

def SysReg.ofCode : Nat → SysReg
  | 0 => .thstat | 1 => .fcause | 2 => .fpc | 3 => .fhdr | 4 => .faddr | 5 => .finfo | 6 => .hscratch0 | 7 => .hscratch1
  | 8 => .csp | 9 => .cslo | _ => .cshi

/-- The type code that LEA's, ICMP's and every integer instruction's field holds, as four bits. -/
def code4 (n : Nat) : BitVec 4 := BitVec.ofNat 4 n

def code3 (n : Nat) : BitVec 3 := BitVec.ofNat 3 n

/-! ## Function fields -/

/-- The layout of R80. -/
def fnStd (sub : BitVec 6) (ty : BitVec 4) (rm : BitVec 3) (sat i8 : Bool) : Half :=
  sub ++ (ty ++ (rm ++ (bit sat ++ (bit i8 ++ (0 : BitVec 1)))))

/-- The memory layout of R83; `op` and `ord` are the division of R201. -/
def fnMem (op : BitVec 4) (ord : BitVec 2) (ty : BitVec 4) (sc sp : BitVec 3) : Half :=
  op ++ (ord ++ (ty ++ (sc ++ sp)))

namespace Raw

def sub (r : Raw) : BitVec 6 := r.fn.extractLsb' 10 6
def memOp (r : Raw) : BitVec 4 := r.fn.extractLsb' 12 4
def ord (r : Raw) : BitVec 2 := r.fn.extractLsb' 10 2
def ty (r : Raw) : BitVec 4 := r.fn.extractLsb' 6 4
def rm (r : Raw) : BitVec 3 := r.fn.extractLsb' 3 3
def sat (r : Raw) : Bool := r.fn.getLsbD 2
def i8 (r : Raw) : Bool := r.fn.getLsbD 1
def sc (r : Raw) : BitVec 3 := r.fn.extractLsb' 3 3
def sp (r : Raw) : BitVec 3 := r.fn.extractLsb' 0 3
def it (r : Raw) : IType := IType.ofCode r.ty.toNat
def ft (r : Raw) : Fmt := Fmt.ofCode r.ty.toNat
def rnd (r : Raw) : Rm := Rm.ofCode r.rm.toNat
def scope (r : Raw) : Scope := Scope.ofCode r.sc.toNat
def space (r : Raw) : Space := Space.ofCode r.sp.toNat
def imm32 (r : Raw) : Word := r.imm.extractLsb' 0 32

/-- The base word of an instruction with only an opcode and a guard: 64 bits, every other field zero. -/
def bare (op : Byte) (g : BitVec 4) : Raw :=
  { len := 1, op := op, fs := false, fe := false, d := 0, a := 0, b := 0, c := 0, g := g, fn := 0, imm := 0 }

/-- A class L instruction's flag mark (R78). -/
def lbare (op : Byte) (h : LHdr) : Raw :=
  { bare op h.g with fe := h.flag.isSome, fs := h.flag.getD false }

def lhdr (r : Raw) : LHdr := { g := r.g, flag := if r.fe then some r.fs else none }

/-- Puts imm32 into a word and makes it 96 bits long (R75). -/
def wide (r : Raw) (v : Word) : Raw := { r with len := 2, imm := (0 : Word) ++ v }

end Raw

/-- A predicate source's field (R76). -/
def PSrc.field (p : PSrc) : Byte := (0 : BitVec 4) ++ (bit p.neg ++ p.n)

def PSrc.ofField (v : Byte) : PSrc := { n := v.extractLsb' 0 3, neg := v.getLsbD 3 }

/-- A predicate destination's field (R76). -/
def pdField (p : BitVec 3) : Byte := (0 : BitVec 5) ++ p

def maskField (m : BitVec 4) : Byte := (0 : BitVec 4) ++ m

def low3 (v : Byte) : BitVec 3 := v.extractLsb' 0 3

def low4 (v : Byte) : BitVec 4 := v.extractLsb' 0 4

/-! ## Operand fields shared by several instructions -/

/-- The last source b of an integer instruction (R75, R80). -/
def encSrcB (r : Raw) : Src → Raw
  | .reg b => { r with b := b }
  | .imm8 v => { r with c := v, fn := r.fn ||| 2 }
  | .imm32 v => r.wide v

/-- The same from a word. A 96-bit form takes imm32; no rule says what its imm8 select does when it is 1, and the bit, which the form has
no use for, is checked as a reserved one and gives ILLEGAL_FIELD (DESIGN CHOICE, log entry 90). -/
def extSrcB (r : Raw) : Src :=
  if r.len == 2 then .imm32 r.imm32 else if r.i8 then .imm8 r.c else .reg r.b

/-- A floating-point or fabric operand: the register field b, or imm32 of the 96-bit form. -/
def encRIb (r : Raw) : RI → Raw
  | .reg b => { r with b := b }
  | .imm v => r.wide v

def extRIb (r : Raw) : RI := if r.len == 2 then .imm r.imm32 else .reg r.b

def encRIa (r : Raw) : RI → Raw
  | .reg a => { r with a := a }
  | .imm v => r.wide v

def extRIa (r : Raw) : RI := if r.len == 2 then .imm r.imm32 else .reg r.a

def encRIc (r : Raw) : RI → Raw
  | .reg c => { r with c := c }
  | .imm v => r.wide v

def extRIc (r : Raw) : RI := if r.len == 2 then .imm r.imm32 else .reg r.c

/-- The operand of family 0x8: the second source, or imm8 (R402). -/
def encR8 (r : Raw) : R8 → Raw
  | .reg b => { r with b := b }
  | .imm v => { r with c := v, fn := r.fn ||| 2 }

def extR8 (r : Raw) : R8 := if r.i8 then .imm r.c else .reg r.b

/-- The byte offset of R83. -/
def encOff (r : Raw) : Off → Raw
  | .o8 v => { r with c := v }
  | .o32 v => r.wide v

def extOff (r : Raw) : Off := if r.len == 2 then .o32 r.imm32 else .o8 r.c

/-! ## Shapes: the fields of each operand layout, in both directions -/

def encBare (op : Byte) (x : Bare) : Raw :=
  Raw.bare op x.g

def extBare (r : Raw) : Bare :=
  { g := r.g }

def encNop  (x : NopArgs) : Raw :=
  if x.wide then (Raw.bare 0x00 x.g).wide 0 else Raw.bare 0x00 x.g

def extNop (r : Raw) : NopArgs :=
  { g := r.g, wide := r.len == 2 }

def encBra (op : Byte) (x : BraArgs) : Raw :=
  (Raw.bare op x.g).wide x.off

def extBra (r : Raw) : BraArgs :=
  { g := r.g, off := r.imm32 }

def encA (op : Byte) (x : AArgs) : Raw :=
  { Raw.bare op x.g with a := x.a }

def extA (r : Raw) : AArgs :=
  { g := r.g, a := r.a }

def encD (op : Byte) (x : DArgs) : Raw :=
  { Raw.bare op x.g with d := x.d }

def extD (r : Raw) : DArgs :=
  { g := r.g, d := r.d }

/-- PAUSE: the first source register, imm8 or imm32 (R141). -/
def encPause (x : PauseArgs) : Raw :=
  match x.c with
  | .reg a => { Raw.bare 0x08 x.g with a := a }
  | .imm8 v => { Raw.bare 0x08 x.g with c := v, fn := 2 }
  | .imm32 v => (Raw.bare 0x08 x.g).wide v

def extPause (r : Raw) : PauseArgs :=
  { g := r.g, c := if r.len == 2 then .imm32 r.imm32 else if r.i8 then .imm8 r.c else .reg r.a }

def encAlu3 (op : Byte) (x : Alu3Args) : Raw :=
  encSrcB { Raw.bare op x.g with d := x.d, a := x.a, fn := fnStd 0 (code4 x.t.code) 0 x.sat false } x.b

def extAlu3 (r : Raw) : Alu3Args :=
  { g := r.g, t := r.it, sat := r.sat, d := r.d, a := r.a, b := extSrcB r }

/-- IMAD: the third source is a register or imm8 (R126). -/
def encImad (x : ImadArgs) : Raw :=
  let r := { Raw.bare 0x14 x.g with d := x.d, a := x.a, b := x.b, fn := fnStd 0 (code4 x.t.code) 0 x.sat false }
  match x.c with
  | .reg c => { r with c := c }
  | .imm8 v => { r with c := v, fn := fnStd 0 (code4 x.t.code) 0 x.sat true }
  | .imm32 v => r.wide v

def extImad (r : Raw) : ImadArgs :=
  { g := r.g, t := r.it, sat := r.sat, d := r.d, a := r.a, b := r.b, c := if r.i8 then .imm8 r.c else .reg r.c }

def encUn (op : Byte) (x : UnArgs) : Raw :=
  { Raw.bare op x.g with d := x.d, a := x.a, fn := fnStd 0 (code4 x.t.code) 0 x.sat false }

def extUn (r : Raw) : UnArgs :=
  { g := r.g, t := r.it, sat := r.sat, d := r.d, a := r.a }

def encLea  (x : LeaArgs) : Raw :=
  encSrcB { Raw.bare 0x1A x.g with d := x.d, a := x.a, fn := fnStd ((0 : BitVec 1) ++ x.k) (code4 x.t.code) 0 false false } x.b

def extLea (r : Raw) : LeaArgs :=
  { g := r.g, k := r.sub.extractLsb' 0 5, t := r.it, d := r.d, a := r.a, b := extSrcB r }

def encIcmp  (x : IcmpArgs) : Raw :=
  encSrcB { Raw.bare 0x1B x.g with d := pdField x.pd, a := x.a, fn := fnStd (BitVec.ofNat 6 x.c.code) (code4 x.t.code) 0 false false } x.b

def extIcmp (r : Raw) : IcmpArgs :=
  { g := r.g, c := ICond.ofCode r.sub.toNat, t := r.it, pd := low3 r.d, a := r.a, b := extSrcB r }

def encIsel  (x : IselArgs) : Raw :=
  { Raw.bare 0x1C x.g with d := x.d, a := x.a, b := x.b, c := x.p.field, fn := fnStd 0 (code4 x.t.code) 0 false false }

def extIsel (r : Raw) : IselArgs :=
  { g := r.g, t := r.it, d := r.d, a := r.a, b := r.b, p := PSrc.ofField r.c }

/-- MOVI's five forms (R132). -/
def encMovi (x : MoviArgs) : Raw :=
  match x.v with
  | .n32 v => { Raw.bare 0x1E x.g with d := x.d, fn := fnStd 0 6 0 false false, len := 2, imm := (0 : Word) ++ v }
  | .n64 v => { Raw.bare 0x1E x.g with d := x.d, fn := fnStd 0 7 0 false false, len := 2, imm := (0 : Word) ++ v }
  | .i64 v => { Raw.bare 0x1E x.g with d := x.d, fn := fnStd 0 3 0 false false, len := 2, imm := (0 : Word) ++ v }
  | .n64w v => { Raw.bare 0x1E x.g with d := x.d, fn := fnStd 0 7 0 false false, len := 3, imm := v }
  | .i64w v => { Raw.bare 0x1E x.g with d := x.d, fn := fnStd 0 3 0 false false, len := 3, imm := v }

def extMovi (r : Raw) : MoviArgs :=
  { g := r.g, d := r.d,
    v := if r.len == 3 then (if r.ty == 7 then .n64w r.imm else .i64w r.imm)
         else if r.ty == 6 then .n32 r.imm32 else if r.ty == 7 then .n64 r.imm32 else .i64 r.imm32 }

def encMovs  (x : MovsArgs) : Raw :=
  { Raw.bare 0x1F x.g with d := x.d, a := BitVec.ofNat 8 x.r.code }

def extMovs (r : Raw) : MovsArgs :=
  { g := r.g, d := r.d, r := SReg.ofCode r.a.toNat }

def encLut3  (x : Lut3Args) : Raw :=
  { Raw.bare 0x23 x.g with d := x.d, a := x.a, b := x.b, c := x.c, fn := x.table ++ (bit x.wide ++ (0 : BitVec 7)) }

def extLut3 (r : Raw) : Lut3Args :=
  { g := r.g, table := r.fn.extractLsb' 8 8, wide := r.fn.getLsbD 7, d := r.d, a := r.a, b := r.b, c := r.c }

def encPlut  (x : PlutArgs) : Raw :=
  { Raw.bare 0x2D x.g with d := pdField x.pd, a := x.p1.field, b := x.p2.field, c := x.p3.field, fn := x.table ++ (0 : BitVec 8) }

def extPlut (r : Raw) : PlutArgs :=
  { g := r.g, table := r.fn.extractLsb' 8 8, pd := low3 r.d, p1 := PSrc.ofField r.a, p2 := PSrc.ofField r.b, p3 := PSrc.ofField r.c }

def encRot  (x : RotArgs) : Raw :=
  encSrcB { Raw.bare 0x26 x.g with d := x.d, a := x.a, fn := fnStd (if x.right then 1 else 0) (code4 x.t.code) 0 false false } x.b

def extRot (r : Raw) : RotArgs :=
  { g := r.g, right := r.sub == 1, t := r.it, d := r.d, a := r.a, b := extSrcB r }

def encBfe  (x : BfeArgs) : Raw :=
  { Raw.bare 0x27 x.g with d := x.d, a := x.a, fn := x.p ++ (code4 x.t.code ++ x.len1) }

def extBfe (r : Raw) : BfeArgs :=
  { g := r.g, t := r.it, d := r.d, a := r.a, p := r.sub, len1 := r.fn.extractLsb' 0 6 }

def encBfi  (x : BfiArgs) : Raw :=
  { Raw.bare 0x28 x.g with d := x.d, a := x.a, b := x.b, fn := x.p ++ (code4 x.t.code ++ x.len1) }

def extBfi (r : Raw) : BfiArgs :=
  { g := r.g, t := r.it, d := r.d, a := r.a, b := r.b, p := r.sub, len1 := r.fn.extractLsb' 0 6 }

def encBsel  (x : BselArgs) : Raw :=
  { Raw.bare 0x2C x.g with d := x.d, a := x.a, b := x.b, c := x.c }

def extBsel (r : Raw) : BselArgs :=
  { g := r.g, d := r.d, a := r.a, b := r.b, c := r.c }

def encFp3 (op : Byte) (x : Fp3Args) : Raw :=
  encRIb { Raw.bare op x.g with d := x.d, a := x.a, fn := fnStd 0 (code4 x.f.code) (code3 x.rm.code) x.sat false } x.b

def extFp3 (r : Raw) : Fp3Args :=
  { g := r.g, f := r.ft, rm := r.rnd, sat := r.sat, d := r.d, a := r.a, b := extRIb r }

def encFma (op : Byte) (x : FmaArgs) : Raw :=
  encRIc { Raw.bare op x.g with d := x.d, a := x.a, b := x.b, fn := fnStd 0 (code4 x.f.code) (code3 x.rm.code) x.sat false } x.c

def extFma (r : Raw) : FmaArgs :=
  { g := r.g, f := r.ft, rm := r.rnd, sat := r.sat, d := r.d, a := r.a, b := r.b, c := extRIc r }

def encFcmp (op : Byte) (x : FcmpArgs) : Raw :=
  encRIb { Raw.bare op x.g with d := pdField x.pd, a := x.a, fn := fnStd (BitVec.ofNat 6 x.c.code) (code4 x.f.code) 0 false false } x.b

def extFcmp (r : Raw) : FcmpArgs :=
  { g := r.g, c := FCond.ofCode r.sub.toNat, f := r.ft, pd := low3 r.d, a := r.a, b := extRIb r }

def encF1 (op : Byte) (x : F1Args) : Raw :=
  { Raw.bare op x.g with d := x.d, a := x.a, fn := fnStd 0 (code4 x.f.code) (code3 x.rm.code) false false }

def extF1 (r : Raw) : F1Args :=
  { g := r.g, f := r.ft, rm := r.rnd, d := r.d, a := r.a }

/-- A type code of CVT with its kind bit (R158). -/
def CType.bits : CType → BitVec 5
  | .int t => code4 t.code ++ (1 : BitVec 1)
  | .flt f => code4 f.code ++ (0 : BitVec 1)

def CType.ofBits (v : BitVec 5) : CType :=
  if v.getLsbD 0 then .int (IType.ofCode (v.extractLsb' 1 4).toNat) else .flt (Fmt.ofCode (v.extractLsb' 1 4).toNat)

def encCvt  (x : CvtArgs) : Raw :=
  { Raw.bare 0x50 x.g with d := x.d, a := x.a, b := x.w, fn := x.dt.bits ++ (x.st.bits ++ (code3 x.rm.code ++ (bit x.sat ++ (0 : BitVec 2)))) }

def extCvt (r : Raw) : CvtArgs :=
  { g := r.g, dt := CType.ofBits (r.fn.extractLsb' 11 5), st := CType.ofBits (r.fn.extractLsb' 6 5), rm := r.rnd, sat := r.sat, d := r.d, a := r.a, w := r.b }

def encCvts  (x : CvtsArgs) : Raw :=
  { Raw.bare 0x51 x.g with d := x.d, a := x.a, b := x.s, c := x.w, fn := (CType.flt x.dt).bits ++ ((CType.flt x.st).bits ++ (code3 x.rm.code ++ (bit x.sat ++ (bit x.div ++ (0 : BitVec 1))))) }

def extCvts (r : Raw) : CvtsArgs :=
  { g := r.g, div := r.i8, dt := Fmt.ofCode (r.fn.extractLsb' 12 4).toNat, st := Fmt.ofCode (r.fn.extractLsb' 7 4).toNat, rm := r.rnd, sat := r.sat, d := r.d, a := r.a, s := r.b, w := r.c }

def encRnd (sub : BitVec 6) (x : RndArgs) : Raw :=
  { Raw.bare 0x55 x.g with d := x.d, a := x.k, b := x.c, fn := fnStd sub 0 0 false false }

def extRnd (r : Raw) : RndArgs :=
  { g := r.g, d := r.d, k := r.a, c := r.b }

def encMask (op : Byte) (x : MaskArgs) : Raw :=
  { Raw.bare op x.g with b := maskField x.m }

def extMask (r : Raw) : MaskArgs :=
  { g := r.g, m := low4 r.b }

def encWaitPut  (x : WaitPutArgs) : Raw :=
  { Raw.bare 0x92 x.g with a := x.a, b := maskField x.m, c := x.p.field, fn := fnStd 1 0 0 false false }

def extWaitPut (r : Raw) : WaitPutArgs :=
  { g := r.g, m := low4 r.b, a := r.a, p := PSrc.ofField r.c }

def encMset  (x : MsetArgs) : Raw :=
  { Raw.bare 0x93 x.g with a := x.r, b := maskField x.m }

def extMset (r : Raw) : MsetArgs :=
  { g := r.g, m := low4 r.b, r := r.a }

def encMsetRd  (x : MsetArgs) : Raw :=
  { Raw.bare 0x93 x.g with d := x.r, b := maskField x.m, fn := fnStd 1 0 0 false false }

def extMsetRd (r : Raw) : MsetArgs :=
  { g := r.g, m := low4 r.b, r := r.d }

def ShfMode.code : ShfMode → Nat
  | .at => 0 | .off => 1 | .wrap => 2 | .xor => 3

def ShfMode.ofCode : Nat → ShfMode
  | 0 => .at | 1 => .off | 2 => .wrap | _ => .xor

def VoteMode.code : VoteMode → Nat
  | .all => 0 | .any => 1 | .same => 2

def VoteMode.ofCode : Nat → VoteMode
  | 0 => .all | 1 => .any | _ => .same

def RedOp.code : RedOp → Nat
  | .add => 0 | .min => 1 | .max => 2 | .and => 3 | .or => 4 | .xor => 5

def RedOp.ofCode : Nat → RedOp
  | 0 => .add | 1 => .min | 2 => .max | 3 => .and | 4 => .or | _ => .xor

def RedType.code : RedType → Nat
  | .i32 => 0 | .n32 => 1 | .f32 => 2

def RedType.ofCode : Nat → RedType
  | 0 => .i32 | 1 => .n32 | _ => .f32

def encXshf  (x : XshfArgs) : Raw :=
  { Raw.bare 0x94 x.g with d := x.d, a := x.b, b := maskField x.m, c := pdField x.pd, fn := fnStd (BitVec.ofNat 6 x.mode.code) 0 0 false false }

def extXshf (r : Raw) : XshfArgs :=
  { g := r.g, mode := ShfMode.ofCode r.sub.toNat, d := r.d, pd := low3 r.c, m := low4 r.b, b := r.a }

def encXvote  (x : XvoteArgs) : Raw :=
  { Raw.bare 0x95 x.g with d := pdField x.pd, b := maskField x.m, c := x.e, fn := fnStd (BitVec.ofNat 6 x.mode.code) 0 0 false false }

def extXvote (r : Raw) : XvoteArgs :=
  { g := r.g, mode := VoteMode.ofCode r.sub.toNat, pd := low3 r.d, e := r.c, m := low4 r.b }

def encXbal  (x : XbalArgs) : Raw :=
  { Raw.bare 0x96 x.g with d := x.d, b := maskField x.m, c := x.e }

def extXbal (r : Raw) : XbalArgs :=
  { g := r.g, d := r.d, e := r.c, m := low4 r.b }

def encXred  (x : XredArgs) : Raw :=
  { Raw.bare 0x97 x.g with d := x.d, b := maskField x.m, fn := BitVec.ofNat 6 x.op.code ++ (BitVec.ofNat 2 x.t.code ++ ((0 : BitVec 5) ++ (bit x.sat ++ (0 : BitVec 2)))) }

def extXred (r : Raw) : XredArgs :=
  { g := r.g, op := RedOp.ofCode r.sub.toNat, t := RedType.ofCode (r.fn.extractLsb' 8 2).toNat, sat := r.sat, d := r.d, m := low4 r.b }

def encLd  (x : LdArgs) : Raw :=
  encOff { Raw.lbare 0x60 x.h with d := x.d, a := x.a, fn := fnMem 0 (if x.acq then 1 else 0) (code4 x.t.code) (code3 x.scope.code) (code3 x.space.code) } x.off

def extLd (r : Raw) : LdArgs :=
  { h := r.lhdr, acq := r.ord == 1, scope := r.scope, space := r.space, t := r.it, d := r.d, a := r.a, off := extOff r }

def encSt  (x : StArgs) : Raw :=
  encOff { Raw.lbare 0x61 x.h with a := x.a, b := x.b, fn := fnMem 0 (if x.rel then 2 else 0) (code4 x.t.code) (code3 x.scope.code) (code3 x.space.code) } x.off

def extSt (r : Raw) : StArgs :=
  { h := r.lhdr, rel := r.ord == 2, scope := r.scope, space := r.space, t := r.it, a := r.a, off := extOff r, b := r.b }

def encLdc  (x : LdcArgs) : Raw :=
  { Raw.lbare 0x62 x.h with d := x.d, a := x.a, c := x.off, fn := fnMem 0 0 (code4 x.t.code) 0 0 }

def extLdc (r : Raw) : LdcArgs :=
  { h := r.lhdr, t := r.it, d := r.d, a := r.a, off := r.c }

def encPref  (x : PrefArgs) : Raw :=
  encOff { Raw.bare 0x63 x.g with a := x.a, fn := fnMem 0 0 0 (if x.l1 then 2 else 4) 0 } x.off

def extPref (r : Raw) : PrefArgs :=
  { g := r.g, l1 := r.sc == 2, a := r.a, off := extOff r }

def encFence  (x : FenceArgs) : Raw :=
  { Raw.bare 0x64 x.g with fn := fnMem 0 (BitVec.ofNat 2 x.ord.code) 0 (code3 x.scope.code) 0 }

def extFence (r : Raw) : FenceArgs :=
  { g := r.g, ord := Ord4.ofCode r.ord.toNat, scope := r.scope }

def encCctl (op : BitVec 4) (x : Bare) : Raw :=
  { Raw.bare 0x65 x.g with fn := fnMem op 0 0 0 0 }

def extCctl (r : Raw) : Bare :=
  { g := r.g }

def encIinv  (x : IinvArgs) : Raw :=
  { Raw.bare 0x65 x.g with a := x.a, c := x.off, fn := fnMem 1 0 0 0 0 }

def extIinv (r : Raw) : IinvArgs :=
  { g := r.g, a := r.a, off := r.c }

def encAtom  (x : AtomArgs) : Raw :=
  encOff { Raw.lbare 0x70 x.h with d := x.d, a := x.a, b := x.b, fn := fnMem (code4 x.op.op) (BitVec.ofNat 2 x.ord.code) (code4 x.op.ty) (code3 x.scope.code) (code3 x.space.code) } x.off

def extAtom (r : Raw) : AtomArgs :=
  { h := r.lhdr, op := AtomOp.ofCodes r.memOp.toNat r.ty.toNat, ord := Ord4.ofCode r.ord.toNat, scope := r.scope, space := r.space, d := r.d, a := r.a, off := extOff r, b := r.b }

def encCas  (x : CasArgs) : Raw :=
  { Raw.lbare 0x71 x.h with d := x.d, a := x.a, b := x.b, c := x.c, fn := fnMem 0 (BitVec.ofNat 2 x.ord.code) (code4 x.t.code) (code3 x.scope.code) (code3 x.space.code) }

def extCas (r : Raw) : CasArgs :=
  { h := r.lhdr, ord := Ord4.ofCode r.ord.toNat, scope := r.scope, space := r.space, t := r.it, d := r.d, a := r.a, b := r.b, c := r.c }

def encRed  (x : RedArgs) : Raw :=
  encOff { Raw.lbare 0x72 x.h with a := x.a, b := x.b, fn := fnMem (code4 x.op.op) (if x.rel then 2 else 0) (code4 x.op.ty) (code3 x.scope.code) (code3 x.space.code) } x.off

def extRed (r : Raw) : RedArgs :=
  { h := r.lhdr, op := AtomOp.ofCodes r.memOp.toNat r.ty.toNat, rel := r.ord == 2, scope := r.scope, space := r.space, a := r.a, off := extOff r, b := r.b }

def encRedt  (x : RedtArgs) : Raw :=
  { Raw.lbare 0x73 x.h with len := 2, imm := (0 : Word) ++ x.off, a := x.a, b := x.b, c := x.tag, fn := fnMem (code4 x.op.op) (if x.rel then 2 else 0) (code4 x.op.ty) 4 0 }

def extRedt (r : Raw) : RedtArgs :=
  { h := r.lhdr, op := AtomOp.ofCodes r.memOp.toNat r.ty.toNat, rel := r.ord == 2, a := r.a, off := r.imm32, b := r.b, tag := r.c }

def encRclose  (x : RcloseArgs) : Raw :=
  { Raw.bare 0x74 x.g with a := x.a, b := x.b, fn := fnMem 0 0 0 4 0 }

def extRclose (r : Raw) : RcloseArgs :=
  { g := r.g, a := r.a, b := r.b }

def CpySize.code : CpySize → Nat
  | .s4 => 0 | .s8 => 1 | .s16 => 2

def CpySize.ofCode : Nat → CpySize
  | 0 => .s4 | 1 => .s8 | _ => .s16

def encCpy (out : Bool) (x : CpyArgs) : Raw :=
  encOff { Raw.lbare 0x80 x.h with a := x.a, b := x.b, fn := (BitVec.ofNat 2 x.size.code ++ (bit out ++ (0 : BitVec 3))) ++ ((0 : BitVec 4) ++ ((code3 x.scope.code) ++ (code3 x.space.code))) } x.off

def extCpy (r : Raw) : CpyArgs :=
  { h := r.lhdr, size := CpySize.ofCode (r.fn.extractLsb' 14 2).toNat, scope := r.scope, space := r.space, a := r.a, off := extOff r, b := r.b }

def encTbar (op : Byte) (sub : BitVec 6) (x : TbarArgs) : Raw :=
  encR8 { Raw.bare op x.g with a := x.a, fn := fnStd sub 0 0 false false } x.b

def extTbar (r : Raw) : TbarArgs :=
  { g := r.g, a := r.a, b := extR8 r }

def encTbarw  (x : TbarwArgs) : Raw :=
  encR8 { Raw.bare 0x84 x.g with d := pdField x.pd, a := x.a } x.b

def extTbarw (r : Raw) : TbarwArgs :=
  { g := r.g, pd := low3 r.d, a := r.a, b := extR8 r }

def encBar (sub : BitVec 6) (x : BarArgs) : Raw :=
  { Raw.bare 0x85 x.g with fn := fnStd sub x.k 0 false false }

def extBar (r : Raw) : BarArgs :=
  { g := r.g, k := r.ty }

def encRing (op : Byte) (sub : BitVec 6) (x : RingArgs) : Raw :=
  encR8 { Raw.bare op x.g with fn := fnStd sub x.q 0 false false } x.b

def extRing (r : Raw) : RingArgs :=
  { g := r.g, q := r.ty, b := extR8 r }

/-- The offset of WLD and WLDS: absent in the 64-bit form (R252). -/
def encWld (op : Byte) (x : WldArgs) : Raw :=
  let r := { Raw.lbare op x.h with a := x.a, fn := (0 : BitVec 5) ++ (bit x.scaled ++ (code4 x.fmt.code ++ (0 : BitVec 6))) }
  match x.off with
  | none => r
  | some v => r.wide v

def extWld (r : Raw) : WldArgs :=
  { h := r.lhdr, fmt := r.ft, scaled := r.fn.getLsbD 10, a := r.a, off := if r.len == 2 then some r.imm32 else none }

def encMloop  (x : MloopArgs) : Raw :=
  { Raw.lbare 0xA2 x.h with len := 3, d := x.c, a := x.a, b := x.s, fn := code4 x.fmt.code ++ (bit x.cb ++ (bit x.scaled ++ (bit x.sparse ++ (bit x.init ++ (0 : BitVec 8))))), imm := x.dc ++ (x.dw ++ (x.da ++ (x.steps1 ++ x.rows1))) }

def extMloop (r : Raw) : MloopArgs :=
  { h := r.lhdr, fmt := Fmt.ofCode (r.fn.extractLsb' 12 4).toNat, cb := r.fn.getLsbD 11, scaled := r.fn.getLsbD 10, sparse := r.fn.getLsbD 9, init := r.fn.getLsbD 8, c := r.d, a := r.a, s := r.b, rows1 := r.imm.extractLsb' 0 10, steps1 := r.imm.extractLsb' 10 12, da := r.imm.extractLsb' 22 16, dw := r.imm.extractLsb' 38 14, dc := r.imm.extractLsb' 52 12 }

def encMzero  (x : MzeroArgs) : Raw :=
  { Raw.lbare 0xA3 x.h with len := 2, imm := (0 : Word) ++ x.len, a := x.a }

def extMzero (r : Raw) : MzeroArgs :=
  { h := r.lhdr, a := r.a, len := r.imm32 }

def encDcfg  (x : DcfgArgs) : Raw :=
  encRIa (Raw.bare 0xA7 x.g) x.v

def extDcfg (r : Raw) : DcfgArgs :=
  { g := r.g, v := extRIa r }

def encVec (op : Byte) (x : VecArgs) : Raw :=
  { Raw.lbare op x.h with len := 2, d := x.d, a := x.a, b := x.b, c := x.c, fn := x.op ++ (code4 x.fmt.code ++ (code3 x.rm.code ++ (bit x.sat ++ (bit x.sd ++ (bit x.sa ++ (bit x.sb ++ bit x.sc)))))), imm := (0 : BitVec 54) ++ x.rows1 }

def extVec (r : Raw) : VecArgs :=
  { h := r.lhdr, op := r.fn.extractLsb' 12 4, fmt := Fmt.ofCode (r.fn.extractLsb' 8 4).toNat, rm := Rm.ofCode (r.fn.extractLsb' 5 3).toNat, sat := r.fn.getLsbD 4, sd := r.fn.getLsbD 3, sa := r.fn.getLsbD 2, sb := r.fn.getLsbD 1, sc := r.fn.getLsbD 0, d := r.d, a := r.a, b := r.b, c := r.c, rows1 := r.imm.extractLsb' 0 10 }

def encVcvt  (x : VcvtArgs) : Raw :=
  { Raw.lbare 0xBA x.h with len := 2, d := x.d, a := x.a, fn := (0 : BitVec 4) ++ (code4 x.fmt.code ++ (code3 x.rm.code ++ (bit x.sat ++ ((0 : BitVec 1) ++ (bit x.sa ++ (bit x.scaled ++ (0 : BitVec 1))))))), imm := (0 : BitVec 54) ++ x.rows1 }

def extVcvt (r : Raw) : VcvtArgs :=
  { h := r.lhdr, fmt := Fmt.ofCode (r.fn.extractLsb' 8 4).toNat, scaled := r.fn.getLsbD 1, rm := Rm.ofCode (r.fn.extractLsb' 5 3).toNat, sat := r.fn.getLsbD 4, sa := r.fn.getLsbD 2, d := r.d, a := r.a, rows1 := r.imm.extractLsb' 0 10 }

def encVst  (x : VstArgs) : Raw :=
  { Raw.lbare 0xBD x.h with len := 2, d := x.d, a := x.a, b := x.b, fn := (0 : BitVec 4) ++ (code4 x.fmt.code ++ (code3 x.rm.code ++ (bit x.sat ++ (code3 x.scope.code ++ bit x.sa)))), imm := (0 : BitVec 54) ++ x.rows1 }

def extVst (r : Raw) : VstArgs :=
  { h := r.lhdr, scope := Scope.ofCode (r.fn.extractLsb' 1 3).toNat, fmt := Fmt.ofCode (r.fn.extractLsb' 8 4).toNat, rm := Rm.ofCode (r.fn.extractLsb' 5 3).toNat, sat := r.fn.getLsbD 4, sa := r.fn.getLsbD 0, d := r.d, a := r.a, b := r.b, rows1 := r.imm.extractLsb' 0 10 }

def encLdlStart  (x : LdlStartArgs) : Raw :=
  { Raw.lbare 0xC0 x.h with len := 3, d := x.d, a := x.a }

def extLdlStart (r : Raw) : LdlStartArgs :=
  { h := r.lhdr, d := r.d, a := r.a }

def encLdlStartAt  (x : LdlStartAtArgs) : Raw :=
  { Raw.lbare 0xC0 x.h with len := 3, d := x.d, a := x.a, imm := (0 : BitVec 56) ++ ((1 : BitVec 1) ++ x.n) }

def extLdlStartAt (r : Raw) : LdlStartAtArgs :=
  { h := r.lhdr, d := r.d, a := r.a, n := r.imm.extractLsb' 0 7 }

def encDA (op : Byte) (sub : BitVec 6) (x : DAArgs) : Raw :=
  { Raw.bare op x.g with d := x.d, a := x.a, fn := fnStd sub 0 0 false false }

def extDA (r : Raw) : DAArgs :=
  { g := r.g, d := r.d, a := r.a }

/-- The function field of family 0xC: SUB and CH (R328). -/
def fnLdl (sub : BitVec 6) (ch : BitVec 4) : Half := sub ++ ((0 : BitVec 6) ++ ch)

def Raw.ch (r : Raw) : BitVec 4 := r.fn.extractLsb' 0 4

def encLdlBase  (x : LdlBaseArgs) : Raw :=
  encRIa { Raw.bare 0xC3 x.g with d := pdField x.pd, fn := fnLdl 0 x.ch } x.v

def extLdlBase (r : Raw) : LdlBaseArgs :=
  { g := r.g, pd := low3 r.d, ch := r.ch, v := extRIa r }

def encLdlFree  (x : LdlFreeArgs) : Raw :=
  { Raw.bare 0xC3 x.g with d := pdField x.pd, fn := fnLdl 1 x.ch }

def extLdlFree (r : Raw) : LdlFreeArgs :=
  { g := r.g, pd := low3 r.d, ch := r.ch }

def encAwait  (x : LdlBaseArgs) : Raw :=
  encRIb { Raw.bare 0xC4 x.g with d := pdField x.pd, fn := fnLdl 0 x.ch } x.v

def extAwait (r : Raw) : LdlBaseArgs :=
  { g := r.g, pd := low3 r.d, ch := r.ch, v := extRIb r }

def encArels  (x : ArelsArgs) : Raw :=
  encRIb { Raw.bare 0xC5 x.g with fn := fnLdl 0 x.ch } x.b

def extArels (r : Raw) : ArelsArgs :=
  { g := r.g, ch := r.ch, b := extRIb r }

def encRld  (x : RldArgs) : Raw :=
  encOff { Raw.bare 0xD0 x.g with d := x.d, a := x.a, fn := fnMem 0 (if x.acq then 1 else 0) (code4 x.t.code) 5 0 } x.off

def extRld (r : Raw) : RldArgs :=
  { g := r.g, acq := r.ord == 1, t := r.it, d := r.d, a := r.a, off := extOff r }

def encRst  (x : RstArgs) : Raw :=
  encOff { Raw.lbare 0xD1 x.h with a := x.a, b := x.b, fn := fnMem 0 (if x.rel then 2 else 0) (code4 x.t.code) 5 0 } x.off

def extRst (r : Raw) : RstArgs :=
  { h := r.lhdr, rel := r.ord == 2, t := r.it, a := r.a, off := extOff r, b := r.b }

def encRatom  (x : RatomArgs) : Raw :=
  encOff { Raw.lbare 0xD2 x.h with d := x.d, a := x.a, b := x.b, fn := fnMem (code4 x.op.op) (BitVec.ofNat 2 x.ord.code) (code4 x.op.ty) 5 0 } x.off

def extRatom (r : Raw) : RatomArgs :=
  { h := r.lhdr, op := AtomOp.ofCodes r.memOp.toNat r.ty.toNat, ord := Ord4.ofCode r.ord.toNat, d := r.d, a := r.a, off := extOff r, b := r.b }

def encRatomCas  (x : RatomCasArgs) : Raw :=
  { Raw.lbare 0xD2 x.h with d := x.d, a := x.a, b := x.b, c := x.c, fn := fnMem 10 (BitVec.ofNat 2 x.ord.code) (code4 x.t.code) 5 0 }

def extRatomCas (r : Raw) : RatomCasArgs :=
  { h := r.lhdr, ord := Ord4.ofCode r.ord.toNat, t := r.it, d := r.d, a := r.a, b := r.b, c := r.c }

def encRred  (x : RredArgs) : Raw :=
  encOff { Raw.lbare 0xD3 x.h with a := x.a, b := x.b, fn := fnMem (code4 x.op.op) (if x.rel then 2 else 0) (code4 x.op.ty) 5 0 } x.off

def extRred (r : Raw) : RredArgs :=
  { h := r.lhdr, op := AtomOp.ofCodes r.memOp.toNat r.ty.toNat, rel := r.ord == 2, a := r.a, off := extOff r, b := r.b }

def encFlow (sub : BitVec 6) (x : Bare) : Raw :=
  { Raw.bare 0xD4 x.g with fn := fnStd sub 0 0 false false }

def extFlow (r : Raw) : Bare :=
  { g := r.g }

def encColl  (x : CollArgs) : Raw :=
  { Raw.lbare 0xD5 x.h with len := 3, d := x.d, a := x.a, imm := x.t3 ++ (x.t2 ++ (x.t1 ++ x.t0)) }

def extColl (r : Raw) : CollArgs :=
  { h := r.lhdr, d := r.d, a := r.a, t0 := r.imm.extractLsb' 0 16, t1 := r.imm.extractLsb' 16 16, t2 := r.imm.extractLsb' 32 16, t3 := r.imm.extractLsb' 48 16 }

def encTok (op : Byte) (x : TokArgs) : Raw :=
  encRIb (Raw.bare op x.g) x.t

def extTok (r : Raw) : TokArgs :=
  { g := r.g, t := extRIb r }

def encMfence  (x : MfenceArgs) : Raw :=
  { Raw.bare 0xD8 x.g with d := pdField x.pd, a := x.a }

def extMfence (r : Raw) : MfenceArgs :=
  { g := r.g, pd := low3 r.d, a := r.a }

def encTrap (op : Byte) (x : TrapArgs) : Raw :=
  { Raw.bare op x.g with fn := x.code }

def extTrap (r : Raw) : TrapArgs :=
  { g := r.g, code := r.fn }

def encSub (op : Byte) (sub : BitVec 6) (x : Bare) : Raw :=
  { Raw.bare op x.g with fn := fnStd sub 0 0 false false }

def extSub (r : Raw) : Bare :=
  { g := r.g }

def encSrd  (x : SrArgs) : Raw :=
  { Raw.bare 0xE3 x.g with d := x.x, a := BitVec.ofNat 8 x.r.code }

def extSrd (r : Raw) : SrArgs :=
  { g := r.g, r := SysReg.ofCode r.a.toNat, x := r.d }

def encSwr  (x : SrArgs) : Raw :=
  { Raw.bare 0xE4 x.g with d := BitVec.ofNat 8 x.r.code, a := x.x }

def extSwr (r : Raw) : SrArgs :=
  { g := r.g, r := SysReg.ofCode r.d.toNat, x := r.a }

def encFltrPg  (x : AArgs) : Raw :=
  { Raw.bare 0xE8 x.g with a := x.a, fn := fnStd 1 0 0 false false }

def extFltrPg (r : Raw) : AArgs :=
  { g := r.g, a := r.a }

def encPerfr  (x : PerfrArgs) : Raw :=
  { Raw.bare 0xE6 x.g with d := x.d, a := maskField x.n }

def extPerfr (r : Raw) : PerfrArgs :=
  { g := r.g, d := r.d, n := low4 r.a }

/-! ## The encoder of thread instructions -/

/-- The fields of a thread instruction; none for the instructions of other agents. -/
def encRaw : Instr → Option Raw
  | .nop x => some (encNop x)
  | .bra x => some (encBra 0x01 x)
  | .brx x => some (encA 0x02 x)
  | .call x => some (encBra 0x03 x)
  | .callx x => some (encA 0x04 x)
  | .ret x => some (encBare 0x05 x)
  | .exit x => some (encBare 0x06 x)
  | .yield x => some (encBare 0x07 x)
  | .pause x => some (encPause x)
  | .iadd x => some (encAlu3 0x10 x)
  | .isub x => some (encAlu3 0x11 x)
  | .imul x => some (encAlu3 0x12 x)
  | .imulh x => some (encAlu3 0x13 x)
  | .imad x => some (encImad x)
  | .idiv x => some (encAlu3 0x15 x)
  | .irem x => some (encAlu3 0x16 x)
  | .imin x => some (encAlu3 0x17 x)
  | .imax x => some (encAlu3 0x18 x)
  | .iabs x => some (encUn 0x19 x)
  | .lea x => some (encLea x)
  | .icmp x => some (encIcmp x)
  | .isel x => some (encIsel x)
  | .mov x => some (encUn 0x1D x)
  | .movi x => some (encMovi x)
  | .movs x => some (encMovs x)
  | .and x => some (encAlu3 0x20 x)
  | .or x => some (encAlu3 0x21 x)
  | .xor x => some (encAlu3 0x22 x)
  | .lut3 x => some (encLut3 x)
  | .plut x => some (encPlut x)
  | .shl x => some (encAlu3 0x24 x)
  | .shr x => some (encAlu3 0x25 x)
  | .rot x => some (encRot x)
  | .bfe x => some (encBfe x)
  | .bfi x => some (encBfi x)
  | .popc x => some (encUn 0x29 x)
  | .clz x => some (encUn 0x2A x)
  | .brev x => some (encUn 0x2B x)
  | .bsel x => some (encBsel x)
  | .fadd x => some (encFp3 0x30 x)
  | .fsub x => some (encFp3 0x31 x)
  | .fmul x => some (encFp3 0x32 x)
  | .fma x => some (encFma 0x33 x)
  | .fdiv x => some (encFp3 0x37 x)
  | .fmin x => some (encFp3 0x34 x)
  | .fmax x => some (encFp3 0x35 x)
  | .fcmp x => some (encFcmp 0x36 x)
  | .fclass x => some (encF1 0x38 x)
  | .hadd2 x => some (encFp3 0x40 x)
  | .hsub2 x => some (encFp3 0x41 x)
  | .hmul2 x => some (encFp3 0x42 x)
  | .hfma2 x => some (encFma 0x43 x)
  | .hmin2 x => some (encFp3 0x44 x)
  | .hmax2 x => some (encFp3 0x45 x)
  | .hcmp2 x => some (encFcmp 0x46 x)
  | .cvt x => some (encCvt x)
  | .cvts x => some (encCvts x)
  | .frint x => some (encF1 0x52 x)
  | .pack x => some (encFp3 0x53 x)
  | .unpk x => some (encF1 0x54 x)
  | .rnd x => some (encRnd 0 x)
  | .rndLo x => some (encRnd 1 x)
  | .fexp2 x => some (encF1 0x56 x)
  | .flog2 x => some (encF1 0x57 x)
  | .frcp x => some (encF1 0x58 x)
  | .frsq x => some (encF1 0x59 x)
  | .fsqrt x => some (encF1 0x5A x)
  | .fsin x => some (encF1 0x5B x)
  | .fcos x => some (encF1 0x5C x)
  | .ftanh x => some (encF1 0x5D x)
  | .ld x => some (encLd x)
  | .st x => some (encSt x)
  | .ldc x => some (encLdc x)
  | .pref x => some (encPref x)
  | .fence x => some (encFence x)
  | .cctlL1inv x => some (encCctl 0 x)
  | .cctlIinv x => some (encIinv x)
  | .cctlIinvall x => some (encCctl 2 x)
  | .atom x => some (encAtom x)
  | .cas x => some (encCas x)
  | .red x => some (encRed x)
  | .redt x => some (encRedt x)
  | .rclose x => some (encRclose x)
  | .cpyIn x => some (encCpy false x)
  | .cpyOut x => some (encCpy true x)
  | .tbari x => some (encTbar 0x81 0 x)
  | .tbara x => some (encA 0x82 x)
  | .tbaraN x => some (encTbar 0x82 1 x)
  | .tbarvd x => some (encA 0x83 x)
  | .tbarw x => some (encTbarw x)
  | .bar x => some (encBar 0 x)
  | .barArv x => some (encBar 1 x)
  | .ringp x => some (encRing 0x86 0 x)
  | .ringwEmpty x => some (encRing 0x87 0 x)
  | .ringwFull x => some (encRing 0x87 1 x)
  | .join x => some (encMask 0x90 x)
  | .leave x => some (encMask 0x91 x)
  | .wait x => some (encMask 0x92 x)
  | .waitPut x => some (encWaitPut x)
  | .mset x => some (encMset x)
  | .msetRd x => some (encMsetRd x)
  | .xshf x => some (encXshf x)
  | .xvote x => some (encXvote x)
  | .xbal x => some (encXbal x)
  | .xred x => some (encXred x)
  | .wld x => some (encWld 0xA0 x)
  | .wlds x => some (encWld 0xA1 x)
  | .mloop x => some (encMloop x)
  | .mzero x => some (encMzero x)
  | .msync x => some (encBare 0xA6 x)
  | .mstat x => some (encD 0xA4 x)
  | .msclr x => some (encA 0xA5 x)
  | .dcfg x => some (encDcfg x)
  | .vadd x => some (encVec 0xB0 x)
  | .vsub x => some (encVec 0xB1 x)
  | .vmul x => some (encVec 0xB2 x)
  | .vfma x => some (encVec 0xB3 x)
  | .vmin x => some (encVec 0xB4 x)
  | .vmax x => some (encVec 0xB5 x)
  | .vexp2 x => some (encVec 0xB6 x)
  | .vrmax x => some (encVec 0xB7 x)
  | .vrsum x => some (encVec 0xB8 x)
  | .vscl x => some (encVec 0xB9 x)
  | .vcvt x => some (encVcvt x)
  | .vcmp x => some (encVec 0xBB x)
  | .vmov x => some (encVec 0xBC x)
  | .vst x => some (encVst x)
  | .ldlStart x => some (encLdlStart x)
  | .ldlStartAt x => some (encLdlStartAt x)
  | .ldlStop x => some (encA 0xC1 x)
  | .ldlStat x => some (encDA 0xC2 0 x)
  | .ldlStatFree x => some (encDA 0xC2 1 x)
  | .ldlBaseBind x => some (encLdlBase x)
  | .ldlBaseFree x => some (encLdlFree x)
  | .await x => some (encAwait x)
  | .arels x => some (encArels x)
  | .rld x => some (encRld x)
  | .rst x => some (encRst x)
  | .ratom x => some (encRatom x)
  | .ratomCas x => some (encRatomCas x)
  | .rred x => some (encRred x)
  | .flowselOrd x => some (encFlow 0 x)
  | .flowselUnord x => some (encFlow 1 x)
  | .coll x => some (encColl x)
  | .token x => some (encTok 0xD6 x)
  | .twait x => some (encTok 0xD7 x)
  | .mfence x => some (encMfence x)
  | .trap x => some (encTrap 0xE0 x)
  | .bkpt x => some (encTrap 0xE5 x)
  | .hret x => some (encSub 0xE1 0 x)
  | .hretSkip x => some (encSub 0xE1 1 x)
  | .preck x => some (encBare 0xE2 x)
  | .srd x => some (encSrd x)
  | .swr x => some (encSwr x)
  | .fltr x => some (encSub 0xE8 0 x)
  | .fltrPg x => some (encFltrPg x)
  | .escl x => some (encBare 0xE9 x)
  | .cycr x => some (encD 0xE7 x)
  | .perfr x => some (encPerfr x)
  | _ => none

/-! ## The decoder of thread instructions -/

/-- Why a word is no instruction (R87). -/
inductive DErr
  | illegalOp
  | illegalField
  deriving DecidableEq, Repr

/-- Whether an OP and ORD pair of R201 is among those given. -/
def ordIn (r : Raw) (ops ords : List Nat) : Bool := ops.contains r.memOp.toNat && ords.contains r.ord.toNat

def opt (c : Bool) (i : Instr) : Option Instr := if c then some i else none

/-- OP 0 to 9 (R213). -/
def atomOps : List Nat := [0, 1, 2, 3, 4, 5, 6, 7, 8, 9]

/-- OP 0 to 9 without `.exch` (R213). -/
def redOps : List Nat := [0, 1, 2, 3, 4, 5, 7, 8, 9]

/-- Family 0x0: the instruction that a low opcode nibble, a length and a sub-operation name (R85, R86). -/
def cand0 (r : Raw) : Nat → Option Instr
  | 0x0 => opt ((r.len == 1 || r.len == 2)) (.nop (extNop r))
  | 0x1 => opt (r.len == 2 && r.sub == 0) (.bra (extBra r))
  | 0x2 => opt (r.len == 1 && r.sub == 0) (.brx (extA r))
  | 0x3 => opt (r.len == 2 && r.sub == 0) (.call (extBra r))
  | 0x4 => opt (r.len == 1 && r.sub == 0) (.callx (extA r))
  | 0x5 => opt (r.len == 1 && r.sub == 0) (.ret (extBare r))
  | 0x6 => opt (r.len == 1 && r.sub == 0) (.exit (extBare r))
  | 0x7 => opt (r.len == 1 && r.sub == 0) (.yield (extBare r))
  | 0x8 => opt ((r.len == 1 || r.len == 2) && r.sub == 0) (.pause (extPause r))
  | _ => none

/-- Family 0x1: the instruction that a low opcode nibble, a length and a sub-operation name (R85, R86). -/
def cand1 (r : Raw) : Nat → Option Instr
  | 0x0 => opt ((r.len == 1 || r.len == 2) && r.sub == 0) (.iadd (extAlu3 r))
  | 0x1 => opt ((r.len == 1 || r.len == 2) && r.sub == 0) (.isub (extAlu3 r))
  | 0x2 => opt ((r.len == 1 || r.len == 2) && r.sub == 0) (.imul (extAlu3 r))
  | 0x3 => opt (r.len == 1 && r.sub == 0) (.imulh (extAlu3 r))
  | 0x4 => opt (r.len == 1 && r.sub == 0) (.imad (extImad r))
  | 0x5 => opt (r.len == 1 && r.sub == 0) (.idiv (extAlu3 r))
  | 0x6 => opt (r.len == 1 && r.sub == 0) (.irem (extAlu3 r))
  | 0x7 => opt ((r.len == 1 || r.len == 2) && r.sub == 0) (.imin (extAlu3 r))
  | 0x8 => opt ((r.len == 1 || r.len == 2) && r.sub == 0) (.imax (extAlu3 r))
  | 0x9 => opt (r.len == 1 && r.sub == 0) (.iabs (extUn r))
  | 0xA => opt ((r.len == 1 || r.len == 2) && decide (r.sub.toNat < 32)) (.lea (extLea r))
  | 0xB => opt ((r.len == 1 || r.len == 2) && decide (r.sub.toNat < 6)) (.icmp (extIcmp r))
  | 0xC => opt (r.len == 1 && r.sub == 0) (.isel (extIsel r))
  | 0xD => opt (r.len == 1 && r.sub == 0) (.mov (extUn r))
  | 0xE => opt ((r.len == 2 || r.len == 3) && r.sub == 0) (.movi (extMovi r))
  | 0xF => opt (r.len == 1 && r.sub == 0) (.movs (extMovs r))
  | _ => none

/-- Family 0x2: the instruction that a low opcode nibble, a length and a sub-operation name (R85, R86). -/
def cand2 (r : Raw) : Nat → Option Instr
  | 0x0 => opt ((r.len == 1 || r.len == 2) && r.sub == 0) (.and (extAlu3 r))
  | 0x1 => opt ((r.len == 1 || r.len == 2) && r.sub == 0) (.or (extAlu3 r))
  | 0x2 => opt ((r.len == 1 || r.len == 2) && r.sub == 0) (.xor (extAlu3 r))
  | 0x3 => opt (r.len == 1) (.lut3 (extLut3 r))
  | 0x4 => opt (r.len == 1 && r.sub == 0) (.shl (extAlu3 r))
  | 0x5 => opt (r.len == 1 && r.sub == 0) (.shr (extAlu3 r))
  | 0x6 => opt (r.len == 1 && decide (r.sub.toNat < 2)) (.rot (extRot r))
  | 0x7 => opt (r.len == 1) (.bfe (extBfe r))
  | 0x8 => opt (r.len == 1) (.bfi (extBfi r))
  | 0x9 => opt (r.len == 1 && r.sub == 0) (.popc (extUn r))
  | 0xA => opt (r.len == 1 && r.sub == 0) (.clz (extUn r))
  | 0xB => opt (r.len == 1 && r.sub == 0) (.brev (extUn r))
  | 0xC => opt (r.len == 1 && r.sub == 0) (.bsel (extBsel r))
  | 0xD => opt (r.len == 1) (.plut (extPlut r))
  | _ => none

/-- Family 0x3: the instruction that a low opcode nibble, a length and a sub-operation name (R85, R86). -/
def cand3 (r : Raw) : Nat → Option Instr
  | 0x0 => opt ((r.len == 1 || r.len == 2) && r.sub == 0) (.fadd (extFp3 r))
  | 0x1 => opt ((r.len == 1 || r.len == 2) && r.sub == 0) (.fsub (extFp3 r))
  | 0x2 => opt ((r.len == 1 || r.len == 2) && r.sub == 0) (.fmul (extFp3 r))
  | 0x3 => opt ((r.len == 1 || r.len == 2) && r.sub == 0) (.fma (extFma r))
  | 0x4 => opt (r.len == 1 && r.sub == 0) (.fmin (extFp3 r))
  | 0x5 => opt (r.len == 1 && r.sub == 0) (.fmax (extFp3 r))
  | 0x6 => opt ((r.len == 1 || r.len == 2) && decide (r.sub.toNat < 8)) (.fcmp (extFcmp r))
  | 0x7 => opt (r.len == 1 && r.sub == 0) (.fdiv (extFp3 r))
  | 0x8 => opt (r.len == 1 && r.sub == 0) (.fclass (extF1 r))
  | _ => none

/-- Family 0x4: the instruction that a low opcode nibble, a length and a sub-operation name (R85, R86). -/
def cand4 (r : Raw) : Nat → Option Instr
  | 0x0 => opt ((r.len == 1 || r.len == 2) && r.sub == 0) (.hadd2 (extFp3 r))
  | 0x1 => opt ((r.len == 1 || r.len == 2) && r.sub == 0) (.hsub2 (extFp3 r))
  | 0x2 => opt ((r.len == 1 || r.len == 2) && r.sub == 0) (.hmul2 (extFp3 r))
  | 0x3 => opt ((r.len == 1 || r.len == 2) && r.sub == 0) (.hfma2 (extFma r))
  | 0x4 => opt ((r.len == 1 || r.len == 2) && r.sub == 0) (.hmin2 (extFp3 r))
  | 0x5 => opt ((r.len == 1 || r.len == 2) && r.sub == 0) (.hmax2 (extFp3 r))
  | 0x6 => opt ((r.len == 1 || r.len == 2) && decide (r.sub.toNat < 8)) (.hcmp2 (extFcmp r))
  | _ => none

/-- Family 0x5: the instruction that a low opcode nibble, a length and a sub-operation name (R85, R86). -/
def cand5 (r : Raw) : Nat → Option Instr
  | 0x0 => opt (r.len == 1) (.cvt (extCvt r))
  | 0x1 => opt (r.len == 1) (.cvts (extCvts r))
  | 0x2 => opt (r.len == 1 && r.sub == 0) (.frint (extF1 r))
  | 0x3 => opt (r.len == 1 && r.sub == 0) (.pack (extFp3 r))
  | 0x4 => opt (r.len == 1 && r.sub == 0) (.unpk (extF1 r))
  | 0x5 =>
    if r.len == 1 && r.sub == 0 then some (.rnd (extRnd r)) else
    opt (r.len == 1 && r.sub == 1) (.rndLo (extRnd r))
  | 0x6 => opt (r.len == 1 && r.sub == 0) (.fexp2 (extF1 r))
  | 0x7 => opt (r.len == 1 && r.sub == 0) (.flog2 (extF1 r))
  | 0x8 => opt (r.len == 1 && r.sub == 0) (.frcp (extF1 r))
  | 0x9 => opt (r.len == 1 && r.sub == 0) (.frsq (extF1 r))
  | 0xA => opt (r.len == 1 && r.sub == 0) (.fsqrt (extF1 r))
  | 0xB => opt (r.len == 1 && r.sub == 0) (.fsin (extF1 r))
  | 0xC => opt (r.len == 1 && r.sub == 0) (.fcos (extF1 r))
  | 0xD => opt (r.len == 1 && r.sub == 0) (.ftanh (extF1 r))
  | _ => none

/-- Family 0x6: the instruction that a low opcode nibble, a length and a sub-operation name (R85, R86). -/
def cand6 (r : Raw) : Nat → Option Instr
  | 0x0 => opt ((r.len == 1 || r.len == 2) && ordIn r [0] [0, 1]) (.ld (extLd r))
  | 0x1 => opt ((r.len == 1 || r.len == 2) && ordIn r [0] [0, 2]) (.st (extSt r))
  | 0x2 => opt (r.len == 1 && ordIn r [0] [0]) (.ldc (extLdc r))
  | 0x3 => opt ((r.len == 1 || r.len == 2) && ordIn r [0] [0]) (.pref (extPref r))
  | 0x4 => opt (r.len == 1 && ordIn r [0] [1, 2, 3]) (.fence (extFence r))
  | 0x5 =>
    if r.len == 1 && ordIn r [0] [0] then some (.cctlL1inv (extCctl r)) else
    if r.len == 1 && ordIn r [1] [0] then some (.cctlIinv (extIinv r)) else
    opt (r.len == 1 && ordIn r [2] [0]) (.cctlIinvall (extCctl r))
  | _ => none

/-- Family 0x7: the instruction that a low opcode nibble, a length and a sub-operation name (R85, R86). -/
def cand7 (r : Raw) : Nat → Option Instr
  | 0x0 => opt ((r.len == 1 || r.len == 2) && ordIn r atomOps [0, 1, 2, 3]) (.atom (extAtom r))
  | 0x1 => opt (r.len == 1 && ordIn r [0] [0, 1, 2, 3]) (.cas (extCas r))
  | 0x2 => opt ((r.len == 1 || r.len == 2) && ordIn r redOps [0, 2]) (.red (extRed r))
  | 0x3 => opt (r.len == 2 && ordIn r redOps [0, 2]) (.redt (extRedt r))
  | 0x4 => opt (r.len == 1 && r.sub == 0) (.rclose (extRclose r))
  | _ => none

/-- Family 0x8: the instruction that a low opcode nibble, a length and a sub-operation name (R85, R86). -/
def cand8 (r : Raw) : Nat → Option Instr
  | 0x0 =>
    if (r.len == 1 || r.len == 2) && r.sub.extractLsb' 0 3 == 0 && r.sub.extractLsb' 4 2 != 3 && r.sub.getLsbD 3 == false then some (.cpyIn (extCpy r)) else
    opt ((r.len == 1 || r.len == 2) && r.sub.extractLsb' 0 3 == 0 && r.sub.extractLsb' 4 2 != 3 && r.sub.getLsbD 3 == true) (.cpyOut (extCpy r))
  | 0x1 => opt (r.len == 1 && r.sub == 0) (.tbari (extTbar r))
  | 0x2 =>
    if r.len == 1 && r.sub == 0 then some (.tbara (extA r)) else
    opt (r.len == 1 && r.sub == 1) (.tbaraN (extTbar r))
  | 0x3 => opt (r.len == 1 && r.sub == 0) (.tbarvd (extA r))
  | 0x4 => opt (r.len == 1 && r.sub == 0) (.tbarw (extTbarw r))
  | 0x5 =>
    if r.len == 1 && r.sub == 0 then some (.bar (extBar r)) else
    opt (r.len == 1 && r.sub == 1) (.barArv (extBar r))
  | 0x6 => opt (r.len == 1 && r.sub == 0) (.ringp (extRing r))
  | 0x7 =>
    if r.len == 1 && r.sub == 0 then some (.ringwEmpty (extRing r)) else
    opt (r.len == 1 && r.sub == 1) (.ringwFull (extRing r))
  | _ => none

/-- Family 0x9: the instruction that a low opcode nibble, a length and a sub-operation name (R85, R86). -/
def cand9 (r : Raw) : Nat → Option Instr
  | 0x0 => opt (r.len == 1 && r.sub == 0) (.join (extMask r))
  | 0x1 => opt (r.len == 1 && r.sub == 0) (.leave (extMask r))
  | 0x2 =>
    if r.len == 1 && r.sub == 0 then some (.wait (extMask r)) else
    opt (r.len == 1 && r.sub == 1) (.waitPut (extWaitPut r))
  | 0x3 =>
    if r.len == 1 && r.sub == 0 then some (.mset (extMset r)) else
    opt (r.len == 1 && r.sub == 1) (.msetRd (extMsetRd r))
  | 0x4 => opt (r.len == 1 && decide (r.sub.toNat < 4)) (.xshf (extXshf r))
  | 0x5 => opt (r.len == 1 && decide (r.sub.toNat < 3)) (.xvote (extXvote r))
  | 0x6 => opt (r.len == 1 && r.sub == 0) (.xbal (extXbal r))
  | 0x7 => opt (r.len == 1 && decide (r.sub.toNat < 6)) (.xred (extXred r))
  | _ => none

/-- Family 0xA: the instruction that a low opcode nibble, a length and a sub-operation name (R85, R86). -/
def candA (r : Raw) : Nat → Option Instr
  | 0x0 => opt ((r.len == 1 || r.len == 2)) (.wld (extWld r))
  | 0x1 => opt ((r.len == 1 || r.len == 2)) (.wlds (extWld r))
  | 0x2 => opt (r.len == 3) (.mloop (extMloop r))
  | 0x3 => opt (r.len == 2 && r.sub == 0) (.mzero (extMzero r))
  | 0x4 => opt (r.len == 1 && r.sub == 0) (.mstat (extD r))
  | 0x5 => opt (r.len == 1 && r.sub == 0) (.msclr (extA r))
  | 0x6 => opt (r.len == 1 && r.sub == 0) (.msync (extBare r))
  | 0x7 => opt ((r.len == 1 || r.len == 2) && r.sub == 0) (.dcfg (extDcfg r))
  | _ => none

/-- Family 0xB: the instruction that a low opcode nibble, a length and a sub-operation name (R85, R86). -/
def candB (r : Raw) : Nat → Option Instr
  | 0x0 => opt (r.len == 2 && decide ((r.fn.extractLsb' 12 4).toNat < 1)) (.vadd (extVec r))
  | 0x1 => opt (r.len == 2 && decide ((r.fn.extractLsb' 12 4).toNat < 1)) (.vsub (extVec r))
  | 0x2 => opt (r.len == 2 && decide ((r.fn.extractLsb' 12 4).toNat < 1)) (.vmul (extVec r))
  | 0x3 => opt (r.len == 2 && decide ((r.fn.extractLsb' 12 4).toNat < 1)) (.vfma (extVec r))
  | 0x4 => opt (r.len == 2 && decide ((r.fn.extractLsb' 12 4).toNat < 1)) (.vmin (extVec r))
  | 0x5 => opt (r.len == 2 && decide ((r.fn.extractLsb' 12 4).toNat < 1)) (.vmax (extVec r))
  | 0x6 => opt (r.len == 2 && decide ((r.fn.extractLsb' 12 4).toNat < 1)) (.vexp2 (extVec r))
  | 0x7 => opt (r.len == 2 && decide ((r.fn.extractLsb' 12 4).toNat < 2)) (.vrmax (extVec r))
  | 0x8 => opt (r.len == 2 && decide ((r.fn.extractLsb' 12 4).toNat < 2)) (.vrsum (extVec r))
  | 0x9 => opt (r.len == 2 && decide ((r.fn.extractLsb' 12 4).toNat < 3)) (.vscl (extVec r))
  | 0xA => opt (r.len == 2 && decide ((r.fn.extractLsb' 12 4).toNat < 1)) (.vcvt (extVcvt r))
  | 0xB => opt (r.len == 2 && decide ((r.fn.extractLsb' 12 4).toNat < 8)) (.vcmp (extVec r))
  | 0xC => opt (r.len == 2 && decide ((r.fn.extractLsb' 12 4).toNat < 2)) (.vmov (extVec r))
  | 0xD => opt (r.len == 2 && decide ((r.fn.extractLsb' 12 4).toNat < 1)) (.vst (extVst r))
  | _ => none

/-- Family 0xC: the instruction that a low opcode nibble, a length and a sub-operation name (R85, R86). -/
def candC (r : Raw) : Nat → Option Instr
  | 0x0 =>
    if r.len == 3 && r.sub == 0 && r.imm.getLsbD 7 == false then some (.ldlStart (extLdlStart r)) else
    opt (r.len == 3 && r.sub == 0 && r.imm.getLsbD 7 == true) (.ldlStartAt (extLdlStartAt r))
  | 0x1 => opt (r.len == 1 && r.sub == 0) (.ldlStop (extA r))
  | 0x2 =>
    if r.len == 1 && r.sub == 0 then some (.ldlStat (extDA r)) else
    opt (r.len == 1 && r.sub == 1) (.ldlStatFree (extDA r))
  | 0x3 =>
    if (r.len == 1 || r.len == 2) && r.sub == 0 then some (.ldlBaseBind (extLdlBase r)) else
    opt (r.len == 1 && r.sub == 1) (.ldlBaseFree (extLdlFree r))
  | 0x4 => opt ((r.len == 1 || r.len == 2) && r.sub == 0) (.await (extAwait r))
  | 0x5 => opt ((r.len == 1 || r.len == 2) && r.sub == 0) (.arels (extArels r))
  | _ => none

/-- Family 0xD: the instruction that a low opcode nibble, a length and a sub-operation name (R85, R86). -/
def candD (r : Raw) : Nat → Option Instr
  | 0x0 => opt ((r.len == 1 || r.len == 2) && ordIn r [0] [0, 1]) (.rld (extRld r))
  | 0x1 => opt ((r.len == 1 || r.len == 2) && ordIn r [0] [0, 2]) (.rst (extRst r))
  | 0x2 =>
    if (r.len == 1 || r.len == 2) && ordIn r atomOps [0, 1, 2, 3] then some (.ratom (extRatom r)) else
    opt (r.len == 1 && ordIn r [10] [0, 1, 2, 3]) (.ratomCas (extRatomCas r))
  | 0x3 => opt ((r.len == 1 || r.len == 2) && ordIn r redOps [0, 2]) (.rred (extRred r))
  | 0x4 =>
    if r.len == 1 && r.sub == 0 then some (.flowselOrd (extFlow r)) else
    opt (r.len == 1 && r.sub == 1) (.flowselUnord (extFlow r))
  | 0x5 => opt (r.len == 3 && r.sub == 0) (.coll (extColl r))
  | 0x6 => opt ((r.len == 1 || r.len == 2) && r.sub == 0) (.token (extTok r))
  | 0x7 => opt ((r.len == 1 || r.len == 2) && r.sub == 0) (.twait (extTok r))
  | 0x8 => opt (r.len == 1 && r.sub == 0) (.mfence (extMfence r))
  | _ => none

/-- Family 0xE: the instruction that a low opcode nibble, a length and a sub-operation name (R85, R86). -/
def candE (r : Raw) : Nat → Option Instr
  | 0x0 => opt (r.len == 1) (.trap (extTrap r))
  | 0x1 =>
    if r.len == 1 && r.sub == 0 then some (.hret (extSub r)) else
    opt (r.len == 1 && r.sub == 1) (.hretSkip (extSub r))
  | 0x2 => opt (r.len == 1) (.preck (extBare r))
  | 0x3 => opt (r.len == 1) (.srd (extSrd r))
  | 0x4 => opt (r.len == 1) (.swr (extSwr r))
  | 0x5 => opt (r.len == 1) (.bkpt (extTrap r))
  | 0x6 => opt (r.len == 1) (.perfr (extPerfr r))
  | 0x7 => opt (r.len == 1) (.cycr (extD r))
  | 0x8 =>
    if r.len == 1 && r.sub == 0 then some (.fltr (extSub r)) else
    opt (r.len == 1 && r.sub == 1) (.fltrPg (extFltrPg r))
  | 0x9 => opt (r.len == 1) (.escl (extBare r))
  | _ => none

/-- The candidate instruction of a word: none where no opcode, length or sub-operation names one (R85 to R87). -/
def candidate (r : Raw) : Option Instr :=
  match (r.op.extractLsb' 4 4).toNat with
  | 0x0 => cand0 r (r.op.extractLsb' 0 4).toNat
  | 0x1 => cand1 r (r.op.extractLsb' 0 4).toNat
  | 0x2 => cand2 r (r.op.extractLsb' 0 4).toNat
  | 0x3 => cand3 r (r.op.extractLsb' 0 4).toNat
  | 0x4 => cand4 r (r.op.extractLsb' 0 4).toNat
  | 0x5 => cand5 r (r.op.extractLsb' 0 4).toNat
  | 0x6 => cand6 r (r.op.extractLsb' 0 4).toNat
  | 0x7 => cand7 r (r.op.extractLsb' 0 4).toNat
  | 0x8 => cand8 r (r.op.extractLsb' 0 4).toNat
  | 0x9 => cand9 r (r.op.extractLsb' 0 4).toNat
  | 0xA => candA r (r.op.extractLsb' 0 4).toNat
  | 0xB => candB r (r.op.extractLsb' 0 4).toNat
  | 0xC => candC r (r.op.extractLsb' 0 4).toNat
  | 0xD => candD r (r.op.extractLsb' 0 4).toNat
  | 0xE => candE r (r.op.extractLsb' 0 4).toNat
  | _ => none

/-- The thread instruction of a word's fields (R87, R88 steps 1, 3 and 4). -/
def decodeRaw (r : Raw) : Except DErr Instr :=
  if r.g == 8 then .error .illegalField
  else
    match candidate r with
    | none => .error .illegalOp
    | some i => if i.wf && encRaw i == some r then .ok i else .error .illegalField

/-- The thread instruction at the head of a list of words. A word whose length code is 0b00, or that is cut short, is no
instruction: R72 makes it a clause-level fault before any check of an instruction, and the decoder answers ILLEGAL_OP. -/
def decode (ws : List Word) : Except DErr Instr :=
  match Raw.ofWords ws with
  | none => .error .illegalOp
  | some r => decodeRaw r

/-- The words of a thread instruction (R74, R75). -/
def encode (i : Instr) : List Word :=
  match encRaw i with
  | some r => r.words
  | none => []

/-- The instruction that the decoder reads from bits numbered as spec/opcode_table.json numbers them: the words of R74,
the first lowest. Bits at and above `nbits` are 0. -/
def decodeTableWord (nbits w : Nat) : Option Instr :=
  let v := w % 2 ^ nbits
  match decode [BitVec.ofNat 32 v, BitVec.ofNat 32 (v / 2 ^ 32), BitVec.ofNat 32 (v / 2 ^ 64), BitVec.ofNat 32 (v / 2 ^ 96)] with
  | .ok i => some i
  | .error _ => none

/-- The class of an instruction word, by its major opcode (R86): whether the instruction ends its clause. -/
def classE (op : Byte) : Bool :=
  [0x01, 0x02, 0x03, 0x04, 0x05, 0x06, 0x07, 0x08, 0x64, 0x74, 0x84, 0x85, 0x87, 0x92, 0xA6, 0xC4, 0xD0, 0xD7, 0xD8,
    0xE0, 0xE1, 0xE5, 0xE9].contains op.toNat

/-! ## Ladle commands (R311 to R325) -/

/-- Why a Ladle command word or a Lantern record is not executed: an undefined OP, or a field out of range. -/
inductive CErr
  | badOp
  | badField
  deriving DecidableEq, Repr

/-- A 16-byte command word: its low and high halves. -/
abbrev LWord := Dword × Dword

/-- The number of words of the command that starts with a low half: SRC has its dimension words and its scale word
(R312, R313). -/
def ladleLen (lo : Dword) : Nat :=
  if lo.extractLsb' 0 8 == 1 then 1 + (lo.extractLsb' 8 3).toNat + (if lo.getLsbD 16 then 1 else 0) else 1

/-- The low half of SRC (R312). -/
def srcLo (x : LSrc) : Dword :=
  (0 : BitVec 47) ++ (bit x.scaled ++ (code4 x.fmt.code ++ (bit x.raw ++ (BitVec.ofNat 3 x.dims.length ++ (1 : BitVec 8)))))

/-- A dimension word: size and stride (R313). -/
def dimWord (d : Word × Dword) : LWord := ((0 : Word) ++ d.1, d.2)

/-- The low half of a flow command with COND, a 16-bit field and VALUE (BR, WAITM; R312). -/
def flowLo (op : BitVec 8) (c : Cond) (h : Half) (v : Word) : Dword :=
  v ++ (h ++ ((0 : BitVec 5) ++ (code3 c.code ++ op)))

/-- The words of a Ladle command. -/
def encodeLadle : Instr → List LWord
  | .ladleSrc x =>
    (srcLo x, x.base) :: (x.dims.map dimWord ++ if x.scaled then [((0 : Dword), x.sbase)] else [])
  | .ladleDst x =>
    [(x.land ++ (x.rmask ++ ((0 : BitVec 2) ++ (bit x.split ++ (bit x.abuf ++ (x.ch ++ (2 : BitVec 8)))))),
      (0 : BitVec 24) ++ (x.pitch ++ (x.slotsz ++ ((0 : BitVec 4) ++ x.logn))))]
  | .ladleWalk x =>
    [((x.amt.extractLsb' 0 16 : Half) ++ ((0 : BitVec 1) ++ (x.adim ++ (x.tr1 ++ (x.tc1 ++ ((0 : BitVec 8) ++ (3 : BitVec 8)))))),
      (0 : Word) ++ (x.count1 ++ (x.amt.extractLsb' 16 16 : Half)))]
  | .ladleGather x =>
    [(x.ntile1 ++ (x.tr1 ++ (x.tc1 ++ ((0 : BitVec 6) ++ (bit x.signed ++ (bit x.w64 ++ (4 : BitVec 8)))))), x.list)]
  | .ladleQuant x =>
    [(x.salt ++ ((0 : BitVec 14) ++ (bit x.off ++ (bit x.sat ++ (code3 x.rm.code ++ (bit x.scaled ++ (code4 x.tfmt.code ++
      (5 : BitVec 8))))))), x.key)]
  | .ladleLoop n => [(n ++ ((0 : BitVec 24) ++ (6 : BitVec 8)), 0)]
  | .endl => [(7, 0)]
  | .ladleBr x => [(flowLo 8 x.cond x.off x.value, x.addr)]
  | .waitm x => [(flowLo 9 x.cond x.deadline x.value, x.addr)]
  | .ladleSignalStore32 x => [(x.value ++ ((0 : BitVec 22) ++ ((0 : BitVec 2) ++ (10 : BitVec 8))), x.addr)]
  | .ladleSignalAdd32 x => [(x.value ++ ((0 : BitVec 22) ++ ((1 : BitVec 2) ++ (10 : BitVec 8))), x.addr)]
  | .ladleSignalToken x => [(x.value ++ ((0 : BitVec 22) ++ ((2 : BitVec 2) ++ (10 : BitVec 8))), x.addr)]
  | .ladleCall a => [(11, a)]
  | .ladleRet => [(12, 0)]
  | .ladleFence => [(13, 0)]
  | .halt => [(14, 0)]
  | _ => []

def extLSrc (lo hi : Dword) (ws : List LWord) : LSrc :=
  let n := (lo.extractLsb' 8 3).toNat
  { raw := lo.getLsbD 11, fmt := Fmt.ofCode (lo.extractLsb' 12 4).toNat, scaled := lo.getLsbD 16, base := hi,
    dims := (ws.take n).map fun w => (w.1.extractLsb' 0 32, w.2),
    sbase := if lo.getLsbD 16 then ((ws.drop n).headD (0, 0)).2 else 0 }

def extLSignal (lo hi : Dword) : LSignal := { value := lo.extractLsb' 32 32, addr := hi }

/-- The command that an OP names, with its fields read; `ws` are the words after the first. -/
def ladleCandidate (lo hi : Dword) (ws : List LWord) : Option Instr :=
  match (lo.extractLsb' 0 8).toNat with
  | 1 => some (.ladleSrc (extLSrc lo hi ws))
  | 2 => some (.ladleDst
      { ch := lo.extractLsb' 8 4, abuf := lo.getLsbD 12, split := lo.getLsbD 13, rmask := lo.extractLsb' 16 16,
        land := lo.extractLsb' 32 32, logn := hi.extractLsb' 0 4, slotsz := hi.extractLsb' 8 16,
        pitch := hi.extractLsb' 24 16 })
  | 3 => some (.ladleWalk
      { tc1 := lo.extractLsb' 16 16, tr1 := lo.extractLsb' 32 12, adim := lo.extractLsb' 44 3,
        amt := (hi.extractLsb' 0 16 : Half) ++ (lo.extractLsb' 48 16 : Half), count1 := hi.extractLsb' 16 16 })
  | 4 => some (.ladleGather
      { w64 := lo.getLsbD 8, signed := lo.getLsbD 9, tc1 := lo.extractLsb' 16 16, tr1 := lo.extractLsb' 32 12,
        ntile1 := lo.extractLsb' 44 20, list := hi })
  | 5 => some (.ladleQuant
      { tfmt := Fmt.ofCode (lo.extractLsb' 8 4).toNat, scaled := lo.getLsbD 12, rm := Rm.ofCode (lo.extractLsb' 13 3).toNat,
        sat := lo.getLsbD 16, off := lo.getLsbD 17, salt := lo.extractLsb' 32 32, key := hi })
  | 6 => some (.ladleLoop (lo.extractLsb' 32 32))
  | 7 => some .endl
  | 8 => some (.ladleBr
      { cond := Cond.ofCode (lo.extractLsb' 8 3).toNat, off := lo.extractLsb' 16 16, value := lo.extractLsb' 32 32, addr := hi })
  | 9 => some (.waitm
      { cond := Cond.ofCode (lo.extractLsb' 8 3).toNat, deadline := lo.extractLsb' 16 16, value := lo.extractLsb' 32 32,
        addr := hi })
  | 10 =>
    if lo.extractLsb' 8 2 == 0 then some (.ladleSignalStore32 (extLSignal lo hi))
    else if lo.extractLsb' 8 2 == 1 then some (.ladleSignalAdd32 (extLSignal lo hi))
    else some (.ladleSignalToken (extLSignal lo hi))
  | 11 => some (.ladleCall hi)
  | 12 => some .ladleRet
  | 13 => some .ladleFence
  | 14 => some .halt
  | _ => none

/-- The Ladle command at the head of a list of command words (R311): BAD_OP for an undefined OP, BAD_FIELD for a
nonzero reserved field or a value outside its range. -/
def decodeLadle : List LWord → Except CErr Instr
  | [] => .error .badOp
  | (lo, hi) :: ws =>
    match ladleCandidate lo hi ws with
    | none => .error .badOp
    | some i =>
      if i.wf && encodeLadle i == (lo, hi) :: ws.take (ladleLen lo - 1) then .ok i else .error .badField

/-! ## Lantern records (R278, R280) -/

/-- A command record: W0 to W3. -/
structure LRec where
  w0 : Dword
  w1 : Dword
  w2 : Dword
  w3 : Dword
  deriving DecidableEq, Repr

/-- W0 from OP, FLAGS and IMM (R278). -/
def w0Of (op flags : Byte) (imm : Word) : Dword := imm ++ ((0 : Half) ++ (flags ++ op))

def rec4 (op flags : Byte) (imm : Word) (w1 w2 w3 : Dword) : LRec := { w0 := w0Of op flags imm, w1, w2, w3 }

/-- The partition word of LAUNCH and LAUNCHI (R280). -/
def partWord (first count1 : BitVec 11) : Dword := (0 : BitVec 42) ++ (count1 ++ first)

def ctxWord (c : BitVec 6) : Dword := (0 : BitVec 58) ++ c

/-- FLAGS of IFMEM and WAITMEM (R284). -/
def condFlags (m : MemCond) : Byte := (0 : BitVec 4) ++ (bit m.w32 ++ code3 m.cond.code)

def signalRec (kind : BitVec 2) (x : SignalArgs) : LRec :=
  rec4 10 ((0 : BitVec 5) ++ (bit x.after ++ kind)) 0 x.addr x.value 0

/-- The record of a Lantern command. -/
def encodeLantern : Instr → Option LRec
  | .launch x => some (rec4 1 0 0 x.desc (x.gz ++ (x.gy ++ x.gx)) (partWord x.first x.count1))
  | .launchi x => some (rec4 2 0 0 x.desc x.grid (partWord x.first x.count1))
  | .lanternLoop n => some (rec4 3 0 n 0 0 0)
  | .endloop => some (rec4 4 0 0 0 0 0)
  | .ifmem x => some (rec4 5 (condFlags x.m) x.skip x.m.addr x.m.value x.m.mask)
  | .calll a => some (rec4 6 0 0 a 0 0)
  | .retl => some (rec4 7 0 0 0 0 0)
  | .waitmem x => some (rec4 8 (condFlags x.m) x.deadline x.m.addr x.m.value x.m.mask)
  | .waitlch n => some (rec4 9 0 n 0 0 0)
  | .signalStore64 x => some (signalRec 0 x)
  | .signalAdd64 x => some (signalRec 1 x)
  | .signalStore32 x => some (signalRec 2 x)
  | .signalAdd32 x => some (signalRec 3 x)
  | .gswap x => some (rec4 11 0 ((0 : Half) ++ x.gen) x.deadline 0 0)
  | .snapCreate x => some (rec4 12 0 ((0 : BitVec 26) ++ x.view) x.base x.len (ctxWord x.ctx))
  | .snapRelease x => some (rec4 12 1 ((0 : BitVec 26) ++ x.view) x.base x.len (ctxWord x.ctx))
  | .preempt x => some (rec4 13 0 0 (ctxWord x.ctx) x.save 0)
  | .resume x => some (rec4 14 0 0 (ctxWord x.ctx) x.save 0)
  | _ => none

def extMemCond (r : LRec) : MemCond :=
  { cond := Cond.ofCode (r.w0.extractLsb' 8 3).toNat, w32 := r.w0.getLsbD 11, addr := r.w1, value := r.w2, mask := r.w3 }

def extSignal (r : LRec) : SignalArgs := { after := r.w0.getLsbD 10, addr := r.w1, value := r.w2 }

def extSnap (r : LRec) : SnapArgs :=
  { view := r.w0.extractLsb' 32 6, base := r.w1, len := r.w2, ctx := r.w3.extractLsb' 0 6 }

def extPreempt (r : LRec) : PreemptArgs := { ctx := r.w1.extractLsb' 0 6, save := r.w2 }

/-- The command that OP (and the kind bits of FLAGS) name, with its fields read. -/
def lanternCandidate (r : LRec) : Option Instr :=
  match (r.w0.extractLsb' 0 8).toNat with
  | 1 => some (.launch
      { desc := r.w1, gx := r.w2.extractLsb' 0 32, gy := r.w2.extractLsb' 32 16, gz := r.w2.extractLsb' 48 16,
        first := r.w3.extractLsb' 0 11, count1 := r.w3.extractLsb' 11 11 })
  | 2 => some (.launchi
      { desc := r.w1, grid := r.w2, first := r.w3.extractLsb' 0 11, count1 := r.w3.extractLsb' 11 11 })
  | 3 => some (.lanternLoop (r.w0.extractLsb' 32 32))
  | 4 => some .endloop
  | 5 => some (.ifmem { m := extMemCond r, skip := r.w0.extractLsb' 32 32 })
  | 6 => some (.calll r.w1)
  | 7 => some .retl
  | 8 => some (.waitmem { m := extMemCond r, deadline := r.w0.extractLsb' 32 32 })
  | 9 => some (.waitlch (r.w0.extractLsb' 32 32))
  | 10 =>
    match (r.w0.extractLsb' 8 2).toNat with
    | 0 => some (.signalStore64 (extSignal r))
    | 1 => some (.signalAdd64 (extSignal r))
    | 2 => some (.signalStore32 (extSignal r))
    | _ => some (.signalAdd32 (extSignal r))
  | 11 => some (.gswap { gen := r.w0.extractLsb' 32 16, deadline := r.w1 })
  | 12 => if r.w0.getLsbD 8 then some (.snapRelease (extSnap r)) else some (.snapCreate (extSnap r))
  | 13 => some (.preempt (extPreempt r))
  | 14 => some (.resume (extPreempt r))
  | _ => none

/-- The command of a record (R278 to R280): BAD_OP for an undefined OP, BAD_FIELD for a nonzero reserved or unused field
or a value outside its range. -/
def decodeLantern (r : LRec) : Except CErr Instr :=
  match lanternCandidate r with
  | none => .error .badOp
  | some i => if i.wf && encodeLantern i == some r then .ok i else .error .badField

end Sys2Proof
end

