-- ==== Sys2Proof/Machine/State.lean ====
section
/-! DEFINITION. The machine's state as plain data, its reset value, and the reasons a step can stop. -/

namespace Sys2Proof.Machine

/-- Why a step stops with a fault. Every fault of the manual is a next state of this model (a handler's entry, an
escalation, a queue fault, a stream error), so no instruction answers one of these. -/
inductive Fault
  /-- Raised by no instruction: the manual stops nothing. Safe. -/
  | none
  deriving DecidableEq, Repr

/-- Why a step is refused. -/
inductive Refusal
  /-- No meaning is written yet for the instruction. Safe. -/
  | notModelled (mnemonic : String)
  /-- `exec` is given a thread instruction, a Ladle command or a Lantern record while no thread in a gang, no running
  stream or no enabled queue is in turn. `step` never does this. Safe. -/
  | noAgent
  deriving DecidableEq, Repr

/-! ## Memories -/

/-- Bytes with poison marks: cells in strictly rising address order, none equal to 0, and the marked 64-bit words by
number, strictly rising (R187, R219). -/
structure Store where
  cells : List Host.Cell
  poison : List Nat
  deriving DecidableEq, Repr

def Store.empty : Store := { cells := [], poison := [] }

/-- A block's identity: the launch it belongs to and its linear index. -/
structure Bid where
  launch : Nat
  idx : Nat
  deriving DecidableEq, Repr

/-- Where an access goes once it is translated: device memory, host memory, or a buffer of the issuing block. -/
inductive Tgt
  | dev (pa : Nat)
  | host (pa : Nat)
  | buf (sp : Space) (addr : Nat)
  deriving DecidableEq, Repr

/-- What FADDR and FINFO report of an access (R102): space, scope, address, log2 of the size, KIND. -/
structure Acc where
  space : Space
  scope : Scope
  ea : Dword
  size : Nat
  kind : Nat
  deriving DecidableEq, Repr

/-- Where a fault stands: the instruction's address, the governing header, its position and length code, and whether it is
a clause-level fault (R101, R102). -/
structure Site where
  pc : Dword
  hdr : Dword
  index : Nat
  len : BitVec 2
  clause : Bool
  deriving DecidableEq, Repr

/-! ## Threads -/

/-- Where a thread stands at a block barrier (R406): before its earlier accesses are performed, already in the arrival
set through an earlier BAR.arv, or arrived. -/
inductive BarStage
  | before | again | arrived
  deriving DecidableEq, Repr

/-- What a blocked thread waits for (R289, class E). `mask` has arrived at a crew mask; `maskPre` waits for its earlier
accesses before it arrives with its deposit (R177). -/
inductive Wait
  | mask (m : Nat)
  | maskPre (m : Nat) (val : Word) (p : Bool)
  | bar (k : Nat) (stage : BarStage) (arvOnly : Bool)
  | ring (q slot : Nat) (full : Bool)
  | tbar (addr ph pd : Nat)
  | await (ch : Nat) (target : Word) (pd : Nat)
  | token (t : Nat)
  | mfence (pd : Nat)
  | fence (ord : Ord4) (scope : Scope)
  | msync
  | rclose (lo hi : Word)
  deriving DecidableEq, Repr

/-- Why a thread is parked (R289): a remote load's tag, a replayable miss, a page to be diverted, egress held at its
rate limit, or a fault whose vector lies in a line that an engine owns (R237, R381). -/
inductive Park
  | rld (tag : Nat)
  | xlate (va : Dword) (kind : Nat)
  | divert (va : Dword)
  | rate
  | vector (code : Nat) (faddr : Dword) (finfo : Word) (at_ : Site)
  deriving DecidableEq, Repr

/-- The issue states of R289; a thread that is `ready` here is Held while `State.ready` does not hold of it, and Halted is the separate
field `halted`. -/
inductive Status
  | ready
  | running (slot : Nat)
  | blocked (w : Wait)
  | parked (p : Park)
  | paused (till : Nat) (yielded : Bool)
  | escalated
  | exited
  deriving DecidableEq, Repr

/-- An action that is a release, held back until every earlier access of its thread is performed (R404, R406, R407,
R239); `tbarv`, the arrival of a TBARVD, waits for the thread's earlier copies too. -/
inductive RelAct
  | tbar (addr n : Nat)
  | tbarv (addr : Nat)
  | ringp (q v : Nat)
  | barArv (k : Nat)
  | token (t : Nat)
  | arels (ch n : Nat)
  deriving DecidableEq, Repr

/-- What a class L operation in flight does when it is performed (R79, R401). `done` of a two-wide atomic is the half that has been
performed, 0 or 1, with its old value (R214), `half` is that of a two-wide tagged reduce-store; `parts` lists the
8-byte parts of a copy that have been moved (R218, R228); `place` is where an ordered remote access to the device's own rank
will be performed (R227). -/
inductive OpKind
  | load (t : Tgt) (ty : IType) (d : Nat) (acq : Bool)
  | store (t : Tgt) (n : Nat) (v : Dword) (rel : Bool)
  | atom (t : Tgt) (o : AtomOp) (v : Dword) (d : Option Nat) (ord : Ord4) (done : Option (Nat × Nat))
  | cas (t : Tgt) (ty : IType) (b c : Dword) (d : Nat) (ord : Ord4)
  | redt (t : Tgt) (o : AtomOp) (v : Dword) (tag : Word) (rel : Bool) (half : Option Nat)
  | copy (src dst : Tgt) (n : Nat) (scope : Scope) (parts : List Nat) (bad : Bool)
  | log
  | engine (quid : Nat)
  | streamEnd (handle : Word) (d : Option Nat)
  | land (d : Nat) (ty : IType) (v : Nat)
  | remote (tag : Nat) (d : Option (Nat × IType)) (ord : Ord4) (place : Option (Tgt × Nat))
  | coll (slot : Nat) (opId : Nat) (d : Option Nat)
  | collWait (d : Nat) (a : Dword) (toks : List Half) (missed : Option Dword)
  | act (a : RelAct)
  deriving DecidableEq, Repr

/-- A class L operation in flight. `clause` names the clause run that issued it, `gang` the gang, `index` its position there, and
`sc` is the scope at which it is performed (R191, R206, R226). -/
structure Op where
  uid : Nat
  clause : Nat
  gang : Nat
  index : Nat
  sc : Scope
  flag : Option Nat
  kind : OpKind
  acc : Acc
  deriving DecidableEq, Repr

/-- A fault met after issue and not yet delivered (R222, R350). -/
structure LateFault where
  uid : Nat
  code : Nat
  acc : Acc
  deriving DecidableEq, Repr

/-- A checkpoint record that a PRECK has still to write (R298): the handler mode of the clause in which it was executed, the COUNT that the
record takes, whether that clause has ended, and the translated pages, each with the record offset at which it begins. -/
structure Ck where
  hm : Bool
  count : Nat
  due : Bool
  pages : List (Nat × Tgt)
  deriving DecidableEq, Repr

/-- A thread (R97, R98, R100, R289). `wsite` is the class E instruction at which it last blocked, `crun` the
clause run that it has begun and not ended (R79), `gap` a nonzero gap before
its next header (R73), `yieldTill` the end of a yield that it began while blocked (R295), `preck` a
checkpoint record that it has still to write, `fair` the FAIR value of the fairness interval in progress (R114), `acqf` the
flags whose clearing carries an acquire for the next clause that waits on them (R239). -/
structure Thread where
  ctx : Nat
  bid : Bid
  crew : Nat
  tid : Nat
  width : Nat
  role : Role
  nregs : Nat
  g : FMap Word
  p : Byte
  f : FMap Nat
  pc : Dword
  res : Option (Dword × Nat)
  csp : Dword
  cslo : Dword
  cshi : Dword
  prvBase : Dword
  prvSize : Nat
  blkx : Word
  blky : Word
  blkz : Word
  nofair : Bool
  hm : Bool
  fcause : Word
  finfo : Word
  fpc : Dword
  fhdr : Dword
  faddr : Dword
  hs0 : Dword
  hs1 : Dword
  status : Status
  halted : Bool
  w : Nat
  fair : Nat
  unord : Bool
  acqf : BitVec 12
  ops : List Op
  late : List LateFault
  wsite : Site
  crun : Option Nat
  gap : Bool
  yieldTill : Nat
  preck : List Ck
  ckCount : Dword
  logLen : Nat
  deriving DecidableEq, Repr

/-! ## Crews and blocks -/

/-- A deposit: value and predicate (R169). -/
structure Deposit where
  v : Word
  p : Bool
  deriving DecidableEq, Repr

/-- A crew's rendezvous mask (R169). -/
structure Mask where
  mem : Dword
  arr : Dword
  cap : Dword
  dep : FMap Deposit
  cdep : FMap Deposit
  deriving DecidableEq, Repr

def Mask.empty : Mask := { mem := 0, arr := 0, cap := 0, dep := [], cdep := [] }

/-- A block barrier (R406): its phase and the threads (linear index) in its arrival set. -/
structure Barrier where
  phase : Bool
  arr : List Nat
  deriving DecidableEq, Repr

/-- Copies bound to a transaction barrier by one TBARVD (R404): each copy with its destination sector. -/
structure Bind where
  bar : Nat
  copies : List (Nat × Tgt)
  deriving DecidableEq, Repr

/-- The buffers of one core's part of a block (R187, R192). -/
structure Bufs where
  wbuf : Store
  abuf : Store
  cbuf : Store
  deriving DecidableEq, Repr

def Bufs.empty : Bufs := { wbuf := Store.empty, abuf := Store.empty, cbuf := Store.empty }

/-- A launch descriptor (R281). -/
structure Desc where
  entry : Dword
  cbase : Dword
  prvbase : Dword
  csize : Nat
  barriers : Nat
  nofair : Bool
  twin : Bool
  crews : Nat
  width : Nat
  regs : Nat
  loc : Nat
  wbuf : Nat
  abuf : Nat
  cbuf : Nat
  prv : Nat
  stack : Nat
  rings : List Nat
  roles : List Role
  deriving DecidableEq, Repr

/-- A block resident on a core, or on a twin whose even core is `core`. `threads` lists core and slot by linear thread
index. -/
structure Block where
  bid : Bid
  ctx : Nat
  core : Nat
  desc : Desc
  threads : List (Nat × Nat)
  masks : FMap (FMap Mask)
  loc : Store
  bufs : FMap Bufs
  bars : FMap Barrier
  rings : FMap (List Bool)
  binds : List Bind
  streams : List (Nat × Nat × Nat)
  deriving DecidableEq, Repr

/-! ## Cores -/

/-- A gang that holds an issue slot (R24, R288). `start` is the position at which it began: 0, or that of a resume point (R303); `id` names
the gang, `run` is its 32-bit clause-start value; `words` are the clause's 32-bit words from its header as they were present when it
started, and `lines` the instruction-buffer lines that hold them (R198); `todo` lists the members that have still to issue the instruction
at `index`. `roomM` and `roomV` are the entries of the engine queues still reserved for it (R245), `gap` is a nonzero gap after its clause
(R73). -/
structure Gang where
  start : Nat
  id : Nat
  run : Nat
  hdrAddr : Dword
  words : List Word
  lines : List Nat
  index : Nat
  addr : Dword
  members : List Nat
  todo : List Nat
  roomM : Nat
  roomV : Nat
  gap : Bool
  deriving DecidableEq, Repr

/-- The weight latch and its descriptor (R243): `fmt` none is NONE. -/
structure Latch where
  fmt : Option Fmt
  scaled : Bool
  sparse : Bool
  addr : Nat
  bytes : List Byte
  poison : List Nat
  deriving DecidableEq, Repr

def Latch.none : Latch :=
  { fmt := .none, scaled := false, sparse := false, addr := 0, bytes := [], poison := [] }

/-- A matrix-queue operation (R244, R252 to R259). -/
inductive MKind
  | wld (fmt : Fmt) (scaled sparse : Bool) (addr : Nat)
  | mloop (fmt : Fmt) (cb scaled sparse init : Bool) (c a sa sc rows steps da dw dc : Nat)
  | mzero (addr len : Nat)
  | dcfg (v : Word)
  deriving DecidableEq, Repr

/-- An operation in an engine queue: its number, its issuer, its block and how far it has run. -/
structure MOp where
  uid : Nat
  slot : Nat
  bid : Bid
  half : Nat
  kind : MKind
  done : Nat
  deriving DecidableEq, Repr

/-- The tile vector operations (R266 to R269). -/
inductive VFun
  | add | sub | mul | fma | min | max | exp2 | rmax (acc : Bool) | rsum (acc : Bool)
  | scl (o : Nat) | cmp (c : FCond) | mov (bc : Bool) | cvt (scaled : Bool) | st (stride : Nat) (pages : List (Nat × Tgt))
  deriving DecidableEq, Repr

/-- A tile vector operation; `parts` are the 8-byte parts of a VST's next row that are written already (R228), and `row` holds that row, its
bytes and their poisoned offsets, which was read before the first of them (R266). -/
structure VOp where
  uid : Nat
  slot : Nat
  bid : Bid
  half : Nat
  fn : VFun
  fmt : Fmt
  rm : Rm
  sat : Bool
  sd : Space
  sa : Space
  sb : Space
  sc : Space
  d : Nat
  a : Nat
  b : Nat
  c : Nat
  rows : Nat
  done : Nat
  parts : List Nat
  row : Option (List Byte × List Nat)
  deriving DecidableEq, Repr

/-- An arrival channel (R308). -/
structure Chan where
  block : Option Bid
  base : Word
  wp : Word
  slots : Word
  rel : Word
  err : Bool
  owner : Option (Nat × Nat)
  deriving DecidableEq, Repr

def Chan.reset : Chan :=
  { block := none, base := 0, wp := 0, slots := 0, rel := 0, err := false, owner := none }

/-- A cached line: its bytes and the poisoned words among them. -/
structure Line where
  bytes : List Byte
  poison : List Nat
  deriving DecidableEq, Repr

/-- An instruction-buffer line, and the numbers of its poisoned 64-bit words (R198, R219). -/
structure IbLine where
  bytes : List Byte
  poison : List Nat
  stale : Bool
  deriving DecidableEq, Repr

/-- A sector of an L2 slice (R199). `State.mem` is device memory as L2 gives it; the sector says which of its bytes are present:
all when it was filled from HBM, else those of the mask of written bytes, whose nonzero value makes it dirty. `hbm` and `bad` are the bytes
that HBM holds under it and the poisoned words among them, until an eviction writes the masked bytes. -/
structure Sector where
  filled : Bool
  mask : Dword
  hbm : List Byte
  bad : List Nat
  deriving DecidableEq, Repr

/-- A core (R16, R243, R288). `mevents` are the MSTAT events of the core cycle in progress (R263), `woken` the slots that a mask or a
block barrier released in it, which become ready in the next (R178, R406). -/
structure Core where
  ctx : Option Nat
  powered : Bool
  en : Bool
  halt : Bool
  eccUe : Nat
  eccCe : Nat
  gangs : FMap Gang
  grant : List Nat
  woken : List Nat
  clauseCtr : Nat
  stay : FMap (Dword × Nat)
  lastUnfair : FMap Bool
  threads : FMap Thread
  cycle : Nat
  perf : FMap Nat
  latch : Latch
  dcv : Word
  mstat : Dword
  mevents : Dword
  mq : List MOp
  vq : List VOp
  chans : FMap Chan
  l1 : FMap Line
  ibuf : FMap IbLine
  deriving DecidableEq, Repr

def Core.reset : Core :=
  { ctx := none, powered := true, en := true, halt := false, eccUe := 0, eccCe := 0, gangs := [], grant := [],
    woken := [], clauseCtr := 0, stay := [], lastUnfair := [], threads := [], cycle := 0, perf := [], latch := Latch.none,
    dcv := 0, mstat := 0, mevents := 0, mq := [], vq := [], chans := [], l1 := [], ibuf := [] }

/-! ## Contexts, launches, Lanterns -/

/-- CTX_FAULT and CTX_FADDR (R114), and the core cycle in which the recorded thread escalated (R105). -/
structure CtxFault where
  valid : Bool
  more : Bool
  nested : Bool
  code : Nat
  slot : Nat
  core : Nat
  addr : Dword
  cycle : Nat
  deriving DecidableEq, Repr

def CtxFault.empty : CtxFault :=
  { valid := false, more := false, nested := false, code := 0, slot := 0, core := 0, addr := 0, cycle := 0 }

/-- A token's count and abort bit (R408). -/
structure Tok where
  count : Nat
  abort : Bool
  deriving DecidableEq, Repr

/-- What takes a token, in order of arrival (R359): a thread, a Carillon slot, or a saved thread, by its linear index in its block,
which takes none until it is restored. -/
inductive TokWaiter
  | thread (core slot : Nat)
  | coll (slot : Nat)
  | saved (b : Bid) (j : Nat)
  deriving DecidableEq, Repr

/-- The state of a pre-emption (R296, R297, R300). -/
inductive PreState
  | none
  | halting (queue : Nat) (save : Nat)
  | saved (save : Nat)
  | discarded
  deriving DecidableEq, Repr

/-- A context (R114, R282, R359). `failed` lists the collectives that ended at this member without completing, by group and number
(R360, R363). -/
structure Ctx where
  fair : Byte
  policy : Bool
  det : Bool
  valid : Bool
  killing : Bool
  tvb : Dword
  ptb : Dword
  fault : CtxFault
  toks : FMap Tok
  tokq : List (Nat × TokWaiter)
  opnum : FMap Nat
  failed : List (Nat × Nat)
  launches : Nat
  pre : PreState
  sentBytes : Nat
  deriving DecidableEq, Repr

def Ctx.reset : Ctx :=
  { fair := 16, policy := false, det := false, valid := false, killing := false, tvb := 0, ptb := 0,
    fault := CtxFault.empty, toks := [], tokq := [], opnum := [], failed := [], launches := 0, pre := .none, sentBytes := 0 }

/-- What a save keeps of a core (R297). -/
structure SavedCore where
  latch : Latch
  dcv : Word
  mstat : Dword
  mq : List MOp
  vq : List VOp
  chans : FMap Chan
  deriving DecidableEq, Repr

/-- A saved block: the block, its threads with their places, what is kept of its cores, and its streams (R297). -/
structure Saved where
  block : Block
  threads : List (Nat × Nat × Thread)
  cores : FMap SavedCore
  deriving DecidableEq, Repr

/-- A launch: in the launch queue while blocks remain to be dispatched, and in flight until it completes (R282, R286, R31, R411). `again`
lists blocks that RESUME puts ahead, with what was saved of them; `applied` counts the log records of block `ticket` that the release
sequencer has applied, `half` is the half of the next, a two-wide one, that it has applied (R214), and `waited` says that it has begun to
wait at the next. -/
structure Launch where
  uid : Nat
  ctx : Nat
  queue : Nat
  prio : Nat
  number : Nat
  desc : Desc
  gx : Nat
  gy : Nat
  gz : Nat
  first : Nat
  count : Nat
  cursor : Nat
  next : Nat
  retired : List Nat
  ticket : Nat
  applied : Nat
  half : Option Nat
  waited : Bool
  logs : List (Nat × List (Dword × Nat))
  again : List (Nat × Option Saved)
  killed : Bool
  complete : Bool
  deriving DecidableEq, Repr

/-- Where a Lantern stands: at a ring offset, or at an address of a list (R284). -/
inductive LPos
  | ring (off : Nat)
  | list (va : Nat)
  deriving DecidableEq, Repr

inductive LLevel
  | loop (body : LPos) (left : Nat)
  | call (ret : LPos)
  deriving DecidableEq, Repr

/-- What the record in progress of a queue waits for: its condition (a WAITMEM, with its deadline), room for a checked launch, a membership
fence, the pre-emption of a context that it asked for, or a condition that is tested at each turn; or it is a launch whose context is killed,
and faults. -/
inductive QWait
  | none
  | mem (deadline : Nat)
  | room (l : Launch)
  | fence (gen : Half)
  | preempt (ctx : Nat)
  | begun
  | lost
  deriving DecidableEq, Repr

/-- A command queue's execution state; its page lies in device memory (R276, R277). `missed` is the context and address whose translation it
awaits, `desc` the descriptor that the launch in execution has read (R283). -/
structure LQ where
  en : Bool
  cfg : Dword
  pos : LPos
  stack : List LLevel
  waiting : QWait
  missed : Option (Nat × Dword)
  desc : Option (List Byte)
  snapWait : Option Nat
  deriving DecidableEq, Repr

def LQ.reset : LQ :=
  { en := false, cfg := 8, pos := .ring 0, stack := [], waiting := .none, missed := none, desc := none, snapWait := none }

/-! ## Ladle streams -/

inductive StreamSt
  | free | run | wait | done | stopped | error
  deriving DecidableEq, Repr

/-- A source element as stored, whether it is poisoned, and its random word. -/
structure SElem where
  code : Nat
  bad : Bool
  w : Nat
  deriving DecidableEq, Repr

/-- A source row: elements, and the scale of each block of 32 with its poison, for a scaled source. -/
structure SRow where
  es : List SElem
  scales : List (Nat × Bool)
  deriving DecidableEq, Repr

/-- The WALK or GATHER in emission (R317, R318, R321): the command, the tile and row reached, whether the tile has begun, the
receiver that is written next, the row's bytes and the offsets of poisoned ones, the scale area of a SPLIT tile gathered so far,
the 256-byte chunks of the index list that have been read, the source rows that the conversion staging holds, each with whether its index
lay out of range (R319), and the 8-byte parts of the row in hand that the receiver in turn has already (R228). -/
structure Emit where
  gather : Option LGather
  walk : LWalk
  tile : Nat
  row : Nat
  begun : Bool
  recv : Nat
  bytes : List Byte
  bad : List Nat
  sbytes : List Byte
  sbad : List Nat
  chunks : FMap Line
  staged : List (SRow × Bool)
  parts : List Nat
  deriving DecidableEq, Repr

/-- A stream slot (R307). `waitm` is a WAITM that waits, `stalled` an address whose translation the stream awaits (R327), `ahead` the lines
read ahead (R324), `brs` the direction that each BR took last, `handle` the handle of its LDL.START, and `copy` marks the copies of R336 but
the first. `lost` says that a receiver's block had retired before the stream was restored (R335, R336). `core` and `slot` are the issuer's,
and `after` is the number of its LDL.START. -/
structure Stream where
  handle : Word
  copy : Bool
  lost : Bool
  st : StreamSt
  err : Nat
  satInf : Bool
  poison : Bool
  oor : Nat
  lpc : Dword
  loops : List (Dword × Nat)
  calls : List (Dword × Nat)
  src : Option LSrc
  dst : Option LDst
  quant : Option LQuant
  cursor : List Nat
  seq : Nat
  core : Nat
  slot : Nat
  bid : Bid
  after : Nat
  ctx : Nat
  emit : Option Emit
  waitm : Option (LWaitm)
  stalled : Option Dword
  ahead : FMap Line
  brs : FMap Bool
  halted : Bool
  deriving DecidableEq, Repr

def Stream.free : Stream :=
  { handle := 0, copy := false, lost := false, st := .free, err := 0, satInf := false, poison := false, oor := 0, lpc := 0, loops := [], calls := [],
    src := none, dst := none, quant := none, cursor := [0, 0, 0, 0, 0], seq := 0, core := 0, slot := 0,
    bid := { launch := 0, idx := 0 }, after := 0, ctx := 0, emit := none, waitm := none, stalled := none, ahead := [], brs := [], halted := false }

/-- A receiver of a saved stream: its block, the half of the block, and the channel (R336). -/
structure Recv where
  bid : Bid
  half : Nat
  ch : Nat
  deriving DecidableEq, Repr

/-- A saved stream: the stream with its issuer's linear index, its receivers by position, and once it is decided the Ladle in which it
waits for a slot (R336). -/
structure SavedStream where
  y : Stream
  issuer : Nat
  recvs : List Recv
  ladle : Option Nat
  deriving DecidableEq, Repr

/-- What a save area holds (R297): its context, the blocks, and the streams. -/
structure SaveArea where
  ctx : Nat
  blocks : List Saved
  streams : List SavedStream
  deriving DecidableEq, Repr

/-! ## Device registers -/

/-- The device registers (R109 to R116). `boots` counts resets, `links` says that stage 0x3 has trained the ports, `tripped` that only a
warm reset restores the core domains, `dead` that the package is unpowered. -/
structure Dev where
  stage : Nat
  bootErr : Half
  bootAddr : Dword
  offer : BitVec 128
  accept : BitVec 128
  featLock : Bool
  clkLock : Bool
  coreMax : Nat
  coreNow : Nat
  pwrLimit : Half
  pwrOver : Bool
  pwrStops : Nat
  pwrAvg : Half
  throttle : Bool
  errStat : Dword
  errMask : Dword
  errLogA : Dword
  errLogS : Dword
  ceHbm : Nat
  ceSram : Nat
  boots : Nat
  links : Bool
  tripped : Bool
  dead : Bool
  deriving DecidableEq, Repr

def Dev.reset : Dev :=
  { stage := 0, bootErr := 0, bootAddr := 0, offer := 0, accept := 0, featLock := false, clkLock := false,
    coreMax := 24, coreNow := 24, pwrLimit := Config.pwrClamp, pwrOver := false, pwrStops := 0, pwrAvg := 0,
    throttle := false, errStat := 0, errMask := 0, errLogA := 0, errLogS := 0, ceHbm := 0, ceSram := 0, boots := 0,
    links := false, tripped := false, dead := false }

/-! ## Tables -/

structure View where
  base : Dword
  len : Dword
  ctx : Nat
  valid : Bool
  diverted : Nat
  deriving DecidableEq, Repr

def View.reset : View := { base := 0, len := 0, ctx := 0, valid := false, diverted := 0 }

/-- A reduce receipt (R389): pour tag and launch number. -/
structure Receipt where
  tag : Word
  launch : Nat
  deriving DecidableEq, Repr

structure Egress where
  pkey : Half
  valid : Bool
  rate : Half
  burst : Half
  dmask : BitVec 128
  deriving DecidableEq, Repr

def Egress.reset : Egress := { pkey := 0, valid := false, rate := 0, burst := 0, dmask := 0 }

structure Ingress where
  pkey : Half
  ctx : Nat
  valid : Bool
  exb : Dword
  deriving DecidableEq, Repr

def Ingress.reset : Ingress := { pkey := 0, ctx := 0, valid := false, exb := 0 }

/-- A cached translation: its core, context, page, and the addresses of the leaf entry and of the upper entries that it derives from
(R374, R380). -/
structure TlbEntry where
  core : Nat
  ctx : Nat
  page : Nat
  big : Bool
  entry : Nat
  upper : List Nat
  deriving DecidableEq, Repr

/-- A page to which an access waits for a diversion (R382): its context and number, the kind of the first access that waits and the Lantern
that serves it (R379), and whether the walker has asked for pool frames (R383). -/
structure Divert where
  ctx : Nat
  page : Nat
  kind : Nat
  lantern : Nat
  asked : Bool
  deriving DecidableEq, Repr

/-- The device's tables (R374). `diverts` lists the pages to be diverted, `redtWait` the tagged reduce-stores, by operation, that wait for
a receipt. -/
structure Tables where
  views : FMap View
  rankAct : FMap Half
  rankPend : FMap Half
  gen : Half
  genPend : Half
  held : List (FMap Half × Option Half)
  routeAct : FMap Byte
  routePend : FMap Byte
  portDown : BitVec 36
  egress : FMap Egress
  ingress : FMap Ingress
  receipts : FMap (List Receipt)
  measure : FMap (List Byte)
  identity : Bool
  fmKey : Option (List Byte)
  gateSeq : Option Nat
  gateDrops : Nat
  fabid : Half
  belfry : Option BelfryCfg
  diverts : List Divert
  redtWait : List Nat
  deriving DecidableEq, Repr

def Tables.reset : Tables :=
  { views := [], rankAct := [], rankPend := [], gen := 0, genPend := 0, held := [], routeAct := [], routePend := [],
    portDown := 0, egress := [], ingress := [], receipts := [], measure := [], identity := false, fmKey := none,
    gateSeq := none, gateDrops := 0, fabid := 0xFFFF, belfry := none, diverts := [], redtWait := [] }

/-! ## The fabric -/

/-- A port (R337, R341, R342). `replays` counts the consecutive replays of the packet `replayOf` as a sender, `rxReplays` and
`rxReplayOf` as a receiver; `rxFlits` are the flits received on channels 0 to 2 in the lending interval in progress. -/
structure Port where
  trained : Bool
  fast : Bool
  txSeq : BitVec 12
  rxSeq : BitVec 12
  unacked : List Packet
  limits : List Nat
  target : List Nat
  inUse : List Nat
  txEpoch : Half
  rxEpoch : Half
  annc : List Nat
  replays : Nat
  replayOf : Option (BitVec 12)
  rxReplays : Nat
  rxReplayOf : Option (BitVec 12)
  rxFlits : List Nat
  lost : Bool
  deriving DecidableEq, Repr

def Port.reset : Port :=
  { trained := false, fast := false, txSeq := 0, rxSeq := 0, unacked := [], limits := [166, 165, 165],
    target := [166, 165, 165], inUse := [0, 0, 0, 0], txEpoch := 0, rxEpoch := 0, annc := [166, 165, 165], replays := 0,
    replayOf := none, rxReplays := 0, rxReplayOf := none, rxFlits := [0, 0, 0], lost := false }

/-- A control flit (R341, R342). -/
inductive Ctl
  | ack (lseq : BitVec 12)
  | replay (lseq : BitVec 12)
  | lend (epoch : Half) (limits : List Nat)
  deriving DecidableEq, Repr

/-- A request or notice that has arrived and waits to be performed: whether its replay request has been sent (R379), and the
half of a two-wide atomic that has been performed, with its old value (R214). -/
structure Arrived where
  pkt : Packet
  missed : Bool
  half : Option (Nat × Nat)
  deriving DecidableEq, Repr

/-- A remote request kept until its response arrives (R345). -/
structure Pending where
  tag : Nat
  pkt : Packet
  core : Nat
  slot : Nat
  acc : Acc
  deriving DecidableEq, Repr

/-- An answered request of a flow (R345): source, context, class, sequence and the response given. -/
structure Answered where
  src : Half
  sctx : BitVec 6
  fcls : BitVec 2
  seq : BitVec 24
  resp : Packet
  deriving DecidableEq, Repr

/-- A collective descriptor (R353). -/
structure CDesc where
  src : Dword
  dst : Dword
  outtok : Nat
  etype : Nat
  rop : Nat
  window : Nat
  chunk : Nat
  groupid : Nat
  axes : List Nat
  group : Dword
  shape : List Nat
  sshard : List Nat
  spart : Nat
  dshard : List Nat
  dpart : Nat
  rperm : Dword
  deriving DecidableEq, Repr

/-- The exchange along one mesh axis (R355). -/
inductive Exch
  | allReduce | reduceScatter (d : Nat) | allGather (d : Nat) | allToAll (d e : Nat) | slice (d : Nat) | keep | permute
  deriving DecidableEq, Repr

/-- A phase: the axis and its exchange. -/
structure Phase where
  axis : Nat
  ex : Exch
  deriving DecidableEq, Repr

/-- Bytes of a shard, each with its poison. -/
abbrev Shard := List (Byte × Bool)

/-- A chunk that waits to be sent, or that a member has sent and keeps until it is acknowledged (R357). -/
structure SentChunk where
  dev : Half
  id : Nat
  bytes : Shard
  acked : Bool
  deriving DecidableEq, Repr

/-- A piece of a chunk received: the sending device, the chunk's index, the piece's offset and bytes. -/
structure GotChunk where
  dev : Half
  id : Nat
  off : Nat
  bytes : Shard
  deriving DecidableEq, Repr

/-- A Carillon operation (R352 to R360). `opId` is the number of the COLL that issued it, `data` what the
member holds at the beginning of the phase reached, `unsent` the chunks that the window still holds back. -/
structure Coll where
  opId : Nat
  ctx : Nat
  core : Nat
  slot : Nat
  bid : Bid
  gen : Half
  opnum : Nat
  desc : CDesc
  srcLen : Nat
  dstLen : Nat
  devs : List Half
  perm : List Nat
  pos : Nat
  toks : List Nat
  phases : List Phase
  phase : Nat
  data : Shard
  parts : List Nat
  unsent : List SentChunk
  sent : List SentChunk
  got : List GotChunk
  fired : Bool
  finished : Bool
  stalled : Option Dword
  deriving DecidableEq, Repr

/-- A membership fence in progress (R363): its generation, the queue that asked, if any, and whether the abort deadline
has passed. -/
structure MFence where
  gen : Half
  queue : Option Nat
  deadline : Bool
  deriving DecidableEq, Repr

/-- A stripe attempt in flight: the stripe, the device asked and the request's tag. -/
structure StripeRun where
  i : Nat
  dev : Half
  tag : Nat
  deriving DecidableEq, Repr

/-- A verified stripe whose landing waits: its number, its bytes and the offsets of poisoned ones, and where its landing has last missed a
translation (R372, R379). -/
structure Landing where
  i : Nat
  bytes : List Byte
  bad : List Nat
  missed : Option Dword
  deriving DecidableEq, Repr

/-- A Recast pull plan in progress (R370, R371). -/
structure Plan where
  pa : Nat
  count : Nat
  ctx : Nat
  running : List StripeRun
  tried : FMap (List Half)
  ready : Bool
  waiting : List Landing
  deriving DecidableEq, Repr

/-- A notice as it is written (R366): kind, port, peer, NSEQ, suspicion value. -/
structure Notice where
  kind : Nat
  port : Nat
  peer : Half
  gen : Half
  nseq : Nat
  susp : Nat
  deriving DecidableEq, Repr

/-- A replay request to a Lantern (R379). -/
structure ReplayReq where
  lantern : Nat
  pool : Bool
  kind : Nat
  ctx : Nat
  va : Dword
  slice : Nat
  deriving DecidableEq, Repr

/-- The fabric's state. `heldBack` are packets that wait at a port, `rated` packets that wait for the rate of their context (R388),
`control` the control flits sent, by port. -/
structure Fabric where
  flowSeq : List ((Half × Nat × Nat) × BitVec 24)
  nextTag : Nat
  pending : List Pending
  answered : List Answered
  expect : List ((Half × BitVec 6) × BitVec 24)
  reorder : List Arrived
  outbox : List Packet
  loopback : List Packet
  ports : FMap Port
  colls : FMap Coll
  nextOp : Nat
  fence : Option MFence
  susp : FMap Nat
  suspected : List Nat
  intervals : FMap Nat
  nseq : Nat
  mbxNext : FMap Nat
  plan : Option Plan
  heldBack : List (Nat × Packet)
  rated : List (Nat × Packet)
  control : List (Nat × Ctl)
  deriving DecidableEq, Repr

def Fabric.reset : Fabric :=
  { flowSeq := [], nextTag := 0, pending := [], answered := [], expect := [], reorder := [], outbox := [],
    loopback := [], ports := [], colls := [], nextOp := 0, fence := none, susp := [], suspected := [], intervals := [],
    nseq := 0, mbxNext := [], plan := none, heldBack := [], rated := [], control := [] }

/-- What the device has sent to outside parties. -/
structure Sent where
  interrupts : List Nat
  notices : List Notice
  replays : List ReplayReq
  reports : List (List Byte)
  deriving DecidableEq, Repr

/-- The agent whose instruction `exec` runs; `held` says that the instruction has to wait and is offered again (R237). -/
inductive Agent
  | none
  | thread (core slot : Nat)
  | stream (clu slot : Nat)
  | queue (q : Nat)
  | held
  deriving DecidableEq, Repr

/-- Whose move is next. `issue c k` issues the next instruction of the gang in slot k of core c in its next member; `part c t u k`
moves 8-byte part k of copy u of a thread ahead of its completion, `vpart c k` part k of the next row of the VST at the head of a core's
queue, and `spart l j k` part k of the row that a stream delivers (R228), `cpart k i` part i of the DST of the collective in slot k
(R228); the evictions drop a cached line, as a cache may at any time (log entry 1); `halves` says which half of a two-wide atomic goes
first from then on (R214), and `hostHalf` performs the other half of the host's (log entry 76). -/
inductive Turn
  | issue (core slot : Nat)
  | stream (clu slot : Nat)
  | queue (q : Nat)
  | event (i : Instr)
  | part (core slot uid k : Nat)
  | vpart (core k : Nat)
  | spart (clu slot k : Nat)
  | evictL1 (core line : Nat)
  | evictIb (core line : Nat)
  | evictL2 (sector : Nat)
  | halves (hi : Bool)
  | hostHalf (i : Nat)
  | cpart (slot k : Nat)
  deriving DecidableEq, Repr

/-- The half that is left of a two-wide atomic of the host (R214): its address, the operation, the operand and the half. -/
structure HostHalf where
  pa : Nat
  op : AtomOp
  v : Nat
  half : Nat
  deriving DecidableEq, Repr

/-- The whole device (INVENTORY.md, State). `recalls` lists the 256-byte lines of device memory under a directory recall: an engine owns
them and an access waits (R237, R416). `staging` lists by Ladle the streams that hold or wait for conversion staging, in the order in which
they asked, with the bytes that each needs (R307, R319). `finals` keeps what retired blocks left in their cores, until a core takes another
block (log entry 82). `hiFirst` is the half of a two-wide atomic that goes first, `hostHalves` what is left of the host's (R214). -/
structure State where
  cores : FMap Core
  blocks : List Block
  launches : List Launch
  ctxs : FMap Ctx
  mem : Store
  hostMem : Store
  l2 : FMap Sector
  tlb : List TlbEntry
  walkers : FMap (List Nat)
  recalls : List Nat
  lqs : FMap LQ
  saves : FMap SaveArea
  discards : FMap (List Saved)
  finals : List Saved
  unplaced : List SavedStream
  streams : FMap Stream
  staging : FMap (List (Nat × Nat))
  dev : Dev
  tables : Tables
  fab : Fabric
  sliceCtr : FMap Nat
  portCtr : FMap Nat
  sent : Sent
  hostHalves : List HostHalf
  hiFirst : Bool
  schedule : List Turn
  cur : Agent
  fresh : Nat
  uid : Nat
  rot : Nat
  deriving DecidableEq, Repr

/-- The machine right after a cold reset (R111): every field at the value the manual states; bring-up stands at stage
0x0 (R117). The values the manual leaves to the model are those of log entries 2, 3, 4 and 5. -/
def State.reset : State :=
  { cores := [], blocks := [], launches := [], ctxs := [], mem := Store.empty, hostMem := Store.empty, l2 := [],
    tlb := [], walkers := [], recalls := [], lqs := [], saves := [], discards := [], finals := [], unplaced := [], streams := [], staging := [],
    dev := Dev.reset, tables := Tables.reset, fab := Fabric.reset, sliceCtr := [], portCtr := [], sent := { interrupts := [], notices := [], replays := [], reports := [] },
    hostHalves := [], hiFirst := false, schedule := [], cur := .none, fresh := 0, uid := 1, rot := 0 }

end Sys2Proof.Machine
end

