-- ==== Sys2Proof/Machine/Access.lean ====
section
/-! DEFINITION. Byte stores, the accessors of the state, a thread's registers, and address translation (R187, R189, R219, R375 to R382). -/

namespace Sys2Proof.Machine

abbrev Out := Host.Outcome State Fault Refusal

/-! ## Byte stores: cells in canonical form, with poison marks by 64-bit word (R187, R219) -/

/-- What a byte that nothing has written reads as (log entry 3). -/
def emptyByte : Byte := 0

def Store.get (m : Store) (a : Nat) : Byte := FMap.getD m.cells a emptyByte

/-- Writes one byte; a byte equal to what an unlisted address reads as is not listed. -/
def Store.set (m : Store) (a : Nat) (b : Byte) : Store :=
  { m with cells := if b = emptyByte then FMap.del m.cells a else FMap.put m.cells a b }

def Store.readBytes (m : Store) (a n : Nat) : List Byte := (List.range n).map fun i => m.get (a + i)

/-- The little-endian value of `n` bytes (R5). -/
def Store.readNat (m : Store) (a n : Nat) : Nat := leNat (m.readBytes a n)

/-- Writes bytes at ascending addresses. -/
def Store.putBytes (m : Store) (a : Nat) : List Byte → Store
  | [] => m
  | b :: bs => Store.putBytes (m.set a b) (a + 1) bs

/-- Whether a byte lies in a marked word. -/
def Store.bad (m : Store) (a : Nat) : Bool := m.poison.contains (a / 8)

/-- The first byte of `n` at `a` that is poisoned. -/
def Store.firstBad (m : Store) (a n : Nat) : Option Nat := ((List.range n).map (a + ·)).find? fun x => m.bad x

def insertAsc (x : Nat) : List Nat → List Nat
  | [] => [x]
  | y :: ys => if x < y then x :: y :: ys else if x = y then y :: ys else y :: insertAsc x ys

/-- Marks a word. -/
def Store.mark (m : Store) (word : Nat) : Store := { m with poison := insertAsc word m.poison }

/-- Clears a word's mark. -/
def Store.unmark (m : Store) (word : Nat) : Store := { m with poison := m.poison.filter (· ≠ word) }

/-- The 64-bit words that lie wholly in [a, a + n). -/
def wholeWords (a n : Nat) : List Nat :=
  ((List.range (n / 8 + 1)).map ((a + 7) / 8 + ·)).filter fun w => 8 * w + 8 ≤ a + n

/-- A write: whole aligned words lose their marks, a narrower write leaves a marked word marked (R205). -/
def Store.write (m : Store) (a : Nat) (bs : List Byte) : Store :=
  (wholeWords a bs.length).foldl Store.unmark (m.putBytes a bs)

/-- A write of bytes of which the 64-bit words numbered in `bad`, from the first byte's word on, are poisoned: marks
move with the data (R219). `bad` lists offsets of poisoned bytes in `bs`. -/
def Store.writeMarked (m : Store) (a : Nat) (bs : List Byte) (bad : List Nat) : Store :=
  bad.foldl (fun m i => m.mark ((a + i) / 8)) (m.write a bs)

/-- Offsets of the poisoned bytes among `n` at `a`. -/
def Store.badOffsets (m : Store) (a n : Nat) : List Nat := (List.range n).filter fun i => m.bad (a + i)

def ascending : List Nat → Bool
  | [] => true
  | [_] => true
  | a :: b :: l => decide (a < b) && ascending (b :: l)

/-- The canonical form: rising addresses, no cell equal to what an unlisted address reads as, rising marks. -/
def Store.wf (m : Store) : Bool :=
  ascending (m.cells.map Prod.fst) && m.cells.all (fun c => c.2 != emptyByte) && ascending m.poison

/-- The canonical form of a memory. -/
def Memory.wf (m : Store) : Bool := m.wf

/-! ## State accessors -/

def State.core (s : State) (c : Nat) : Core := FMap.getD s.cores c Core.reset

def State.setCore (s : State) (c : Nat) (k : Core) : State := { s with cores := FMap.put s.cores c k }

def State.thread? (s : State) (c t : Nat) : Option Thread := FMap.find? (s.core c).threads t

/-- Replaces a thread's record. -/
def State.setThread (s : State) (c t : Nat) (th : Thread) : State :=
  s.setCore c { s.core c with threads := FMap.put (s.core c).threads t th }

/-- Changes a thread's record, if the slot holds a thread. -/
def State.mapThread (s : State) (c t : Nat) (f : Thread → Thread) : State :=
  match s.thread? c t with
  | some th => s.setThread c t (f th)
  | none => s

def State.ctx (s : State) (i : Nat) : Ctx := FMap.getD s.ctxs i Ctx.reset

def State.setCtx (s : State) (i : Nat) (x : Ctx) : State := { s with ctxs := FMap.put s.ctxs i x }

def State.block? (s : State) (b : Bid) : Option Block := s.blocks.find? fun k => k.bid = b

def State.setBlock (s : State) (k : Block) : State :=
  { s with blocks := s.blocks.map fun x => if x.bid = k.bid then k else x }

def State.launch? (s : State) (u : Nat) : Option Launch := s.launches.find? fun l => l.uid = u

def State.setLaunch (s : State) (l : Launch) : State :=
  { s with launches := s.launches.map fun x => if x.uid = l.uid then l else x }

/-- Whether the Lanterns run their firmware: it is verified and measured in stage 0x1, and none runs after a failure (R117, R118). -/
def State.firmware (s : State) : Bool := decide (2 ≤ s.dev.stage) && s.dev.stage != 15

/-- Whether every unit but Lantern 0, which runs its boot ROM, is held in reset (R117). -/
def State.rom (s : State) : Bool := s.dev.stage == 0

def State.lq (s : State) (q : Nat) : LQ := FMap.getD s.lqs q LQ.reset

def State.setLq (s : State) (q : Nat) (x : LQ) : State := { s with lqs := FMap.put s.lqs q x }

def State.stream (s : State) (l k : Nat) : Stream := FMap.getD s.streams (16 * l + k) Stream.free

def State.setStream (s : State) (l k : Nat) (x : Stream) : State :=
  { s with streams := FMap.put s.streams (16 * l + k) x }

/-- A new operation number (log entry 5). -/
def State.nextUid (s : State) : State := { s with uid := s.uid + 1 }

/-- Advances the counter that feeds the free values (log entry 5). -/
def State.nextFresh (s : State) : State := { s with fresh := s.fresh + 1 }

/-! ## Orders, scopes and the L1 (R196, R201, R226) -/

/-- Whether an order has an acquire side. -/
def acquires : Ord4 → Bool
  | .acq | .ar => true
  | .plain | .rel => false

def releases : Ord4 → Bool
  | .rel | .ar => true
  | .plain | .acq => false

/-- Invalidates every line of a core's L1 (R196, R197). -/
def State.l1Invalidate (s : State) (c : Nat) : State := s.setCore c { s.core c with l1 := [] }

/-- Whether an access at a scope bypasses and refreshes the L1: `.clu` or wider, or `.blk` in a twin block (R196, R226). -/
def wideScope (twin : Bool) (sc : Scope) : Bool := decide (3 ≤ sc.code) || (twin && sc.code == 2)

/-- Whether a thread's block is a twin block. -/
def State.inTwin (s : State) (th : Thread) : Bool := ((s.block? th.bid).map fun b => b.desc.twin).getD false

/-! ## Thread registers (R97, R123) -/

/-- A general register; a register that nothing has written reads 0 (log entry 2). -/
def Thread.reg (th : Thread) (r : Nat) : Word := FMap.getD th.g r 0

def Thread.setReg (th : Thread) (r : Nat) (v : Word) : Thread := { th with g := FMap.put th.g r v }

/-- A pair, the low 32 bits in the even register (R37). -/
def Thread.pair (th : Thread) (r : Nat) : Dword := th.reg (r + 1) ++ th.reg r

def Thread.setPair (th : Thread) (r : Nat) (v : Dword) : Thread :=
  (th.setReg r (v.extractLsb' 0 32)).setReg (r + 1) (v.extractLsb' 32 32)

def Thread.pred (th : Thread) (n : Nat) : Bool := th.p.getLsbD n

/-- A predicate register written (R76). -/
def Thread.setPred (th : Thread) (n : Nat) (b : Bool) : Thread :=
  { th with p := if b then th.p ||| (1 <<< n) else th.p &&& ~~~((1 : Byte) <<< n) }

/-- A predicate source, after its negate bit (R76). -/
def Thread.psrc (th : Thread) (p : PSrc) : Bool := th.pred p.n.toNat != p.neg

/-- The guard's condition (R77); 0x8 is illegal and is handled apart. -/
def Thread.guard (th : Thread) (g : BitVec 4) : Bool :=
  if g = 0 then true
  else if g.getLsbD 3 then !th.pred (g.toNat - 8)
  else th.pred g.toNat

/-- The home lane of a thread (R17). -/
def Thread.lane (th : Thread) : Nat := if th.width = 16 then th.tid + 16 * (th.crew % 2) else th.tid % 32

/-- Whether a feature is absent: the accepted set is fixed and does not hold it (R112, R392). -/
def State.lacksFeature (s : State) (n : Nat) : Bool := s.dev.featLock && !s.dev.accept.getLsbD n

def Thread.exitedB (th : Thread) : Bool := th.status == .exited

/-! ## Translation (R189, R375 to R379, R382) -/

/-- A page-table entry that is well formed and not absent, found by a walk. -/
structure Leaf where
  entry : Dword
  big : Bool
  addr : Nat
  deriving DecidableEq, Repr

/-- How a walk ends: at a leaf, at an entry with V = 0 (with its RPL) or malformed, or at a poisoned entry; with the
entry's address. -/
inductive Walk
  | leaf (l : Leaf)
  | absent (rpl : Bool) (addr : Nat)
  | poison (addr : Nat)
  deriving DecidableEq, Repr

def pteV (e : Dword) : Bool := e.getLsbD 0
def pteLeaf (e : Dword) : Bool := e.getLsbD 1
def pteRd (e : Dword) : Bool := e.getLsbD 2
def pteW (e : Dword) : Bool := e.getLsbD 3
def pteX (e : Dword) : Bool := e.getLsbD 4
def pteHost (e : Dword) : Bool := e.getLsbD 5
def pteRpl (e : Dword) : Bool := e.getLsbD 7
def pteSnap (e : Dword) : Bool := e.getLsbD 8
def pteExp (e : Dword) : Bool := e.getLsbD 9
def pteFrame (e : Dword) : Nat := (e.extractLsb' 16 24).toNat
def pteDiv (e : Dword) : Nat := (e.extractLsb' 40 24).toNat

/-- Whether a frame number lies in device memory. -/
def frameOk (f : Nat) : Bool := decide (f * 65536 < Config.hbmBytes)

/-- A malformed entry with V = 1 at a level (R378). -/
def pteBad (level : Nat) (e : Dword) : Bool :=
  e.extractLsb' 10 6 != 0 ||
  (pteLeaf e && level == 1) || (!pteLeaf e && level == 3) ||
  (!pteLeaf e && (!frameOk (pteFrame e) || pteDiv e != 0 || pteHost e)) ||
  (pteLeaf e && !pteHost e && (!frameOk (pteFrame e) || (pteDiv e != 0 && !frameOk (pteDiv e)))) ||
  (pteLeaf e && level == 2 && (pteFrame e % 8192 != 0 || pteSnap e)) ||
  (pteLeaf e && pteHost e && (pteSnap e || pteExp e)) ||
  (pteLeaf e && !pteHost e && !pteSnap e && pteDiv e != 0)

/-- A walk from a table at a level down (R376); `n` levels are left. -/
def walkFrom (m : Store) (va : Nat) : Nat → Nat → Walk
  | 0, _ => .absent false 0
  | n + 1, table =>
    let level := 3 - n
    let idx := va / 2 ^ (16 + 13 * n) % 8192
    let ea := table + 8 * idx
    if (m.firstBad ea 8).isSome then .poison ea
    else
      let e : Dword := BitVec.ofNat 64 (m.readNat ea 8)
      if !pteV e then .absent (pteRpl e) ea
      else if pteBad level e then .absent false ea
      else if pteLeaf e then .leaf { entry := e, big := level == 2, addr := ea }
      else walkFrom m va n (pteFrame e * 65536)

/-- The walk of a virtual address in a context (R375, R376). -/
def State.walk (s : State) (ctx : Nat) (va : Nat) : Walk :=
  let ptb := (s.ctx ctx).ptb
  let root := (ptb.extractLsb' 16 36).toNat * 65536
  if !ptb.getLsbD 0 || Config.hbmBytes ≤ root then .absent false 0 else walkFrom s.mem va 3 root

/-- Whether a leaf admits an access kind: 0 read, 1 write, 2 read-modify-write, 3 fetch (R102, R378). -/
def leafAdmits (e : Dword) (kind : Nat) : Bool :=
  match kind with
  | 0 => pteRd e
  | 1 => pteW e
  | 2 => pteRd e && pteW e
  | _ => pteX e

/-- The place that a leaf gives an address (R376, R377, R382). -/
def leafTgt (l : Leaf) (va : Nat) : Tgt :=
  let off := if l.big then va % 2 ^ 29 else va % 65536
  if pteHost l.entry then .host ((l.entry.extractLsb' 16 48).toNat * 65536 + off)
  else .dev ((if pteDiv l.entry = 0 then pteFrame l.entry else pteDiv l.entry) * 65536 + off)

/-- The outcome of a translation. -/
inductive Xl
  | ok (t : Tgt)
  | noncanon
  | aperture
  | perm
  | absent
  | replay (entry : Nat)
  | poison
  | divert
  deriving DecidableEq, Repr

/-- Whether bits [63:52] are copies of bit 51 (R189). -/
def canonical (va : Dword) : Bool := va.extractLsb' 51 13 == 0 || va.extractLsb' 51 13 == 0x1FFF

/-- Whether a canonical address lies in the pod aperture (R189, R190). -/
def inAperture (va : Dword) : Bool := va.getLsbD 51

/-- Translates a `glb` address for an access kind (R189, R376 to R379, R382). -/
def State.translate (s : State) (ctx : Nat) (va : Dword) (kind : Nat) : Xl :=
  if !canonical va then .noncanon
  else if inAperture va then .aperture
  else
    match s.walk ctx va.toNat with
    | .poison _ => .poison
    | .absent rpl ea => if rpl then .replay ea else .absent
    | .leaf l =>
      if !leafAdmits l.entry kind then .perm
      else if pteSnap l.entry && pteDiv l.entry == 0 && (kind == 1 || kind == 2) then .divert
      else .ok (leafTgt l va.toNat)

end Sys2Proof.Machine
end

