-- ==== Sys2Proof/Machine/Order.lean ====
section
/-! DEFINITION. Operations in flight as accesses of their thread (R223 to R231), home slices and stacks (R200), and the lines and
translations that engine operations hold (R237, R238, R380). -/

namespace Sys2Proof.Machine

/-! ## Places -/

def Tgt.isBuf : Tgt → Bool
  | .buf _ _ => true
  | _ => false

def Tgt.isHost : Tgt → Bool
  | .host _ => true
  | _ => false

/-- The place `k` bytes on. -/
def Tgt.add : Tgt → Nat → Tgt
  | .dev pa, k => .dev (pa + k)
  | .host pa, k => .host (pa + k)
  | .buf sp a, k => .buf sp (a + k)

def tgtAddr : Tgt → Nat
  | .dev pa | .host pa | .buf _ pa => pa

/-- Whether two places share a byte. -/
def overlaps (a b : Tgt × Nat) : Bool :=
  let r (x y : Nat) := decide (x < y + b.2) && decide (y < x + a.2)
  match a.1, b.1 with
  | .dev x, .dev y => r x y
  | .host x, .host y => r x y
  | .buf p x, .buf q y => p == q && r x y
  | _, _ => false

/-- The home slice of a device physical address (R200). -/
def sliceOf (pa : Nat) : Nat :=
  let v : BitVec 40 := BitVec.ofNat 40 pa
  (v.extractLsb' 8 7 ^^^ v.extractLsb' 15 7 ^^^ v.extractLsb' 22 7 ^^^ v.extractLsb' 29 7 ^^^ (v.extractLsb' 36 4).setWidth 7).toNat

/-- The HBM stack of a device physical address (R200). -/
def stackOf (pa : Nat) : Nat := pa / 1024 % 12

/-- The offset of a device physical address in its stack (R200). -/
def stackOffset (pa : Nat) : Nat := pa / 12288 * 1024 + pa % 1024

/-- Whether two ranges of device memory touch a common 256-byte line. -/
def linesMeet (a m pa n : Nat) : Bool := decide (a / 256 ≤ (pa + n - 1) / 256) && decide (pa / 256 ≤ (a + m - 1) / 256)

/-! ## Classes of operations in flight -/

/-- Whether an operation in flight is an access of its thread to memory (R223): an engine operation, one CPY among them, is an
agent of its own. -/
def OpKind.access : OpKind → Bool
  | .load .. | .store .. | .atom .. | .cas .. | .redt .. | .remote .. | .log => true
  | .copy .. | .engine _ | .streamEnd .. | .land .. | .coll .. | .collWait .. | .act _ => false

/-- Whether an access reads a value for its thread. -/
def OpKind.reads : OpKind → Bool
  | .load .. | .cas .. => true
  | .atom _ _ _ d _ _ => d.isSome
  | .remote _ d _ _ => d.isSome
  | _ => false

/-- The register that an operation's result lands in, if it has one (R79). -/
def OpKind.dest : OpKind → Option Nat
  | .load _ _ d _ => some d
  | .atom _ _ _ d _ _ => d
  | .cas _ _ _ _ d _ => some d
  | .land d _ _ => some d
  | .remote _ d _ _ => d.map Prod.fst
  | .streamEnd _ d => d
  | .coll _ _ d => d
  | .collWait d _ _ _ => some d
  | _ => none

/-- The place of an access in flight and its length; an arrival that is held back updates its barrier's record (R227, R404). -/
def OpKind.place : OpKind → Option (Tgt × Nat)
  | .load t ty _ _ => some (t, ty.n / 8)
  | .store t n _ _ => some (t, n)
  | .atom t o _ _ _ _ => some (t, o.n / 8)
  | .cas t ty _ _ _ _ => some (t, ty.n / 8)
  | .redt t o _ _ _ _ => some (t, o.n / 8)
  | .remote _ _ _ p => p
  | .act (.tbar a _) => some (.buf .loc a, 16)
  | _ => none

/-- Whether an access writes, or may write, memory. -/
def OpKind.writes : OpKind → Bool
  | .store .. | .atom .. | .cas .. | .redt .. | .copy .. => true
  | _ => false

def OpKind.isRemote : OpKind → Bool
  | .remote .. => true
  | _ => false

/-- Whether an operation holds an acquire (R231). -/
def OpKind.acquire : OpKind → Bool
  | .load _ _ _ a => a
  | .atom _ _ _ _ o _ | .cas _ _ _ _ _ o | .remote _ _ o _ => acquires o
  | _ => false

/-- Whether an operation is a release (R231). -/
def OpKind.release : OpKind → Bool
  | .store _ _ _ r | .redt _ _ _ _ r _ => r
  | .atom _ _ _ _ o _ | .cas _ _ _ _ _ o => releases o
  | _ => false

/-- Sends an operation in flight to other places. -/
def OpKind.retarget (f : Tgt → Tgt) : OpKind → OpKind
  | .load t ty d a => .load (f t) ty d a
  | .store t n v r => .store (f t) n v r
  | .atom t o v d ord lo => .atom (f t) o v d ord lo
  | .cas t ty b c d ord => .cas (f t) ty b c d ord
  | .redt t o v tag rel h => .redt (f t) o v tag rel h
  | .remote tag d ord p => .remote tag d ord (p.map fun q => (f q.1, q.2))
  | k => k

/-- The operations of a thread that issued before one. -/
def Thread.earlier (th : Thread) (o : Op) : List Op := th.ops.filter fun x => decide (x.uid < o.uid)

/-- Whether an operation may be performed only after an earlier one of its thread: after an acquire, for a release after every access, and after
an access to the same place (R227, R230, R231). -/
def OpKind.follows (k x : OpKind) : Bool :=
  x.acquire || (k.release && x.access) || (match k.place, x.place with | some p, some q => overlaps p q | _, _ => false)

/-- Program order within the thread. -/
def Thread.inOrder (th : Thread) (o : Op) : Bool := (th.earlier o).all fun x => !o.kind.follows x.kind

/-- Every access of the thread in flight is performed: a remote one when its response has arrived (R225, R235; log entry 24). -/
def Thread.accessesDone (th : Thread) : Bool := th.ops.all fun o => !o.kind.access

/-- Whether an operation in flight is a remote access or may write host memory: its acknowledgement has not come (R208). -/
def OpKind.writesOut : OpKind → Bool
  | .remote .. | .store (.host _) .. | .atom (.host _) .. | .cas (.host _) .. | .redt (.host _) .. => true
  | _ => false

/-- Whether a FENCE is complete (R208, R231): one that releases waits for every earlier access, one that only acquires for every
earlier read, any at `.pod` or `.sys` for every earlier remote or host write, and one at `.thr` for nothing. -/
def Thread.fenceDone (th : Thread) (ord : Ord4) (sc : Scope) : Bool :=
  sc == .thr || th.ops.all fun o =>
    !((releases ord && o.kind.access) || o.kind.reads || ((sc == .pod || sc == .sys) && o.kind.writesOut))

/-- An unflagged result of an earlier clause that has not landed (R79). -/
def Thread.landing (th : Thread) : Bool := th.ops.any fun o => o.kind.dest.isSome && o.flag.isNone && th.crun != some o.clause

/-! ## Engine operations that write `glb` (R237, R238) -/

/-- Whether a VST owns a line that `n` bytes of device memory at `pa` touch: one of a row that is still to be written, or, where its core is
halted, of the row that it has begun and still ends (R237, R270, R273). -/
def VOp.meets (v : VOp) (runs : Bool) (pa n : Nat) : Bool :=
  match v.fn with
  | .st stride pages =>
    let w := 64 * (Fmt.n v.fmt / 8)
    (List.range v.rows).any fun r =>
      decide (v.done ≤ r) && (runs || (r == v.done && !v.parts.isEmpty)) &&
      pages.any fun e =>
        match e.2 with
        | .dev q =>
          let a := v.d + r * stride
          (decide (a / 65536 = e.1 / 65536) || decide ((a + w - 1) / 65536 = e.1 / 65536)) &&
            linesMeet (q / 65536 * 65536 + a % 65536) w pa n
        | _ => false
  | _ => false

/-- Whether a context's engines run: it is neither pre-empted nor being killed (R273, R296), nor halted with every other at the trip
temperature (R116). -/
def State.runs (s : State) (ctx : Nat) : Bool := (s.ctx ctx).pre == .none && !(s.ctx ctx).killing && !s.dev.tripped

/-- The engine operations that an access does not wait for, by core, slot and number of the issuer. -/
abbrev Skip := Nat → Nat → Nat → Bool

/-- Whether a stream is in RUN or WAIT. -/
def Stream.live (x : Stream) : Bool := x.st == .run || x.st == .wait

/-- Whether an operation in flight is an engine's, which waits for the earlier accesses of its thread (R238). -/
def OpKind.ofEngine : OpKind → Bool
  | .copy .. | .engine _ | .coll .. => true
  | _ => false

/-- Whether another engine operation than `v` that a thread of a core issued after operation `uid` is not done yet. -/
def State.engineAfter (s : State) (c uid v : Nat) : Bool :=
  ((s.core c).threads.any fun e => e.2.ops.any fun x => x.kind.ofEngine && decide (uid < x.uid) && x.uid != v) ||
  s.streams.any fun e => e.2.live && e.2.core == c && decide (uid < e.2.after)

/-- The engine operations that operation `o` of a thread does not wait for, of those that issued after it: where the engine may be waiting for
the access, it has reached the home slice first (R237, R238; log entry 26). -/
def State.accessSkip (s : State) (c t : Nat) (o : Op) : Skip := fun k x v =>
  decide (o.uid < v) && ((k == c && (x == t || o.kind.writes)) || s.engineAfter c o.uid v)

/-- An engine operation waits for those that issued before it. -/
def engineSkip (uid : Nat) : Skip := fun _ _ v => decide (uid ≤ v)

/-- The write of a copy does not wait for its thread's other copies either (R218). -/
def copySkip (c t uid : Nat) : Skip := fun k x v => (k == c && x == t) || decide (uid ≤ v)

def noSkip : Skip := fun _ _ _ => false

/-- Whether a copy or a VST owns a line of device memory that `n` bytes at `pa` touch: it does so from its issue until it has written its
bytes or is stopped, between rows (R218, R237, R270, R273). -/
def State.engineHeld (s : State) (skip : Skip) (pa n : Nat) : Bool :=
  s.cores.any fun k =>
    (k.2.threads.any fun e => e.2.ops.any fun o =>
      match o.kind with
      | .copy _ (.dev d) m _ _ _ => linesMeet d m pa n && !skip k.1 e.1 o.uid
      | _ => false) ||
    (k.2.vq.any fun v => v.meets ((k.2.ctx.map s.runs).getD true) pa n && !skip k.1 v.slot v.uid)

/-- Whether a range of virtual memory lies in lines that `n` bytes of device memory at `pa` touch, page by page. -/
def State.vaMeets (s : State) (ctx : Nat) (va : Dword) (len pa n : Nat) : Nat → Bool
  | 0 => false
  | fuel + 1 =>
    if len = 0 then false
    else
      let k := min len (65536 - va.toNat % 65536)
      (match s.translate ctx va 1 with
       | .ok (.dev q) => linesMeet q k pa n
       | _ => false) || State.vaMeets s ctx (va + BitVec.ofNat 64 k) (len - k) pa n fuel

/-- Whether a collective that has fired and is still in progress owns a line that `n` bytes at `pa` touch (R237; log entry 47). -/
def State.collHeld (s : State) (skip : Skip) (pa n : Nat) : Bool :=
  s.fab.colls.any fun e =>
    let o := e.2
    o.fired && !o.finished && s.runs o.ctx && !skip o.core o.slot o.opId &&
      s.vaMeets o.ctx o.desc.dst o.dstLen pa n (o.dstLen / 65536 + 2)

/-- Whether an access to `n` bytes of device memory must wait for a recall (R237). -/
def State.lineHeld (s : State) (skip : Skip) (pa n : Nat) : Bool := s.engineHeld skip pa n || s.collHeld skip pa n

/-! ## Page-table lines (R374, R376, R380) -/

/-- The size k of a checkpoint record (R299). -/
def Thread.ckSize (th : Thread) : Nat := (128 + 4 * th.nregs + 255) / 256 * 256

/-- The lowest `prv` address of the checkpoint area (R299). -/
def Thread.ckBase (th : Thread) : Int := (th.cslo.toNat : Int) - 2 * th.ckSize

/-- The slot of a checkpoint record with a COUNT (R298). -/
def Thread.ckSlot (th : Thread) (count : Nat) : Int := th.ckBase + (count % 2 : Nat) * th.ckSize

/-- The entries that a walk reads, upper levels first: it ends at a leaf, at an absent or malformed entry, or at a poisoned one. -/
def walkEntries (m : Store) (va : Nat) : Nat → Nat → List Nat
  | 0, _ => []
  | n + 1, table =>
    let ea := table + 8 * (va / 2 ^ (16 + 13 * n) % 8192)
    let e : Dword := BitVec.ofNat 64 (m.readNat ea 8)
    ea :: (if (m.firstBad ea 8).isNone && pteV e && !pteLeaf e && !pteBad (3 - n) e then walkEntries m va n (pteFrame e * 65536) else [])

/-- The entries that the walk of an address reads in a context: none where the context has no table. -/
def State.walkEntries (s : State) (ctx va : Nat) : List Nat :=
  let ptb := (s.ctx ctx).ptb
  let root := (ptb.extractLsb' 16 36).toNat * 65536
  if !ptb.getLsbD 0 || Config.hbmBytes ≤ root then [] else Machine.walkEntries s.mem va 3 root

/-- Whether the walk of an address must wait, because an engine operation owns the line of an entry that it reads (R237). -/
def State.walkHeld (s : State) (ctx : Nat) (va : Dword) : Bool :=
  canonical va && !inAperture va && (s.walkEntries ctx va.toNat).any fun ea => s.lineHeld noSkip ea 8

/-- The virtual addresses at which the pages of a thread's pending checkpoint records begin. -/
def Thread.ckPages (th : Thread) : List Nat :=
  th.preck.flatMap fun k => k.pages.map fun p => (th.prvBase + BitVec.ofInt 64 (th.ckSlot k.count + p.1)).toNat

/-- A write of a thread does not wait for the thread's own checkpoint record, which stands for operation 0 here. -/
def ownCk (c t : Nat) : Skip := fun k x v => k == c && x == t && v == 0

/-- Whether copies, VSTs or checkpoint records hold a translation derived from a page-table line that `n` bytes at `pa` touch: a write
to it waits for them (R298, R380). -/
def State.xlateHeld (s : State) (skip : Skip) (pa n : Nat) : Bool :=
  s.cores.any fun k =>
    (k.2.threads.any fun e => !skip k.1 e.1 0 && e.2.ckPages.any fun va => (s.walkEntries e.2.ctx va).any fun ea => linesMeet ea 8 pa n) ||
    (k.2.threads.any fun e => e.2.ops.any fun o =>
      match o.kind with
      | .copy .. => !skip k.1 e.1 o.uid && (s.walkEntries e.2.ctx o.acc.ea.toNat).any fun ea => linesMeet ea 8 pa n
      | _ => false) ||
    (k.2.vq.any fun v =>
      match v.fn with
      | .st _ pages =>
        let ctx := (k.2.ctx).getD 0
        !skip k.1 v.slot v.uid && pages.any fun p => (s.walkEntries ctx p.1).any fun ea => linesMeet ea 8 pa n
      | _ => false)

/-- Whether an access to device memory must wait: for a recall, or, if it writes, for translations in use. -/
def State.accessHeld (s : State) (skip xskip : Skip) (write : Bool) (pa n : Nat) : Bool :=
  s.lineHeld skip pa n || (write && s.xlateHeld xskip pa n)

/-- The same for an agent that is no engine operation of a core. -/
def State.agentHeld (s : State) (write : Bool) (pa n : Nat) : Bool := s.accessHeld noSkip noSkip write pa n

/-! ## The release that an engine operation begins with (R238) -/

/-- The accesses of a thread, from the first on, that are behind a write which waits for a translation in use (R380). -/
def State.behindWrites (s : State) (c t : Nat) (th : Thread) : List Op :=
  th.ops.foldl (fun l o =>
    let stuck :=
      match o.kind.place with
      | some (.dev pa, n) => (o.kind.writes || o.kind.isRemote) && s.xlateHeld (ownCk c t) pa n
      | _ => false
    if o.kind.access && (stuck || l.any fun x => o.kind.follows x.kind) then o :: l else l) []

/-- The accesses of a thread before its engine operation `uid` are performed: its issue is a release (R238). A write to a page-table line whose
translations are in use, which R380 performs after the operations that hold them, and what follows it in order, are not waited for (log
entry 26). -/
def State.engineClear (s : State) (c t : Nat) (th : Thread) (uid : Nat) : Bool :=
  let before := th.ops.filter fun o => decide (o.uid < uid) && o.kind.access
  before.isEmpty || (let stuck := s.behindWrites c t th; before.all fun o => stuck.contains o)

/-- The same for the issuer of an operation, unless its slot holds a thread of another block by now. -/
def State.issuerClear (s : State) (c t : Nat) (b : Bid) (uid : Nat) : Bool :=
  match s.thread? c t with
  | some th => th.bid != b || s.engineClear c t th uid
  | none => true

/-! ## Recalls (R237, R416) -/

/-- Counts a slice event (R416). -/
def State.sliceBump (s : State) (sl i by_ : Nat) : State :=
  { s with sliceCtr := FMap.put s.sliceCtr (6 * sl + i) ((FMap.getD s.sliceCtr (6 * sl + i) 0 + by_) % 2 ^ 64) }

/-- The 256-byte lines that `n` bytes of device memory touch. -/
def linesOf (pa n : Nat) : List Nat := (List.range ((pa + n - 1) / 256 - pa / 256 + 1)).map (pa / 256 + ·)

/-- An access that waits for an engine begins a directory recall of each line that the engine owns, unless one is in progress (R237,
R416). -/
def State.noteRecall (s : State) (skip : Skip) (pa n : Nat) : State :=
  (linesOf pa n).foldl (fun s l =>
    if s.recalls.contains l || !s.lineHeld skip (256 * l) 256 then s
    else { s.sliceBump (sliceOf (256 * l)) 2 1 with recalls := l :: s.recalls }) s

/-- Takes over what an access that waits has noted. -/
def State.withRecalls (s s1 : State) : State := { s with sliceCtr := s1.sliceCtr, recalls := s1.recalls }

/-- The same for an access to a place. -/
def State.noteTgt (s : State) (skip : Skip) (t : Tgt) (n : Nat) : State :=
  match t with
  | .dev pa => s.noteRecall skip pa n
  | _ => s

/-- The same for the entries that a walk reads. -/
def State.noteWalk (s : State) (ctx : Nat) (va : Dword) : State :=
  (s.walkEntries ctx va.toNat).foldl (fun s ea => s.noteRecall noSkip ea 8) s

/-- Whether an access of a thread to a place must wait. -/
def State.tgtHeld (s : State) (skip xskip : Skip) (write : Bool) (t : Tgt) (n : Nat) : Bool :=
  match t with
  | .dev pa => s.accessHeld skip xskip write pa n
  | _ => false

/-! ## Replay requests (R379) -/

/-- The Lantern that serves the queue from which a block's launch came (R276, R379). -/
def State.lanternOf (s : State) (b : Bid) : Nat :=
  match s.launch? b.launch with
  | some l => if l.queue < 64 then 0 else 1
  | none => 0

/-- Sends a replay request (R379). -/
def State.requestReplay (s : State) (lantern : Nat) (pool : Bool) (kind ctx : Nat) (va : Dword) (entry : Nat) : State :=
  { s with sent := { s.sent with replays := s.sent.replays ++
      [{ lantern := lantern, pool := pool, kind := kind, ctx := ctx, va := va, slice := sliceOf entry }] } }

/-- An access waits for its page to be diverted (R382). -/
def State.noteDivert (s : State) (lantern kind ctx : Nat) (va : Dword) : State :=
  let page := va.toNat / 65536
  if s.tables.diverts.any fun d => d.ctx == ctx && d.page == page then s
  else
    { s with tables := { s.tables with
        diverts := s.tables.diverts ++ [{ ctx := ctx, page := page, kind := kind, lantern := lantern, asked := false }] } }

end Sys2Proof.Machine
end

