-- ==== Sys2Proof/Machine/Cache.lean ====
section
/-! DEFINITION. The sectors of L2 (R188, R199), and the walks that TLBs and walkers remember (R374, R376, R380). -/

namespace Sys2Proof.Machine

/-! ## L2 (R188, R199) -/

/-- The bits of a sector's mask for `n` bytes at `pa`, cut at the sector's end. -/
def sectorBits (pa n : Nat) : Dword := BitVec.ofNat 64 ((2 ^ min n (64 - pa % 64) - 1) * 2 ^ (pa % 64))

/-- The lines that a set of an L2 slice holds: a slice has 1,024 sets of 256-byte lines (R188, R199). -/
def State.l2Set (s : State) (line : Nat) : List Nat :=
  ((s.l2.map fun e => e.1 / 4).filter fun l =>
    l / 128 % 1024 == line / 128 % 1024 && sliceOf (256 * l) == sliceOf (256 * line)).eraseDups

/-- A sector leaves L2: HBM takes the masked bytes, so a mark on a word that no masked byte lies in is as HBM has it (R199). -/
def State.evictSector (s : State) (n : Nat) : State :=
  match FMap.find? s.l2 n with
  | none => s
  | some x =>
    let clean := (List.range 8).filter fun i => x.mask.extractLsb' (8 * i) 8 == 0
    let m := clean.foldl (fun (m : Store) i => if x.bad.contains i then m.mark (8 * n + i) else m.unmark (8 * n + i)) s.mem
    { s with mem := m, l2 := FMap.del s.l2 n }

/-- A line leaves L2. -/
def State.evictLine (s : State) (line : Nat) : State := (List.range 4).foldl (fun s i => s.evictSector (4 * line + i)) s

/-- Makes room for a line in its set of 16 ways, of which those locked as the staging ring hold none; which line leaves is a free value
(R188, R199; log entry 15). -/
def State.l2Room (s : State) (line : Nat) : State :=
  let set := s.l2Set line
  if set.contains line || set.length < 12 || set.length < 16 - min 4 (Config.stagingWays (sliceOf (256 * line))) then s
  else (s.evictLine (set.getD (Config.freeWay s.fresh % set.length) line)).nextFresh

/-- Allocates the sector of an address, with nothing of it present; `hbm` and `bad` keep what HBM holds under it. -/
def State.l2Alloc (s : State) (pa : Nat) : State :=
  if (FMap.find? s.l2 (pa / 64)).isSome then s
  else
    let s1 := s.l2Room (pa / 256)
    let x : Sector :=
      { filled := false, mask := 0, hbm := s1.mem.readBytes (pa / 64 * 64) 64,
        bad := (List.range 8).filter fun i => s1.mem.poison.contains (pa / 64 * 8 + i) }
    { s1 with l2 := FMap.put s1.l2 (pa / 64) x }

/-- A read of `n` bytes at a slice: one of bytes that the sector holds is a hit, any other fills the sector from HBM (R199, R416). -/
def State.l2ReadSector (s : State) (pa n : Nat) : State :=
  let s1 := s.l2Alloc pa
  match FMap.find? s1.l2 (pa / 64) with
  | some x =>
    if x.filled || sectorBits pa n &&& ~~~x.mask == 0 then s1.sliceBump (sliceOf pa) 0 1
    else { s1.sliceBump (sliceOf pa) 1 1 with l2 := FMap.put s1.l2 (pa / 64) { x with filled := true } }
  | none => s1

/-- A write of `n` bytes at a slice enters its sector's mask and reads nothing from HBM (R199). -/
def State.l2WriteSector (s : State) (pa n : Nat) : State :=
  let s0 := if (FMap.find? s.l2 (pa / 64)).isSome then s.sliceBump (sliceOf pa) 0 1 else s
  let s1 := s0.l2Alloc pa
  match FMap.find? s1.l2 (pa / 64) with
  | some x => { s1 with l2 := FMap.put s1.l2 (pa / 64) { x with mask := x.mask ||| sectorBits pa n } }
  | none => s1

/-- The parts of `n` bytes at `pa` by sector. -/
def bySector (pa n : Nat) : List (Nat × Nat) :=
  if n = 0 then []
  else
    (List.range ((pa + n - 1) / 64 - pa / 64 + 1)).map fun i =>
      let a := max pa ((pa / 64 + i) * 64)
      (a, min (pa + n) ((pa / 64 + i + 1) * 64) - a)

def State.l2Read (s : State) (pa n : Nat) : State := (bySector pa n).foldl (fun s e => s.l2ReadSector e.1 e.2) s

def State.l2Write (s : State) (pa n : Nat) : State := (bySector pa n).foldl (fun s e => s.l2WriteSector e.1 e.2) s

/-- The byte that HBM holds: under a sector of L2 its older byte, until the sector is evicted (R199). -/
def State.hbmByte (s : State) (pa : Nat) : Byte :=
  match FMap.find? s.l2 (pa / 64) with
  | some x => if x.mask.getLsbD (pa % 64) then x.hbm.getD (pa % 64) emptyByte else s.mem.get pa
  | none => s.mem.get pa

/-! ## Cached translations (R374, R380) -/

/-- Enters upper-level entries into the cache of a walker, which holds 256 of them (R374). -/
def walkerFill (w : FMap (List Nat)) (k : Nat) (es : List Nat) : FMap (List Nat) :=
  FMap.put w k ((es.foldl (fun l x => if l.contains x then l else x :: l) (FMap.getD w k [])).take 256)

/-- A walk, however it ends, reads its entries at their home slices, but for the upper entries that its walker remembers: one of the four
walkers at the slice of the entry at which it ends (R374, R376, R199; log entry 72). An address that is not walked reads none (R189). -/
def State.walked (s : State) (ctx : Nat) (va : Dword) : State :=
  if !canonical va || inAperture va then s
  else
    let es := s.walkEntries ctx va.toNat
    match es.getLast? with
    | none => s
    | some last =>
      let w := 4 * sliceOf last + va.toNat / 65536 % 4
      let known := FMap.getD s.walkers w []
      let s1 := (es.dropLast.filter fun e => !known.contains e).foldl (fun s e => s.l2Read e 8) s
      { s1.l2Read last 8 with walkers := walkerFill s.walkers w es.dropLast }

/-- A core's translation: one that its TLB does not hold is walked for and entered; the oldest entry of a full TLB leaves (R374; log entry
15). -/
def State.tlbFill (s : State) (c ctx : Nat) (va : Dword) : State :=
  match s.walk ctx va.toNat with
  | .leaf l =>
    let up := (s.walkEntries ctx va.toNat).dropLast
    let e : TlbEntry :=
      { core := c, ctx := ctx, page := va.toNat / (if l.big then 2 ^ 29 else 65536), big := l.big, entry := l.addr, upper := up }
    if s.tlb.contains e then s
    else
      let own := s.tlb.filter fun x => x.core == c && x.big == l.big
      let full := decide ((if l.big then 64 else 1024) ≤ own.length)
      let kept := if full then s.tlb.erase (own.getD (own.length - 1) e) else s.tlb
      { s.walked ctx va with tlb := e :: kept }
  | _ => s

/-- The translation of a thread's access to `glb` or `prv`. -/
def State.accessWalk (s : State) (c : Nat) (th : Thread) (acc : Acc) : State :=
  match acc.space with
  | .glb => s.tlbFill c th.ctx acc.ea
  | .prv => s.tlbFill c th.ctx (th.prvBase + acc.ea)
  | _ => s

end Sys2Proof.Machine
end

