-- ==== Sys2Proof/Machine/Ops.lean ====
section
/-! DEFINITION. The instruction in progress, error reporting, taking an exception (R104, R105) and where its return goes (R303), and the
frame of a thread instruction's meaning (R88). Meanings are written over these. -/

namespace Sys2Proof.Machine

/-! ## The instruction in progress -/

/-- The gang that a running thread is in. -/
def State.gangOf (s : State) (c : Nat) (th : Thread) : Option Gang :=
  match th.status with
  | .running k => FMap.find? (s.core c).gangs k
  | _ => none

/-- A clause header's fields (R70). -/
def hdrCount (h : Dword) : Nat := (h.extractLsb' 22 5).toNat
def hdrSlotA (h : Dword) : Nat := (h.extractLsb' 14 4).toNat
def hdrSlotB (h : Dword) : Nat := (h.extractLsb' 18 4).toNat
def hdrWait (h : Dword) : BitVec 12 := h.extractLsb' 2 12
def hdrYield (h : Dword) : Bool := h.getLsbD 27
def hdrSolo (h : Dword) : Bool := h.getLsbD 28

/-- The header of a gang's clause: its first two captured words. -/
def Gang.header (g : Gang) : Dword :=
  match g.words with
  | lo :: hi :: _ => hi ++ lo
  | _ => 0

/-- The captured words from the gang's instruction on. -/
def Gang.rest (g : Gang) : List Word := g.words.drop ((g.addr.toNat - g.hdrAddr.toNat) / 4)

/-- The length code of the gang's instruction. -/
def Gang.lenCode (g : Gang) : BitVec 2 :=
  match g.rest with
  | w :: _ => w.extractLsb' 0 2
  | [] => 0

/-- The site of a fault at the instruction that a thread's gang issues; a thread outside a gang stands at its header. -/
def State.site (s : State) (c : Nat) (th : Thread) : Site :=
  match s.gangOf c th with
  | some g => { pc := g.addr, hdr := g.hdrAddr, index := g.index, len := g.lenCode, clause := false }
  | none => { pc := th.pc, hdr := th.pc, index := 0, len := 0, clause := false }

/-- The site of a fault at a clause header (R71 to R73) or of a fault delivered at one (R144, R222). -/
def headerSite (pc : Dword) (clause : Bool) : Site := { pc := pc, hdr := pc, index := 0, len := 0, clause := clause }

/-! ## Fault codes (R103) -/

def fIllegalOp : Nat := 0x01
def fIllegalField : Nat := 0x02
def fIllegalClause : Nat := 0x03
def fRegRange : Nat := 0x04
def fRole : Nat := 0x05
def fPriv : Nat := 0x06
def fMisaligned : Nat := 0x07
def fBounds : Nat := 0x08
def fBufPerm : Nat := 0x09
def fStackLimit : Nat := 0x0A
def fTrap : Nat := 0x0B
def fBkpt : Nat := 0x0C
def fRdvDeadlock : Nat := 0x10
def fDataPoison : Nat := 0x11
def fDetScope : Nat := 0x12
def fGenChanged : Nat := 0x13
def fXlateNoncanon : Nat := 0x18
def fXlateAbsent : Nat := 0x19
def fXlatePerm : Nat := 0x1A
def fXlateEngine : Nat := 0x1B
def fPowerStop : Nat := 0x1C

/-- A fault that an instruction raises: its code and what FADDR and FINFO hold (R102, R103). -/
structure Flt where
  code : Nat
  faddr : Dword
  finfo : Word
  deriving DecidableEq, Repr

def Flt.plain (code : Nat) : Flt := { code := code, faddr := 0, finfo := 0 }

/-- FINFO for an access fault (R102). -/
def Acc.info (a : Acc) : Word :=
  BitVec.ofNat 32 (a.size * 256 + a.kind * 64 + a.scope.code * 8 + a.space.code)

def Flt.acc (code : Nat) (a : Acc) : Flt := { code := code, faddr := a.ea, finfo := a.info }

/-! ## Error reporting and interrupts (R116) -/

/-- An ERR_STAT event: the bit is set, and a bit whose ERR_MASK bit is 1 sends an interrupt message to the host. A write that sets an
ERR_MASK bit while its ERR_STAT bit is 1 sends none: R116 does not say whether it does (DESIGN CHOICE, log entry 89). -/
def State.err (s : State) (bit : Nat) : State :=
  { s with
    dev := { s.dev with errStat := s.dev.errStat ||| ((1 : Dword) <<< bit) },
    sent := if s.dev.errMask.getLsbD bit then { s.sent with interrupts := s.sent.interrupts ++ [bit] } else s.sent }

/-! ## Gangs -/

/-- Takes a thread out of the gang it runs in. -/
def State.leaveGang (s : State) (c t : Nat) : State :=
  let k := s.core c
  s.setCore c { k with gangs := FMap.mapVal k.gangs fun g =>
    { g with members := g.members.filter (· ≠ t), todo := g.todo.filter (· ≠ t) } }

/-! ## Taking an exception (R104, R105) -/

/-- Records an escalation in CTX_FAULT and CTX_FADDR (R105, R114): the first record stands, later ones set MORE; of the threads of a
core that escalate in one cycle the one with the lowest slot is recorded. -/
def State.recordFault (s : State) (ctx code c t : Nat) (nested : Bool) (addr : Dword) : State :=
  let x := s.ctx ctx
  let now := (s.core c).cycle
  let new : CtxFault := { valid := true, more := false, nested := nested, code := code, slot := t, core := c, addr := addr, cycle := now }
  let f : CtxFault :=
    if !x.fault.valid then new
    else if x.fault.core = c ∧ x.fault.cycle = now ∧ t < x.fault.slot then { new with more := true }
    else { x.fault with more := true }
  (s.setCtx ctx { x with fault := f }).err 10

/-- Puts a thread at an instruction: at the header for a clause's first instruction, else at the resume point (R303). -/
def Thread.standAt (th : Thread) (at_ : Site) : Thread :=
  if at_.index = 0 then
    (if at_.pc = at_.hdr || at_.pc = at_.hdr + 8 then { th with pc := at_.hdr, res := none } else th)
  else { th with pc := at_.pc, res := some (at_.hdr, at_.index) }

/-- Escalation of a thread (R105): it stops at the faulting instruction, its registers and fault registers unchanged. -/
def State.escalate (s : State) (c t : Nat) (th : Thread) (nested : Bool) (f : Flt) (at_ : Site) : State :=
  ((s.setThread c t { th.standAt at_ with status := if th.exitedB then .exited else .escalated, crun := none }).leaveGang c t).recordFault
    th.ctx f.code c t nested f.faddr

/-- Fault entry into the thread's handler (R104). -/
def Thread.enter (th : Thread) (f : Flt) (at_ : Site) (vec : Dword) : Thread :=
  { th with
    fcause := (0 : BitVec 11) ++ (BitVec.ofNat 5 at_.index ++ ((0 : BitVec 5) ++ (bit at_.clause ++ (at_.len ++ BitVec.ofNat 8 f.code)))),
    fpc := at_.pc, fhdr := at_.hdr, faddr := f.faddr, finfo := f.finfo, hm := true, pc := vec, res := none,
    status := .ready, crun := none, gap := false }

/-- The codes delivered to a Lantern (R103). -/
def lanternCode (code : Nat) : Bool := code == fXlateEngine || code == fPowerStop

/-- The device physical address of a code's entry in the trap vector table (R381). -/
def State.vectorAddr (s : State) (ctx code : Nat) : Nat := ((s.ctx ctx).tvb.extractLsb' 12 40).toNat * 4096 + 8 * code

/-- The trap vector table entry of a code (R381), and whether its word is poisoned. No rule says what a CTX_TVB.BASE at or above 768 GiB does:
a byte beyond device memory reads as 0 here, so that the fault escalates (DESIGN CHOICE, log entry 112). -/
def State.vector (s : State) (ctx code : Nat) : Dword × Bool :=
  (BitVec.ofNat 64 (s.mem.readNat (s.vectorAddr ctx code) 8), (s.mem.firstBad (s.vectorAddr ctx code) 8).isSome)

/-- Whether the read of a code's vector waits for an engine that owns its line (R237). -/
def State.vectorHeld (s : State) (ctx code : Nat) : Bool := s.lineHeld noSkip (s.vectorAddr ctx code) 8

/-- The read of a code's vector at its home slice (R199, R381). -/
def State.vectorRead (s : State) (ctx code : Nat) : State :=
  if s.vectorAddr ctx code + 8 ≤ Config.hbmBytes then s.l2Read (s.vectorAddr ctx code) 8 else s

/-- The walk behind a fault of a thread's access, a poisoned entry among them, reads its entries at their home slices (R199, R376, R434). FINFO
names the space. -/
def State.faultWalk (s : State) (th : Thread) (f : Flt) : State :=
  let va := if f.finfo.extractLsb' 0 3 = 1 then th.prvBase + f.faddr else f.faddr
  let poison : Bool := match s.walk th.ctx va.toNat with | .poison _ => true | _ => false
  if f.code = fXlateAbsent ∨ f.code = fXlatePerm ∨ f.code = fDataPoison ∧ poison then s.walked th.ctx va else s

/-- A thread waits with its fault until the vector can be read. -/
def State.awaitVector (s : State) (c t : Nat) (th : Thread) (f : Flt) (at_ : Site) : State :=
  (((s.noteRecall noSkip (s.vectorAddr th.ctx f.code) 8).setThread c t
    { th with status := .parked (.vector f.code f.faddr f.finfo at_) }).leaveGang c t)

/-- Takes a fault in a thread: the handler's entry of R104, once its vector can be read, or the escalation of R105. -/
def State.takeFault (s : State) (c t : Nat) (f : Flt) (at_ : Site) : State :=
  match s.thread? c t with
  | none => s
  | some th =>
    let v := s.vector th.ctx f.code
    let s0 := s.faultWalk th f
    if lanternCode f.code then s0.escalate c t th th.hm f at_
    else if th.hm then s0.escalate c t th true f at_
    else if s.vectorHeld th.ctx f.code then s.awaitVector c t th f at_
    else
      let s1 := s0.vectorRead th.ctx f.code
      if v.2 || v.1 = 0 then s1.escalate c t th false f at_
      else (s1.setThread c t (th.enter f at_ v.1)).leaveGang c t

/-! ## The frame of a thread instruction's meaning (R88) -/

/-- A meaning's body: the core, the slot, the thread and the state; a next state or a fault. -/
abbrev Body := Nat → Nat → Thread → State → Except Flt State

/-- Runs a body in the thread in turn: a guard of 0x8 raises ILLEGAL_FIELD, a false guard has no effect, and a fault is
taken precisely at the instruction (R77, R88, R104). -/
def runThread (g : BitVec 4) (body : Body) (s : State) : Out :=
  match s.cur with
  | .thread c t =>
    match s.thread? c t with
    | none => .refused .noAgent
    | some th =>
      if g = 8 then .next (s.takeFault c t (Flt.plain fIllegalField) (s.site c th))
      else if th.guard g then
        match body c t th s with
        | .ok s' => .next s'
        | .error f => .next (s.takeFault c t f (s.site c th))
      else .next s
  | _ => .refused .noAgent

/-- REG_RANGE (R76): every register span (first register, count) lies in the thread's allocation. -/
def regsOk (th : Thread) (spans : List (Nat × Nat)) : Bool := spans.all fun p => decide (p.1 + p.2 ≤ th.nregs)

/-- A body with its REG_RANGE check (R88 step 5). -/
def checked (spans : List (Nat × Nat)) (body : Body) : Body := fun c t th s =>
  if regsOk th spans then body c t th s else .error (Flt.plain fRegRange)

/-- A body with its ROLE check (R23, R88 step 6). -/
def needRole (r : Role) (body : Body) : Body := fun c t th s =>
  if th.role = r then body c t th s else .error (Flt.plain fRole)

/-- A body that raises a code where the device lacks a feature that the instruction needs (R392). -/
def needFeature (cond : Bool) (n code : Nat) (body : Body) : Body := fun c t th s =>
  if cond && s.lacksFeature n then .error (Flt.plain code) else body c t th s

/-- The meaning of an instruction that changes only its own thread's registers and predicates. -/
def aluExec (g : BitVec 4) (spans : List (Nat × Nat)) (f : Thread → Thread) (s : State) : Out :=
  runThread g (checked spans fun c t th s => .ok (s.setThread c t (f th))) s

/-! ## Resume points and the next header (R72, R73, R303) -/

/-- The start of the instruction after one that ends at an offset: the next window when 4 bytes are left (R72). -/
def nextStart (endAddr : Dword) : Dword := if endAddr.toNat % 32 = 28 then endAddr + 4 else endAddr

/-- The first multiple of 8 at or after an address (R73). -/
def roundUp8 (a : Dword) : Dword := (a + 7) &&& ~~~(7 : Dword)

/-- The address after an instruction with a length code at an address (R74). -/
def endOf (pc : Dword) (len : BitVec 2) : Dword := pc + 4 * (BitVec.ofNat 64 len.toNat + 1)

/-! ## Parking (R202, R289, R379) -/

/-- Parks a thread at an instruction, which it executes again when the cause ends (R289). -/
def State.parkAt (s : State) (c t : Nat) (th : Thread) (p : Park) (at_ : Site) : State :=
  (s.setThread c t { th.standAt at_ with status := .parked p }).leaveGang c t

/-- Parks a thread at a replayable miss and sends the request (R379). -/
def State.parkMiss (s : State) (c t : Nat) (th : Thread) (va : Dword) (kind entry : Nat) (at_ : Site) : State :=
  ((s.walked th.ctx va).parkAt c t th (.xlate va kind) at_).requestReplay (s.lanternOf th.bid) false kind th.ctx va entry

/-- Parks a thread whose access waits for its page to be diverted (R382). -/
def State.parkDivert (s : State) (c t : Nat) (th : Thread) (va : Dword) (kind : Nat) (at_ : Site) : State :=
  ((s.walked th.ctx va).parkAt c t th (.divert va) at_).noteDivert (s.lanternOf th.bid) kind th.ctx va

/-- The state in which the thread in turn must wait before its instruction can issue: the instruction is offered again. -/
def State.stall (s : State) : State := { s with cur := .held }

end Sys2Proof.Machine
end

