-- ==== Sys2Proof/Machine/Operands.lean ====
section
/-! DEFINITION. Every operand form of thread instructions: integer, floating-point and predicate operands, immediates,
register spans, address forms and results (R75, R76, R123, R124, R150, R201). -/

namespace Sys2Proof.Machine

/-! ## Register spans for REG_RANGE (R76) -/

def sp1 (r : GReg) : Nat × Nat := (r.toNat, 1)
def sp2 (r : GReg) : Nat × Nat := (r.toNat, 2)
def sp4 (r : GReg) : Nat × Nat := (r.toNat, 4)

/-- One register, or a pair for a 64-bit type (R123). -/
def spT (t : IType) (r : GReg) : Nat × Nat := (r.toNat, if t.w64 then 2 else 1)

/-- One register, or a pair for FP64 (R150). -/
def spF (f : Fmt) (r : GReg) : Nat × Nat := (r.toNat, if f == .f64 then 2 else 1)

def spC (t : CType) (r : GReg) : Nat × Nat := (r.toNat, if t.pair then 2 else 1)

def spSrc (t : IType) : Src → List (Nat × Nat)
  | .reg r => [spT t r]
  | _ => []

def spAmount : Src → List (Nat × Nat)
  | .reg r => [sp1 r]
  | _ => []

def spRI (f : Fmt) : RI → List (Nat × Nat)
  | .reg r => [spF f r]
  | .imm _ => []

def spRI1 : RI → List (Nat × Nat)
  | .reg r => [sp1 r]
  | .imm _ => []

def spR8 : R8 → List (Nat × Nat)
  | .reg r => [sp1 r]
  | .imm _ => []

/-- An address base: a pair for `glb` and `prv` (R83). -/
def spBase (sp : Space) (r : GReg) : Nat × Nat := (r.toNat, if sp == .glb || sp == .prv then 2 else 1)

def spAtom (o : AtomOp) (r : GReg) : Nat × Nat := (r.toNat, if o.n = 64 then 2 else 1)

/-! ## Integer operands (R123, R124) -/

/-- The bits of a register operand of a type: the low n bits. -/
def Thread.bitsOf (th : Thread) (t : IType) (r : GReg) : Nat :=
  if t.w64 then (th.pair r.toNat).toNat else (th.reg r.toNat).toNat % 2 ^ t.n

/-- An n-bit pattern read as a type's value. -/
def asInt (t : IType) (v : Nat) : Int :=
  let u := v % 2 ^ t.n
  if t.signed && decide (2 ^ (t.n - 1) ≤ u) then (u : Int) - 2 ^ t.n else u

/-- The value of a register operand (R123). -/
def Thread.int (th : Thread) (t : IType) (r : GReg) : Int := asInt t (th.bitsOf t r)

/-- The value of a last source operand (R124). -/
def Thread.srcInt (th : Thread) (t : IType) : Src → Int
  | .reg r => th.int t r
  | .imm8 v => asInt t ((immVal t v) % 2 ^ t.n).toNat
  | .imm32 v => asInt t ((immVal t v) % 2 ^ t.n).toNat

/-- An exact integer modulo 2^n (R38). -/
def wrap (n : Nat) (v : Int) : Nat := (v % 2 ^ n).toNat

/-- A result of a type as it stands in a whole register: copies of bit n − 1 for `.i` types, zeros for `.n` types. -/
def extend (t : IType) (v : Nat) : Word := BitVec.ofInt 32 (asInt t v)

/-- Writes an n-bit result (R123). -/
def Thread.setInt (th : Thread) (t : IType) (r : GReg) (v : Nat) : Thread :=
  if t.w64 then th.setPair r.toNat (BitVec.ofNat 64 v) else th.setReg r.toNat (extend t v)

/-- An exact integer narrowed to a type: clamped under `.sat`, else modulo 2^n (R38). -/
def narrow (t : IType) (sat : Bool) (v : Int) : Nat := wrap t.n (if sat then clampTo t v else v)

/-- The shift amount: one register, or imm8 zero-extended (R137). -/
def Thread.amount (th : Thread) : Src → Nat
  | .reg r => (th.reg r.toNat).toNat
  | .imm8 v => v.toNat
  | .imm32 v => v.toNat

/-! ## Floating-point operands (R150) -/

/-- The encoding in a register operand of a format. -/
def Thread.flt (th : Thread) (f : Fmt) (r : GReg) : Nat :=
  if f == .f64 then (th.pair r.toNat).toNat else (th.reg r.toNat).toNat % 2 ^ Fmt.n f

def Thread.fltRI (th : Thread) (f : Fmt) : RI → Nat
  | .reg r => th.flt f r
  | .imm v => v.toNat % 2 ^ Fmt.n f

/-- Writes an encoding; the bits above it are zero. -/
def Thread.setFlt (th : Thread) (f : Fmt) (r : GReg) (v : Nat) : Thread :=
  if f == .f64 then th.setPair r.toNat (BitVec.ofNat 64 v) else th.setReg r.toNat (BitVec.ofNat 32 v)

/-- A 32-bit operand: a register or imm32. -/
def Thread.ri (th : Thread) : RI → Word
  | .reg r => th.reg r.toNat
  | .imm v => v

/-- An operand of family 0x8: imm8 is zero-extended (R402). -/
def Thread.r8 (th : Thread) : R8 → Word
  | .reg r => th.reg r.toNat
  | .imm v => v.setWidth 32

/-- The two elements of a packed operand: element e of a 32-bit word (R48). -/
def elem16 (v : Word) (e : Nat) : Nat := (v.extractLsb' (16 * e) 16).toNat

/-- A packed word of two elements. -/
def pack16 (lo hi : Nat) : Word := BitVec.ofNat 16 hi ++ BitVec.ofNat 16 lo

/-- A format whose code the microscaling feature covers (R392). -/
def isMx : Fmt → Bool
  | .e2m3 | .e3m2 | .e2m1 => true
  | _ => false

/-- A body that raises ILLEGAL_FIELD on a format code whose feature is absent (R392). -/
def needFormats (fs : List Fmt) (body : Body) : Body :=
  needFeature (fs.contains .lns6) 1 fIllegalField (needFeature (fs.any isMx) 2 fIllegalField body)

/-! ## Addresses (R201) -/

/-- The byte offset of R83 as an integer. -/
def Off.val : Off → Int
  | .o8 v => v.toInt
  | .o32 v => v.toInt

/-- The base of an address: a pair for `glb` and `prv`, else one register (R201). -/
def Thread.baseOf (th : Thread) (sp : Space) (r : GReg) : Nat :=
  if sp == .glb || sp == .prv then (th.pair r.toNat).toNat else (th.reg r.toNat).toNat

/-- The exact effective address of a `prv`, `loc` or buffer access; `glb` addresses wrap at 2^64 (R201). -/
def effAddr (sp : Space) (base : Nat) (off : Int) : Int :=
  if sp == .glb then ((base : Int) + off) % 2 ^ 64 else (base : Int) + off

/-- log2 of an access size of 1, 2, 4, 8 or 16 bytes. -/
def log2Size : Nat → Nat
  | 1 => 0 | 2 => 1 | 4 => 2 | 8 => 3 | _ => 4

end Sys2Proof.Machine
end

