-- ==== Sys2Proof/Machine/Flags.lean ====
section
/-! DEFINITION. Every predicate and flag computation: comparisons (R130, R154), truth tables (R135, R136), word conditions
(R284, R325), pending flags and their counts (R78, R79, R400). -/

namespace Sys2Proof.Machine

/-- The integer comparisons of R130. -/
def iCond (c : ICond) (a b : Int) : Bool :=
  match c with
  | .eq => a == b
  | .ne => a != b
  | .lt => decide (a < b)
  | .le => decide (a ≤ b)
  | .gt => decide (b < a)
  | .ge => decide (b ≤ a)

/-- The word conditions of R284 and R325 at a width: (word COND value). -/
def wordCond (c : Cond) (n : Nat) (a b : Nat) : Bool :=
  let sa := asInt (if n = 64 then .i64 else .i32) a
  let sb := asInt (if n = 64 then .i64 else .i32) b
  match c with
  | .eq => a == b
  | .ne => a != b
  | .ltu => decide (a < b)
  | .geu => decide (b ≤ a)
  | .lt => decide (sa < sb)
  | .ge => decide (sb ≤ sa)

/-- Entry k of a truth table, k = a + 2 b + 4 c (R135). -/
def tableBit (table : Byte) (a b c : Bool) : Bool := table.getLsbD (a.toNat + 2 * b.toNat + 4 * c.toNat)

/-- A truth table applied to `n` bits of three numbers (R135). -/
def lutBits (table : Byte) (a b c : Nat) : Nat → Nat
  | 0 => 0
  | n + 1 =>
    lutBits table a b c n + (if tableBit table (a.testBit n) (b.testBit n) (c.testBit n) then 2 ^ n else 0)

/-- The pending flag that a class L instruction marks under its clause's header: `ok none` marks none; a slot of 15
raises ILLEGAL_FIELD (R78). -/
def slotFlag (h : Dword) (flag : Option Bool) : Except Flt (Option Nat) :=
  match flag with
  | none => .ok none
  | some b =>
    let n := if b then hdrSlotB h else hdrSlotA h
    if n = 15 then .error (Flt.plain fIllegalField) else .ok (some n)

/-- A flag's outstanding count (R400). -/
def Thread.flagCount (th : Thread) (i : Nat) : Nat := FMap.getD th.f i 0

def Thread.setFlag (th : Thread) (i n : Nat) : Thread := { th with f := FMap.put th.f i n }

/-- Whether every flag of a wait mask is clear (R70). -/
def Thread.maskClear (th : Thread) (m : BitVec 12) : Bool :=
  (List.range 12).all fun i => !m.getLsbD i || th.flagCount i == 0

end Sys2Proof.Machine
end

