-- ==== Sys2Proof/Machine/Issue.lean ====
section
/-! DEFINITION. Fetch, clause layout, issue states, the picker and the issue slots (R69 to R74, R144, R198, R288 to R295),
and the results in flight that hold a thread back (R79, R245). -/

namespace Sys2Proof.Machine

/-! ## Fetch (R69, R144, R198) -/

/-- The number of the instruction-buffer line that holds a `glb` address (R198, R209). -/
def ibKey (va : Dword) : Nat := va.toNat / 128

/-- The 128 bytes of memory behind an instruction-buffer line and the offsets of poisoned ones. -/
def State.codeLine (s : State) : Tgt → List Byte × List Nat
  | .dev pa => (s.mem.readBytes (pa / 128 * 128) 128, s.mem.badOffsets (pa / 128 * 128) 128)
  | .host pa => (s.hostMem.readBytes (pa / 128 * 128) 128, s.hostMem.badOffsets (pa / 128 * 128) 128)
  | .buf _ _ => ([], [])

/-- The lines of a core that hold bytes of clauses in progress: their reference count is not 0 (R198). -/
def Core.ibUsed (k : Core) (line : Nat) : Bool := k.gangs.any fun e => e.2.lines.contains line

/-- Makes room for an entry in a set of a cache: when the set is full, one of the entries that may leave does, by `pick`
(R188; log entry 15). -/
def roomFor {α : Type} (m : FMap α) (key ways pick : Nat) (sameSet mayLeave : Nat → Bool) : FMap α :=
  let set := m.filter fun e => sameSet e.1 && e.1 != key
  let free := set.filter fun e => mayLeave e.1
  if set.length < ways || free.isEmpty then m
  else
    match free[pick % free.length]? with
    | some e => FMap.del m e.1
    | none => m

/-- Enters a line into a core's instruction buffer of 128 sets and 4 ways; a line in use does not leave (R188, R198). -/
def State.ibFill (s : State) (c key : Nat) (l : IbLine) : State :=
  let k := s.core c
  let m := roomFor k.ibuf key 4 (Config.freeWay s.fresh) (fun x => x % 128 == key % 128) fun x => !k.ibUsed x
  (s.setCore c { k with ibuf := FMap.put m key l }).nextFresh

/-- Why a fetch fails: a fault code, a replayable miss of an address with the entry's address, or bytes of device memory that an engine owns. -/
inductive FetchErr
  | code (n : Nat)
  | replay (va : Dword) (entry : Nat)
  | held (ps : List (Nat × Nat))
  deriving DecidableEq, Repr

/-- The word of a line at an address: poison in its 64-bit word raises DATA_POISON (R219). -/
def IbLine.word (l : IbLine) (va : Dword) : Except FetchErr Word :=
  if l.poison.contains (va.toNat % 128 / 8) then .error (.code fDataPoison)
  else .ok (BitVec.ofNat 32 (leNat ((l.bytes.drop (va.toNat % 128)).take 4)))

/-- The line that serves a fetch of code: a present line of the core's instruction buffer that is not stale, or else the line in memory,
then with its place (R198), unless an engine owns it (R237). -/
def State.codeAt (s : State) (c ctx : Nat) (va : Dword) : Except FetchErr (IbLine × Option Tgt) :=
  if s.walkHeld ctx va then .error (.held ((s.walkEntries ctx va.toNat).map fun ea => (ea, 8)))
  else
  match s.translate ctx va 3 with
  | .noncanon => .error (.code fXlateNoncanon)
  | .aperture => .error (.code fXlatePerm)
  | .perm => .error (.code fXlatePerm)
  | .absent => .error (.code fXlateAbsent)
  | .poison => .error (.code fDataPoison)
  | .replay e => .error (.replay va e)
  | .divert => .error (.held [])
  | .ok t =>
    match FMap.find? (s.core c).ibuf (ibKey va) with
    | some ⟨bs, bad, false⟩ => .ok (⟨bs, bad, false⟩, none)
    | _ =>
      let held := match t with | .dev pa => s.lineHeld noSkip (pa / 128 * 128) 128 | _ => false
      if held then .error (.held [(tgtAddr t / 128 * 128, 128)])
      else
        let b := s.codeLine t
        .ok ({ bytes := b.1, poison := (b.2.map (· / 8)).eraseDups, stale := false }, some t)

/-- What a fetch leaves behind: a line that came from memory was translated, read at its home slice and entered into the instruction buffer
(R198, R199, R374). -/
def State.codeFill (s : State) (c ctx : Nat) (va : Dword) (l : IbLine) : Option Tgt → State
  | none => s
  | some t =>
    let s1 := s.tlbFill c ctx va
    let s2 := match t with | .dev pa => s1.l2Read (pa / 128 * 128) 128 | _ => s1
    s2.ibFill c (ibKey va) l

/-- Fetches one aligned 32-bit word of code through the core's instruction buffer (R198). -/
def State.fetchWord (s : State) (c ctx : Nat) (va : Dword) : Except FetchErr (Word × State) :=
  match s.codeAt c ctx va with
  | .error e => .error e
  | .ok (l, t) => (l.word va).map fun w => (w, s.codeFill c ctx va l t)

/-- Fetches `n` consecutive words. -/
def State.fetchWords (s : State) (c ctx : Nat) (va : Dword) : Nat → Except FetchErr (List Word × State)
  | 0 => .ok ([], s)
  | n + 1 =>
    match s.fetchWord c ctx va with
    | .error e => .error e
    | .ok (w, s1) =>
      match State.fetchWords s1 c ctx (va + 4) n with
      | .error e => .error e
      | .ok (ws, s2) => .ok (w :: ws, s2)

/-! ## Clause layout (R71, R72, R73) -/

/-- A scanned clause: its words from the header on, the starts of its instructions, a layout breach of R72, and whether a
nonzero gap stands before the next header (R73). -/
structure Clause where
  words : List Word
  starts : List Dword
  bad : Bool
  gap : Bool
  deriving DecidableEq, Repr

/-- The major opcode of an instruction's first word. -/
def majorOf (w : Word) : Byte := w.extractLsb' 2 8

/-- Scans `n` instructions from an address (R72): the words fetched, the starts, a breach, the gap. Rule 5 looks at the major opcode alone:
a word with the opcode of a clause-ending instruction that is not last breaks it, though its length or sub-operation may name no instruction
(DESIGN CHOICE, log entry 93). -/
def State.scan (s : State) (c ctx : Nat) (a : Dword) : Nat → Except FetchErr (Clause × State)
  | 0 => .ok ({ words := [], starts := [], bad := false, gap := false }, s)
  | n + 1 =>
    match s.fetchWord c ctx a with
    | .error e => .error e
    | .ok (w, s1) =>
      let k := lenWords w
      if k = 0 || decide (32 < a.toNat % 32 + 4 * k) || (classE (majorOf w) && n != 0) then
        .ok ({ words := [w], starts := [a], bad := true, gap := false }, s1)
      else
        match s1.fetchWords c ctx a k with
        | .error e => .error e
        | .ok (ws, s2) =>
          let stop := a + 4 * BitVec.ofNat 64 k
          let skip := if n = 0 then decide (stop.toNat % 8 = 4) else decide (stop.toNat % 32 = 28)
          if !skip then
            match State.scan s2 c ctx stop n with
            | .error e => .error e
            | .ok (r, s3) => .ok ({ r with words := ws ++ r.words, starts := a :: r.starts }, s3)
          else
            match s2.fetchWord c ctx stop with
            | .error e => .error e
            | .ok (z, s3) =>
              if n = 0 then .ok ({ words := ws ++ [z], starts := [a], bad := false, gap := z != 0 }, s3)
              else if z != 0 then .ok ({ words := ws ++ [z], starts := [a], bad := true, gap := false }, s3)
              else
                match State.scan s3 c ctx (stop + 4) n with
                | .error e => .error e
                | .ok (r, s4) => .ok ({ r with words := ws ++ z :: r.words, starts := a :: r.starts }, s4)

/-- The fault of a header's own fields (R71): none, ILLEGAL_FIELD or ILLEGAL_CLAUSE. -/
def headerFault (h : Dword) : Option Nat :=
  let badCount := hdrCount h == 0 || decide (24 < hdrCount h)
  let badSlot (n : Nat) := decide (12 ≤ n) && decide (n ≤ 14)
  let slots := badSlot (hdrSlotA h) || badSlot (hdrSlotB h)
  let rsv := h.extractLsb' 29 35 != 0
  if badCount then some fIllegalClause
  else if slots && rsv then some fIllegalClause
  else if slots || rsv then some fIllegalField
  else none

/-- The outcome of reading the clause at a header: a clause, a fault code with its CLAUSE bit, a replayable miss, or a line that has
to wait. -/
inductive ClauseRes
  | ok (h : Dword) (cl : Clause) (s : State)
  | fault (code : Nat) (clause : Bool)
  | replay (va : Dword) (entry : Nat)
  | held (ps : List (Nat × Nat))

def FetchErr.res : FetchErr → ClauseRes
  | .code n => .fault n false
  | .replay va e => .replay va e
  | .held ps => .held ps

/-- Reads and checks the clause at an address (R71 to R73, R144). A nonzero gap after a clause's own last instruction is no breach of that clause
when a row of R71 applies to it: R73 raises it at the following header (DESIGN CHOICE, log entry 95). -/
def State.clauseAt (s : State) (c ctx : Nat) (a : Dword) : ClauseRes :=
  if a.toNat % 4 ≠ 0 then
    match s.translate ctx a 3 with
    | .noncanon => .fault fXlateNoncanon false
    | .aperture | .perm => .fault fXlatePerm false
    | .absent => .fault fXlateAbsent false
    | .poison => .fault fDataPoison false
    | .replay e => .replay a e
    | .divert => .held []
    | .ok _ => .fault fIllegalClause true
  else
    match s.fetchWords c ctx a 2 with
    | .error e => e.res
    | .ok (ws, s1) =>
      let h : Dword := match ws with | lo :: hi :: _ => hi ++ lo | _ => 0
      if a.toNat % 8 ≠ 0 || h.extractLsb' 0 2 != 0 then .fault fIllegalClause true
      else if hdrCount h == 0 || decide (24 < hdrCount h) then .fault fIllegalClause true
      else
        match s1.scan c ctx (a + 8) (hdrCount h) with
        | .error e => e.res
        | .ok (cl, s2) =>
          match headerFault h with
          | some n => .fault (if cl.bad then fIllegalClause else n) true
          | none => if cl.bad then .fault fIllegalClause true else .ok h { cl with words := ws ++ cl.words } s2

/-- A fetch that faults finds no header; one that misses or is held must be made again. -/
def FetchErr.orElse {α : Type} (a : α) : FetchErr → Except FetchErr α
  | .code _ => .ok a
  | e => .error e

/-- The position of the instruction that starts at `pc`, of the `n` from number `j` at `a` on: a clause is read as far as that start and no
further, and a breach of its layout before it leaves no start there (R72, R303). -/
def State.startIndex (s : State) (c ctx : Nat) (pc a : Dword) (j : Nat) : Nat → Except FetchErr (Option Nat)
  | 0 => .ok none
  | n + 1 =>
    if a = pc then .ok (some j)
    else
      match s.fetchWord c ctx a with
      | .error e => e.orElse none
      | .ok (w, s1) =>
        let k := lenWords w
        let stop := a + 4 * BitVec.ofNat 64 k
        if k = 0 || decide (32 < a.toNat % 32 + 4 * k) || classE (majorOf w) then .ok none
        else if stop.toNat % 32 ≠ 28 || n = 0 then State.startIndex s1 c ctx pc stop (j + 1) n
        else
          match s1.fetchWord c ctx stop with
          | .error e => e.orElse none
          | .ok (z, s2) => if z != 0 then .ok none else State.startIndex s2 c ctx pc (stop + 4) (j + 1) n

/-- Whether a thread at an address with FHDR at `hdr` stands at a resume point, and at which instruction (R303), or why the clause cannot be
fetched yet. -/
def State.resumeIndex (s : State) (c ctx : Nat) (hdr pc : Dword) : Except FetchErr (Option Nat) :=
  if hdr.toNat % 8 ≠ 0 then .ok none
  else
    match s.fetchWords c ctx hdr 2 with
    | .error e => e.orElse none
    | .ok (ws, s1) =>
      let h : Dword := match ws with | lo :: hi :: _ => hi ++ lo | _ => 0
      if h.extractLsb' 0 2 != 0 || (headerFault h).isSome then .ok none
      else
        match s1.startIndex c ctx pc (hdr + 8) 0 (hdrCount h) with
        | .ok (some 0) => .ok none
        | r => r

/-! ## Clause addresses and issue states (R288, R289) -/

/-- The clause address of a thread: a header, or the pair of a resume point (R288). -/
def Thread.place (th : Thread) : Dword × Nat := th.res.getD (th.pc, 0)

/-- The low word of the header that governs a thread's next clause, as the instruction buffer or memory gives it; looking changes nothing. -/
def State.headerWord (s : State) (c : Nat) (th : Thread) : Option Word :=
  match s.codeAt c th.ctx th.place.1 with
  | .ok (l, _) => (l.word th.place.1).toOption
  | .error _ => none

/-- Whether a blocked thread's condition of a lazily tested wait holds (R208, R217, R260). -/
def Thread.waitOver (th : Thread) : Wait → Bool
  | .fence o sc => th.fenceDone o sc
  | .msync => th.ops.all fun o => match o.kind with | .engine _ => false | _ => true
  | _ => false

/-- A thread that would be a candidate but for its wait mask, its results and queue room: state ready, or a blocked state
whose condition holds, once a yield that it began when it blocked has run out at `cycle` (R295). -/
def Thread.idle (th : Thread) (cycle : Nat) : Bool :=
  !th.halted && !th.preck.any Ck.due && th.late.isEmpty &&
  (match th.status with | .ready => true | .blocked w => th.waitOver w && decide (th.yieldTill ≤ cycle) | _ => false)

/-- The queue-entering instructions among a clause's instructions: matrix queue and tile vector queue (R245). -/
def entriesOf (starts : List Dword) (hdr : Dword) (words : List Word) : Nat × Nat :=
  let ops := starts.map fun a => (majorOf (words.getD ((a.toNat - hdr.toNat) / 4) 0)).toNat
  ((ops.filter fun o => decide (0xA0 ≤ o ∧ o ≤ 0xA3) || o == 0xA7).length, (ops.filter fun o => decide (0xB0 ≤ o ∧ o ≤ 0xBF)).length)

/-- Free entries of the matrix and tile vector queues, less what gangs in slots have reserved (R243, R245). -/
def Core.room (k : Core) : Nat × Nat :=
  let gs := k.gangs.map Prod.snd
  (Config.queueEntries - (k.mq.length + (gs.map (·.roomM)).foldl (· + ·) 0),
   Config.queueEntries - (k.vq.length + (gs.map (·.roomV)).foldl (· + ·) 0))

/-- The queue entries that a thread's next clause needs per thread. -/
def State.needs (s : State) (c : Nat) (th : Thread) : Nat × Nat :=
  match s.clauseAt c th.ctx th.place.1 with
  | .ok _ cl _ => entriesOf cl.starts th.place.1 cl.words
  | _ => (0, 0)

/-- Whether the flagged instructions among `ws` keep every count at 255 or below (R400). -/
def flagsFit (th : Thread) (h : Dword) (ops : List Word) : Bool :=
  (List.range 12).all fun i =>
    let n := (ops.filter fun w => w.getLsbD 11 && (if w.getLsbD 10 then hdrSlotB h else hdrSlotA h) == i).length
    decide (th.flagCount i + n ≤ 255)

/-- Whether a thread's next clause keeps its flag counts in range. A clause holds at most 24 instructions (R71), so counts up to 231
leave room for any. -/
def State.flagRoom (s : State) (c : Nat) (th : Thread) : Bool :=
  if (List.range 12).all fun i => decide (th.flagCount i + 24 ≤ 255) then true
  else
    match s.clauseAt c th.ctx th.place.1 with
    | .ok h cl _ => flagsFit th h (cl.starts.map fun a => cl.words.getD ((a.toNat - th.place.1.toNat) / 4) 0)
    | _ => true

/-- Whether the engine queues have room for a thread's next clause (R245); 24 free entries are room for any. -/
def State.queueRoom (s : State) (c : Nat) (th : Thread) : Bool :=
  let r := (s.core c).room
  if 24 ≤ r.1 && 24 ≤ r.2 then true
  else
    let n := s.needs c th
    decide (n.1 ≤ r.1) && decide (n.2 ≤ r.2)

/-- Ready (R289): the core is not halted, the thread stands at a header or resume point with a clear wait mask, and R79 and R245 hold
nothing back. A thread that parked within its clause has met its wait mask when it joined. A header that cannot be fetched holds nothing
back. Bits [13:2] of the word at a target are a wait mask even where that word is no header; the thread takes ILLEGAL_CLAUSE once the mask
is clear (DESIGN CHOICE, log entry 94). -/
def State.ready (s : State) (c : Nat) (th : Thread) : Bool :=
  !(s.core c).halt && th.idle (s.core c).cycle && !th.landing &&
  (th.crun.isSome || (match s.headerWord c th with | some w => th.maskClear (w.extractLsb' 2 12) | none => true)) && s.flagRoom c th && s.queueRoom c th

/-- The threads of a core that are ready, by slot. -/
def State.readyThreads (s : State) (c : Nat) : FMap Thread := (s.core c).threads.filter fun e => s.ready c e.2

/-- A blocked or parked thread becomes ready; a yield that it began when it blocked is served first (R295). -/
def State.wake (s : State) (c t : Nat) : State :=
  s.mapThread c t fun th =>
    match th.status with
    | .blocked _ | .parked _ => { th with status := if (s.core c).cycle < th.yieldTill then .paused th.yieldTill true else .ready }
    | _ => th

/-- A thread released at the end of a cycle becomes ready in the next (R178, R406). -/
def State.wakeNext (s : State) (c t : Nat) : State :=
  let s1 := s.wake c t
  s1.setCore c { s1.core c with woken := t :: (s1.core c).woken }

/-! ## Counters of a core (R415) -/

def Core.bump (k : Core) (n by_ : Nat) : Core :=
  { k with perf := FMap.put k.perf n ((FMap.getD k.perf n 0 + by_) % 2 ^ 64) }

def State.bump (s : State) (c n by_ : Nat) : State := s.setCore c ((s.core c).bump n by_)

/-! ## The picker (R290, R291, R292) -/

/-- The interval F/2 at which a ready thread is due, if fairness is on for it (R292). -/
def Thread.due (th : Thread) : Bool := !th.nofair && decide (128 * th.fair ≤ th.w)

/-- The entry with the greatest w, ties to the lowest slot. -/
def greatestW : FMap Thread → Option (Nat × Thread)
  | [] => none
  | e :: es =>
    match greatestW es with
    | some f => if e.2.w < f.2.w then some f else some e
    | none => some e

/-- Distinct home lanes among entries. -/
def lanesOf (es : FMap Thread) : List Nat := (es.map fun e => e.2.lane).foldl (fun l x => insertAsc x l) []

def placeLt (a b : Dword × Nat) : Bool := decide (a.1 < b.1) || (a.1 == b.1 && decide (a.2 < b.2))

/-- The place that covers most home lanes, ties to the greatest w, then to the lowest address. -/
def widestPlace (cands : FMap Thread) : Option (Dword × Nat) :=
  let places := (cands.map fun e => e.2.place).eraseDups
  let score (p : Dword × Nat) : Nat × Nat :=
    let es := cands.filter fun e => e.2.place == p
    ((lanesOf es).length, ((greatestW es).map fun e => e.2.w).getD 0)
  places.foldl (fun best p =>
    match best with
    | none => some p
    | some b =>
      let sb := score b
      let sp := score p
      if sb.1 < sp.1 || (sb.1 == sp.1 && (decide (sb.2 < sp.2) || (sb.2 == sp.2 && placeLt p b))) then some p else some b) none

/-- One thread for each home lane, the one with the greatest w, in ascending lane order. -/
def onePerLane (es : FMap Thread) : FMap Thread :=
  (lanesOf es).filterMap fun l => greatestW (es.filter fun e => e.2.lane == l)

/-- Removes the highest home lane's thread that is not the leader until the gang fits `n` threads. -/
def trimTo (leader : Nat) (g : FMap Thread) : Nat → FMap Thread
  | 0 => g
  | n + 1 =>
    match (g.reverse.find? fun e => e.1 ≠ leader) with
    | some e => trimTo leader (g.filter fun x => x.1 ≠ e.1) n
    | none => g

/-- The greatest gang size that the room admits. -/
def fits (need room : Nat) (size : Nat) : Nat := if need = 0 then size else min size (room / need)

/-- A thread that joins a gang, takes a fault or parks where a fence with an acquire side, or an MSYNC, held it applies the L1 invalidation
of its acquire (R196, R208, R260). -/
def State.fenceAcquire (s : State) (c : Nat) (th : Thread) : State :=
  match th.status with
  | .blocked (.fence o sc) => if acquires o && wideScope (s.inTwin th) sc then s.l1Invalidate c else s
  | .blocked .msync => if s.inTwin th then s.l1Invalidate c else s
  | _ => s

/-- Takes a fault at a header in each thread of a list, or parks them at a replayable miss; a fetch that waits for an engine begins a
recall (R71, R144, R237, R379). -/
def State.headerFaults (s : State) (c : Nat) (r : ClauseRes) : FMap Thread → State
  | [] => s
  | (t, th) :: es =>
    let a := th.place.1
    let s1 :=
      match r with
      | .fault code true =>
        (s.fenceAcquire c th).takeFault c t (Flt.plain (if th.gap && th.place.2 == 0 then fIllegalClause else code)) (headerSite a true)
      | .fault code false =>
        (s.fenceAcquire c th).takeFault c t { code := code, faddr := a, finfo := Acc.info { space := .glb, scope := .thr, ea := a, size := 3, kind := 3 } }
          (headerSite a false)
      | .replay va e =>
        (((s.fenceAcquire c th).walked th.ctx va).setThread c t { th with status := .parked (.xlate va 3) }).requestReplay (s.lanternOf th.bid) false 3 th.ctx va e
      | .held ps => ps.foldl (fun s p => s.noteRecall noSkip p.1 p.2) s
      | .ok .. => s
    State.headerFaults s1 c r es

/-- A thread joins a clause under a wait mask: a flag of the mask whose clearing carries an acquire invalidates the L1 (R239). -/
def State.flagAcquire (s : State) (c : Nat) (th : Thread) (mask : BitVec 12) : State :=
  if th.acqf &&& mask = 0 then s else s.l1Invalidate c

/-- Marks the threads of a gang as running in a slot (R289). -/
def State.runAll (s : State) (c k id : Nat) (mask : BitVec 12) : List Nat → State
  | [] => s
  | t :: ts =>
    let s1 := match s.thread? c t with
      | some th => (s.fenceAcquire c th).flagAcquire c th mask
      | none => s
    State.runAll (s1.mapThread c t fun th =>
      { th with status := .running k, w := 0, res := none, pc := th.place.1, gap := false, crun := some (th.crun.getD id),
                acqf := th.acqf &&& ~~~mask }) c k id mask ts

/-- The instruction-buffer lines that hold `n` words from an address (R198). -/
def linesFrom (va : Dword) (n : Nat) : List Nat :=
  (List.range ((va.toNat + 4 * n - 1) / 128 - va.toNat / 128 + 1)).map (va.toNat / 128 + ·)

/-- Starts a gang of the threads of `g` in slot k. -/
def State.startGang (s : State) (c k : Nat) (p : Dword × Nat) (h : Dword) (cl : Clause) (g : FMap Thread) (nofair : Bool) : State :=
  let nd := entriesOf cl.starts p.1 cl.words
  let ms := g.map Prod.fst
  let s1 := State.runAll s c k s.uid (hdrWait h) ms
  let kc := s1.core c
  let gang : Gang :=
    { start := p.2, id := s.uid, run := kc.clauseCtr, hdrAddr := p.1, words := cl.words, lines := linesFrom p.1 cl.words.length, index := p.2,
      addr := cl.starts.getD p.2 (p.1 + 8), members := ms, todo := ms, roomM := nd.1 * ms.length, roomV := nd.2 * ms.length, gap := cl.gap }
  (s1.setCore c
    ((({ kc with gangs := FMap.put kc.gangs k gang, clauseCtr := (kc.clauseCtr + 1) % 2 ^ 32,
                 lastUnfair := FMap.put kc.lastUnfair k nofair }).bump 1 1).bump 2 ms.length)).nextUid

/-- Fills slot k of a core, if it is free and a thread can be picked (R290). Of the threads picked, those that fell through a nonzero gap to
the header take its fault and the others form the gang (R73, R145). No rule breaks a tie for the thread of G with the greatest w, the solo
thread and the one that trimming keeps: here the lowest home lane has it (DESIGN CHOICE, log entry 88). Fairness is off for the slot's last
gang when it is off for that gang's leader, whose launch may differ from other members' (DESIGN CHOICE, log entry 98). -/
def State.pick (s : State) (c k : Nat) : State :=
  let kc := s.core c
  if (FMap.find? kc.gangs k).isSome then s
  else
    let other := (FMap.find? kc.gangs (1 - k)).map fun g => (g.hdrAddr, g.start)
    let cands := (s.readyThreads c).filter fun e => some e.2.place ≠ other && !kc.woken.contains e.1
    let due := cands.filter fun e => e.2.due
    let stay := if FMap.getD kc.lastUnfair k false then FMap.find? kc.stay k else none
    let place? :=
      match greatestW due with
      | some e => some e.2.place
      | none =>
        match stay with
        | some p => if cands.any (fun e => e.2.place == p) then some p else widestPlace cands
        | none => widestPlace cands
    match place? with
    | none => s
    | some p =>
      let g0 := onePerLane (cands.filter fun e => e.2.place == p)
      match greatestW g0 with
      | none => s
      | some lead =>
        match s.clauseAt c lead.2.ctx p.1 with
        | .ok h cl s1 =>
          let g1 := if hdrSolo h then [lead] else g0
          let nd := entriesOf cl.starts p.1 cl.words
          let size := min (fits nd.1 kc.room.1 g1.length) (fits nd.2 kc.room.2 g1.length)
          let g := trimTo lead.1 g1 (g1.length - size)
          let fell (e : Nat × Thread) : Bool := e.2.gap && p.2 == 0
          let s2 := s1.headerFaults c (.fault fIllegalClause true) (g.filter fell)
          let s3 := if g.all fell then s2 else s2.startGang c k p h cl (g.filter fun e => !fell e) lead.2.nofair
          s3.setCore c (((s3.core c).bump 4 (if due.isEmpty then 0 else 1)).bump 5 (if size < g1.length then 1 else 0))
        | r => s.headerFaults c r g0

/-! ## Dual issue (R288, R293) -/

/-- The issue ports of R293. -/
inductive Port0
  | memory | matrix | vector | ladle | fabric | rendezvous | system | none
  deriving DecidableEq, Repr

/-- The port of a major opcode. -/
def portOf (op : Byte) : Port0 :=
  let n := op.toNat
  if n / 16 = 6 || n / 16 = 7 || n == 0x80 || n == 0x03 || n == 0x04 || n == 0x05 then .memory
  else if (decide (0xA0 ≤ n) && decide (n ≤ 0xA3)) || n == 0xA7 then .matrix
  else if n / 16 = 0xB then .vector
  else if n / 16 = 0xC then .ladle
  else if n / 16 = 0xD then .fabric
  else if n / 16 = 9 then .rendezvous
  else if n / 16 = 0xE then .system
  else .none

/-- Registers read by an optional register operand. -/
def rdSrc (t : IType) : Src → Nat
  | .reg _ => if t.w64 then 2 else 1
  | _ => 0

def rdRI (n : Nat) : RI → Nat
  | .reg _ => n
  | .imm _ => 0

def rdR8 : R8 → Nat
  | .reg _ => 1
  | .imm _ => 0

def rdT (t : IType) : Nat := if t.w64 then 2 else 1

def rdF (f : Fmt) : Nat := if f == .f64 then 2 else 1

def rdC (t : CType) : Nat := if t.pair then 2 else 1

def rdBase (sp : Space) : Nat := if sp == .glb || sp == .prv then 2 else 1

def rdAtom (o : AtomOp) : Nat := if o.n = 64 then 2 else 1

/-- The general registers that an instruction reads in one thread: a pair counts 2 (R293). -/
def readsOf : Instr → Nat
  | .brx _ | .callx _ => 2
  | .pause x => rdSrc .n32 x.c
  | .iadd x | .isub x | .imul x | .imulh x | .idiv x | .irem x | .imin x | .imax x | .and x | .or x | .xor x => rdT x.t + rdSrc x.t x.b
  | .shl x | .shr x => rdT x.t + rdSrc .n32 x.b
  | .rot x => rdT x.t + rdSrc .n32 x.b
  | .imad x => 2 * rdT x.t + rdSrc x.t x.c
  | .iabs x | .mov x | .popc x | .clz x | .brev x => rdT x.t
  | .lea x => 2 + rdSrc x.t x.b
  | .icmp x => rdT x.t + rdSrc x.t x.b
  | .isel x => 2 * rdT x.t
  | .lut3 x => if x.wide then 6 else 3
  | .bfe x => rdT x.t
  | .bfi x => 2 * rdT x.t
  | .bsel _ => 3
  | .fadd x | .fsub x | .fmul x | .fdiv x | .fmin x | .fmax x => rdF x.f + rdRI (rdF x.f) x.b
  | .hadd2 x | .hsub2 x | .hmul2 x | .hmin2 x | .hmax2 x | .pack x => 1 + rdRI 1 x.b
  | .fma x => 2 * rdF x.f + rdRI (rdF x.f) x.c
  | .hfma2 x => 2 + rdRI 1 x.c
  | .fcmp x => rdF x.f + rdRI (rdF x.f) x.b
  | .hcmp2 x => 1 + rdRI 1 x.b
  | .fclass x | .frint x => rdF x.f
  | .frcp x | .fsqrt x => rdF x.f
  | .unpk _ | .fexp2 _ | .flog2 _ | .frsq _ | .fsin _ | .fcos _ | .ftanh _ => 1
  | .cvt x => rdC x.st + (if x.rm == .rs then 1 else 0)
  | .cvts x => rdF x.st + 1 + (if x.rm == .rs then 1 else 0)
  | .rnd _ | .rndLo _ => 6
  | .waitPut _ => 1
  | .mset _ => 2
  | .xshf _ => 1
  | .ld x => rdBase x.space
  | .st x => rdBase x.space + rdT x.t
  | .ldc _ => 1
  | .pref _ | .cctlIinv _ => 2
  | .atom x => rdBase x.space + rdAtom x.op
  | .cas x => rdBase x.space + 2 * rdT x.t
  | .red x => rdBase x.space + rdAtom x.op
  | .redt x => 3 + rdAtom x.op
  | .rclose _ => 2
  | .cpyIn _ | .cpyOut _ => 3
  | .tbari x | .tbaraN x => 1 + rdR8 x.b
  | .tbara _ | .tbarvd _ => 1
  | .tbarw x => 1 + rdR8 x.b
  | .bar _ | .barArv _ => 0
  | .ringp x | .ringwEmpty x | .ringwFull x => rdR8 x.b
  | .wld _ | .wlds _ | .mzero _ => 1
  | .mloop _ => 3
  | .msclr _ => 2
  | .dcfg x => rdRI 1 x.v
  | .vadd _ | .vsub _ | .vmul _ | .vmin _ | .vmax _ | .vscl _ | .vcmp _ => 3
  | .vfma _ | .vst _ => 4
  | .vexp2 _ | .vrmax _ | .vrsum _ | .vcvt _ | .vmov _ => 2
  | .ldlStart _ | .ldlStartAt _ => 2
  | .ldlStop _ | .ldlStat _ | .ldlStatFree _ => 1
  | .ldlBaseBind x | .await x => rdRI 1 x.v
  | .arels x => rdRI 1 x.b
  | .rld _ => 2
  | .rst x => 2 + rdT x.t
  | .ratom x => 2 + rdAtom x.op
  | .ratomCas x => 2 + 2 * rdT x.t
  | .rred x => 2 + rdAtom x.op
  | .coll _ => 2
  | .token x | .twait x => rdRI 1 x.t
  | .mfence _ => 1
  | .swr x => if x.r.wide then 2 else 1
  | .fltrPg _ => 2
  | _ => 0

/-- The reads of the instruction that a gang offers. -/
def Gang.reads (g : Gang) : Nat :=
  match decode g.rest with
  | .ok i => readsOf i
  | .error _ => 0

def Gang.port (g : Gang) : Port0 :=
  match g.rest with
  | w :: _ => portOf (majorOf w)
  | [] => .none

/-- Whether the instructions that two gangs offer conflict (R293). -/
def State.conflict (s : State) (c : Nat) (a b : Gang) : Bool :=
  let lanes (g : Gang) := g.members.filterMap fun t => (s.thread? c t).map Thread.lane
  (a.port != .none && a.port == b.port) ||
  (decide (4 < a.reads + b.reads) && (lanes a).any fun l => (lanes b).contains l)

/-- The earlier of two clause-start values, modulo 2^32 (R288). -/
def startsBefore (a b : Nat) : Bool := let d := (b + 2 ^ 32 - a % 2 ^ 32) % 2 ^ 32; d != 0 && decide (d < 2 ^ 31)

/-- The slots that issue in this cycle, the earlier clause-start value first (R293), and whether a gang loses. -/
def State.offers (s : State) (c : Nat) : List Nat × Bool :=
  let k := s.core c
  match FMap.find? k.gangs 0, FMap.find? k.gangs 1 with
  | none, none => ([], false)
  | some _, none => ([0], false)
  | none, some _ => ([1], false)
  | some a, some b =>
    let first := if startsBefore a.run b.run then 0 else 1
    if s.conflict c a b then ([first], true) else ([first, 1 - first], false)

/-- The next instruction in a gang: its position and start. -/
def Gang.advance (g : Gang) : Gang :=
  { g with index := g.index + 1, addr := nextStart (endOf g.addr g.lenCode), todo := g.members }

/-- The next header after a gang's instruction (R73). -/
def Gang.next (g : Gang) : Dword := roundUp8 (endOf g.addr g.lenCode)

/-- Whether a gang stands at the last instruction of its clause. -/
def Gang.last (g : Gang) : Bool := decide (hdrCount g.header ≤ g.index + 1)

/-- Advances w; a fairness interval that starts takes the FAIR value in force (R114, R289). -/
def Thread.age (th : Thread) (fair : Nat) : Thread := { th with w := min (th.w + 1) 131071, fair := if th.w = 0 then fair else th.fair }

/-- Advances w in each ready thread of a core, saturating at 17 bits (R289). -/
def State.ageThreads (s : State) (c : Nat) : State :=
  let k := s.core c
  s.setCore c { k with threads := k.threads.map (fun e =>
    if s.ready c (e.2) then (e.1, e.2.age (s.ctx e.2.ctx).fair.toNat) else e) }

/-- Whether a core forms gangs: it is powered, not halted (R114, R120). -/
def Core.picks (k : Core) : Bool := k.powered && !k.halt

/-- Parked (R289): at an RLD or a replayable miss, and not halted. -/
def Thread.inParked (th : Thread) : Bool :=
  !th.halted && (match th.status with | .parked (.rld _) | .parked (.xlate _ _) => true | _ => false)

/-- Whether power throttling keeps a core from issuing in a cycle: contexts with DET = 0 issue only on alternate cycles
(R115). -/
def State.throttled (s : State) (c : Nat) : Bool :=
  let k := s.core c
  s.dev.throttle && k.cycle % 2 == 1 && !((k.ctx.map fun x => (s.ctx x).det).getD false)

/-- A row of GANG_PICK: in the core cycle whose instructions have issued, the picker fills the free slots, slot 0 first; the next
cycle then begins: the counters advance, and the gangs in slots offer their next instruction (R288 to R293, R414, R415). -/
def State.coreCycle (s : State) (c : Nat) : State :=
  let s0 := if (s.core c).picks then (s.pick c 0).pick c 1 else s
  let k0 := s0.core c
  let parked := if k0.halt then 0 else (k0.threads.filter fun e => e.2.inParked).length
  let s1 := s0.setCore c ({ k0 with cycle := (k0.cycle + 1) % 2 ^ 64, mevents := 0, woken := [] }.bump 8 parked)
  let s2 := s1.ageThreads c
  let o := if s2.throttled c then ([], false) else s2.offers c
  s2.setCore c ({ s2.core c with grant := o.1 }.bump 3 (if o.2 then 1 else 0))

/-! ## Pauses (R148, R295) -/

/-- Ends a pause whose count has run out. -/
def State.unpause (s : State) (c t : Nat) (yielded : Bool) : State :=
  s.mapThread c t fun th =>
    match th.status with
    | .paused till y => if y == yielded && decide (till ≤ (s.core c).cycle) && !th.halted then { th with status := .ready } else th
    | _ => th

/-- PAUSE_EXPIRY (R148). -/
def execPauseExpiry (c t : Nat) (s : State) : Out := .next (s.unpause c t false)

/-- YIELD_PAUSE_EXPIRY (R295). -/
def execYieldPauseExpiry (c t : Nat) (s : State) : Out := .next (s.unpause c t true)

/-- A thread that waits with a fault for its vector tries again to take it (R237, R381). -/
def State.retryVector (s : State) (c t : Nat) (th : Thread) : State :=
  match th.status with
  | .parked (.vector code a i at_) => s.takeFault c t { code := code, faddr := a, finfo := i } at_
  | _ => s

/-- DEFERRED_FAULT_DELIVERY (R222, R350): the oldest late fault of a thread that would become ready is taken at the
header or resume point where it stands; one that reaches an exited thread escalates. A fault that waits for its vector is taken first. -/
def execDeferredFaultDelivery (c t : Nat) (s : State) : Out :=
  match s.thread? c t with
  | none => .next s
  | some th =>
    match th.late with
    | [] => .next (s.retryVector c t th)
    | f :: fs =>
      let th1 := { th with late := fs }
      let flt := Flt.acc f.code f.acc
      let at_ : Site := { pc := th.pc, hdr := (th.res.map Prod.fst).getD th.pc, index := 0, len := 0, clause := false }
      let stands := match th.status with | .ready => true | .blocked w => th.waitOver w && decide (th.yieldTill ≤ (s.core c).cycle) | _ => false
      if th.exitedB then .next ((s.setThread c t th1).escalate c t th1 false flt at_)
      else if stands && !th.halted && !(s.core c).halt then
        .next (((s.fenceAcquire c th).setThread c t { th1 with status := .ready }).takeFault c t flt at_)
      else .next (s.retryVector c t th)

end Sys2Proof.Machine
end

