-- ==== Sys2Proof/Machine/Crew.lean ====
section
/-! DEFINITION. Crew rendezvous masks and the exchange instructions (R169 to R186). -/

namespace Sys2Proof.Machine

/-! ## Crews and masks -/

/-- The threads of a core that belong to a crew, by slot. -/
def State.crewThreads (s : State) (c : Nat) (b : Bid) (crew : Nat) : FMap Thread :=
  (s.core c).threads.filter fun e => e.2.bid == b && e.2.crew == crew

/-- Bit i of a crew set (R170). -/
def tidBit (t : Nat) : Dword := (1 : Dword) <<< t

/-- The live threads of a crew as a set (R172). -/
def State.liveMask (s : State) (c : Nat) (b : Bid) (crew : Nat) : Dword :=
  (s.crewThreads c b crew).foldl (fun v e => if e.2.exitedB then v else v ||| tidBit e.2.tid) 0

def State.mask (s : State) (b : Bid) (crew m : Nat) : Mask :=
  match s.block? b with
  | some k => FMap.getD (FMap.getD k.masks crew []) m Mask.empty
  | none => Mask.empty

def State.setMask (s : State) (b : Bid) (crew m : Nat) (x : Mask) : State :=
  match s.block? b with
  | some k => s.setBlock { k with masks := FMap.put k.masks crew (FMap.put (FMap.getD k.masks crew []) m x) }
  | none => s

/-- Whether a thread is blocked at a mask (R172). -/
def Thread.atMask (th : Thread) (m : Nat) : Bool := th.status == .blocked (.mask m)

/-- The slots of the threads of a set that are blocked at a mask. -/
def State.blockedAt (s : State) (c : Nat) (b : Bid) (crew m : Nat) (set : Dword) : List Nat :=
  ((s.crewThreads c b crew).filter fun e => e.2.atMask m && set.getLsbD e.2.tid).map Prod.fst

/-- Releases the threads of a set that are blocked at a mask. -/
def State.releaseAt (s : State) (c : Nat) (b : Bid) (crew m : Nat) (set : Dword) : State :=
  (s.blockedAt c b crew m set).foldl (fun s t => s.wake c t) s

/-- The same, ready in the next cycle. -/
def State.releaseNext (s : State) (c : Nat) (b : Bid) (crew m : Nat) (set : Dword) : State :=
  (s.blockedAt c b crew m set).foldl (fun s t => s.wakeNext c t) s

/-- The home-lane order of a crew (R171). -/
def laneOrder (width : Nat) : List Nat :=
  if width = 64 then (List.range 32).flatMap fun i => [i, i + 32] else List.range width

/-! ## Arrival and completion (R177, R178, R181) -/

/-- The arrival of a thread at a mask, once its earlier accesses are performed: a thread removed meanwhile passes through
(R177). -/
def State.arrive (s : State) (c t : Nat) (th : Thread) (m : Nat) (val : Word) (p : Bool) : State :=
  let k := s.mask th.bid th.crew m
  if !k.mem.getLsbD th.tid then s.wake c t
  else
    (s.setMask th.bid th.crew m { k with arr := k.arr ||| tidBit th.tid, dep := FMap.put k.dep th.tid { v := val, p := p } }).mapThread c t
      fun x => { x with status := .blocked (.mask m) }

/-- Whether a mask completes: its membership is not empty and every member has arrived (R178). -/
def Mask.complete (k : Mask) : Bool := k.mem != 0 && k.arr &&& k.mem == k.mem

/-- Completes a mask: the threads of the capture become ready in the cycle after (R178). -/
def State.completeMask (s : State) (c : Nat) (b : Bid) (crew m : Nat) : State :=
  let k := s.mask b crew m
  let cdep := k.dep.foldl (fun d e => if k.arr.getLsbD e.1 then FMap.put d e.1 e.2 else d) k.cdep
  (s.setMask b crew m { k with cap := k.arr, cdep := cdep, arr := 0 }).releaseNext c b crew m k.arr

/-- The test of one mask after a cycle's actions. -/
def State.testMask (s : State) (c : Nat) (b : Bid) (crew m : Nat) : State :=
  if (s.mask b crew m).complete then s.completeMask c b crew m else s

/-- Withdraws a thread's arrival and deposit, and takes RDV_DEADLOCK at its WAIT (R181). -/
def State.deadlockThread (s : State) (c : Nat) (e : Nat × Thread) : State :=
  match e.2.status with
  | .blocked (.mask m) =>
    let k := s.mask e.2.bid e.2.crew m
    (s.setMask e.2.bid e.2.crew m { k with arr := k.arr &&& ~~~(tidBit e.2.tid), dep := FMap.del k.dep e.2.tid }).takeFault
      c e.1 (Flt.plain fRdvDeadlock) e.2.wsite
  | _ => s

/-- Whether every live thread of a crew is blocked at a mask, none halted, and none of its masks is complete (R181). -/
def State.deadlocked (s : State) (c : Nat) (b : Bid) (crew : Nat) : Bool :=
  let live := (s.crewThreads c b crew).filter fun e => !e.2.exitedB
  !live.isEmpty && live.all (fun e => !e.2.halted && (match e.2.status with | .blocked (.mask _) => true | _ => false)) &&
    (List.range 12).all fun m => !(s.mask b crew m).complete

/-- The tests that end a cycle for one crew: completions, then deadlock. -/
def State.settleCrew (s : State) (c : Nat) (b : Bid) (crew : Nat) : State :=
  let s1 := (List.range 12).foldl (fun s m => s.testMask c b crew m) s
  if s1.deadlocked c b crew then (s1.crewThreads c b crew).foldl (fun s e => s.deadlockThread c e) s1 else s1

/-- The crews of a core. -/
def State.crewsOf (s : State) (c : Nat) : List (Bid × Nat) := ((s.core c).threads.map fun e => (e.2.bid, e.2.crew)).eraseDups

/-- The tests that end a cycle for the masks of a core (R176). -/
def State.settleMasks (s : State) (c : Nat) : State :=
  (s.crewsOf c).foldl (fun s e => s.settleCrew c e.1 e.2) s

/-- Removes a thread from every mask at EXIT, with its deposits (R180). -/
def State.leaveMasks (s : State) (th : Thread) : State :=
  (List.range 12).foldl (fun s m =>
    let k := s.mask th.bid th.crew m
    s.setMask th.bid th.crew m
      { k with mem := k.mem &&& ~~~(tidBit th.tid), arr := k.arr &&& ~~~(tidBit th.tid), dep := FMap.del k.dep th.tid }) s

/-! ## Membership -/

/-- JOIN (R174). -/
def execJoin (x : MaskArgs) (s : State) : Out :=
  runThread x.g (checked [] fun _ _ th s =>
    let k := s.mask th.bid th.crew x.m.toNat
    .ok (s.setMask th.bid th.crew x.m.toNat { k with mem := k.mem ||| tidBit th.tid })) s

/-- LEAVE (R174): completion is tested when the cycle's actions are done (R176). -/
def execLeave (x : MaskArgs) (s : State) : Out :=
  runThread x.g (checked [] fun _ _ th s =>
    let k := s.mask th.bid th.crew x.m.toNat
    .ok (s.setMask th.bid th.crew x.m.toNat
      { k with mem := k.mem &&& ~~~(tidBit th.tid), arr := k.arr &&& ~~~(tidBit th.tid) })) s

/-- MSET (R175): blocked threads left out are released alone, as non-members. -/
def execMset (x : MsetArgs) (s : State) : Out :=
  runThread x.g (checked [sp2 x.r] fun c _ th s =>
    let new := th.pair x.r.toNat &&& s.liveMask c th.bid th.crew
    let k := s.mask th.bid th.crew x.m.toNat
    .ok ((s.setMask th.bid th.crew x.m.toNat { k with mem := new, arr := k.arr &&& new }).releaseAt c th.bid th.crew x.m.toNat (~~~new))) s

/-- MSET.rd (R175). -/
def execMsetRd (x : MsetArgs) (s : State) : Out :=
  runThread x.g (checked [sp2 x.r] fun c t th s =>
    .ok (s.setThread c t (th.setPair x.r.toNat (s.mask th.bid th.crew x.m.toNat).mem))) s

/-- WAIT with a deposit (R177): a non-member passes; a member arrives once its earlier accesses are performed (log entry 24). -/
def waitAt (m : Nat) (val : Word) (p : Bool) : Body := fun c t th s =>
  if !(s.mask th.bid th.crew m).mem.getLsbD th.tid then .ok s
  else
    let th1 := { th with wsite := s.site c th, status := .blocked (.maskPre m val p) }
    let s1 := s.setThread c t th1
    .ok (if th.accessesDone then s1.arrive c t th1 m val p else s1)

/-- WAIT (R177). -/
def execWait (x : MaskArgs) (s : State) : Out := runThread x.g (checked [] (waitAt x.m.toNat 0 false)) s

/-- WAIT.put (R177). -/
def execWaitPut (x : WaitPutArgs) (s : State) : Out :=
  runThread x.g (checked [sp1 x.a] fun c t th s => waitAt x.m.toNat (th.reg x.a.toNat) (th.psrc x.p) c t th s) s

/-! ## Exchange (R182 to R186) -/

/-- Arrived members of a mask (R182). -/
def Mask.arrived (k : Mask) : Dword := k.cap &&& k.mem

/-- Absent members of a mask (R182). -/
def Mask.absent (k : Mask) : Dword := k.mem &&& ~~~k.cap

/-- A captured deposit. -/
def Mask.captured (k : Mask) (t : Nat) : Deposit := FMap.getD k.cdep t { v := 0, p := false }

/-- The source thread of XSHF (R183). -/
def shfSource (mode : ShfMode) (tid width : Nat) (v : Word) : Int :=
  match mode with
  | .at => v.toNat
  | .off => (tid : Int) + v.toInt
  | .wrap => ((tid : Int) + v.toInt) % width
  | .xor => ((BitVec.ofNat 32 tid) ^^^ v).toNat

/-- XSHF (R183). -/
def execXshf (x : XshfArgs) (s : State) : Out :=
  runThread x.g (checked [sp1 x.d, sp1 x.b] fun c t th s =>
    let k := s.mask th.bid th.crew x.m.toNat
    let src := shfSource x.mode th.tid th.width (th.reg x.b.toNat)
    let hit := decide (0 ≤ src) && decide (src < th.width) && k.arrived.getLsbD src.toNat
    .ok (s.setThread c t
      ((th.setReg x.d.toNat (if hit then (k.captured src.toNat).v else 0)).setPred x.pd.toNat hit))) s

/-- One step of XRED on two values (R184). -/
def redStep (op : RedOp) (t : RedType) (sat : Bool) (a b : Word) : Word :=
  match t with
  | .f32 =>
    match op with
    | .add => BitVec.ofNat 32 (fAdd .f32 .rn false a.toNat b.toNat)
    | .min => BitVec.ofNat 32 (fMinMax .f32 false a.toNat b.toNat)
    | .max => BitVec.ofNat 32 (fMinMax .f32 true a.toNat b.toNat)
    | .and => a &&& b
    | .or => a ||| b
    | .xor => a ^^^ b
  | .i32 =>
    match op with
    | .add => BitVec.ofNat 32 (narrow .i32 sat (a.toInt + b.toInt))
    | .min => if a.toInt ≤ b.toInt then a else b
    | .max => if a.toInt ≤ b.toInt then b else a
    | .and => a &&& b
    | .or => a ||| b
    | .xor => a ^^^ b
  | .n32 =>
    match op with
    | .add => BitVec.ofNat 32 (narrow .n32 sat ((a.toNat : Int) + b.toNat))
    | .min => if a ≤ b then a else b
    | .max => if a ≤ b then b else a
    | .and => a &&& b
    | .or => a ||| b
    | .xor => a ^^^ b

/-- The value of XRED over the arrived members in home-lane order (R184). -/
def Mask.reduce (k : Mask) (width : Nat) (op : RedOp) (t : RedType) (sat : Bool) : Word :=
  match ((laneOrder width).filter fun i => k.arrived.getLsbD i).map fun i => (k.captured i).v with
  | [] => 0
  | v :: vs => vs.foldl (redStep op t sat) v

/-- XRED (R184). -/
def execXred (x : XredArgs) (s : State) : Out :=
  runThread x.g (checked [sp1 x.d] fun c t th s =>
    .ok (s.setThread c t (th.setReg x.d.toNat ((s.mask th.bid th.crew x.m.toNat).reduce th.width x.op x.t x.sat)))) s

/-- The arrived members whose captured predicate is 1 (R185). -/
def Mask.ballot (k : Mask) : Dword :=
  (List.range 64).foldl (fun v i => if k.arrived.getLsbD i && (k.captured i).p then v ||| tidBit i else v) 0

/-- The result of XVOTE (R185). -/
def Mask.vote (k : Mask) : VoteMode → Bool
  | .all => k.ballot == k.arrived
  | .any => k.ballot != 0
  | .same => k.ballot == k.arrived || k.ballot == 0

/-- XVOTE (R185). -/
def execXvote (x : XvoteArgs) (s : State) : Out :=
  runThread x.g (checked [sp2 x.e] fun c t th s =>
    let k := s.mask th.bid th.crew x.m.toNat
    .ok (s.setThread c t ((th.setPred x.pd.toNat (k.vote x.mode)).setPair x.e.toNat k.absent))) s

/-- XBAL (R185). -/
def execXbal (x : XbalArgs) (s : State) : Out :=
  runThread x.g (checked [sp2 x.d, sp2 x.e] fun c t th s =>
    let k := s.mask th.bid th.crew x.m.toNat
    .ok (s.setThread c t ((th.setPair x.d.toNat k.ballot).setPair x.e.toNat k.absent))) s

end Sys2Proof.Machine
end

