-- ==== Sys2Proof/Machine/Packet.lean ====
section
/-! DEFINITION. Checksums and digests (CRC-32C of R340; SHA3-256 of R297, R370, R396), and the packets of the fabric as bytes
(R340). -/

namespace Sys2Proof.Machine

/-! ## CRC-32C (R340) -/

def crcBit (c : Word) : Word := if c.getLsbD 0 then (c >>> 1) ^^^ 0x82F63B78 else c >>> 1

def crcByte (c : Word) (b : Byte) : Word :=
  (List.range 8).foldl (fun c _ => crcBit c) (c ^^^ b.setWidth 32)

/-- CRC-32C of a byte string. -/
def crc32c (bs : List Byte) : Word := ~~~(bs.foldl crcByte 0xFFFFFFFF)

/-! ## SHA3-256 (FIPS 202): the state as five planes of five lanes -/

abbrev Plane := List Dword

/-- A plane moved by k places: its lane x is the plane's lane x + k. -/
def Plane.moved (p : Plane) (k : Nat) : Plane := p.drop k ++ p.take k

/-- The sum of two planes. -/
def Plane.plus (p q : Plane) : Plane := List.zipWith (· ^^^ ·) p q

def Plane.zero : Plane := List.replicate 5 0

/-- Theta: every lane takes the parities of the columns beside it. -/
def theta (a : List Plane) : List Plane :=
  let parity := a.foldl Plane.plus Plane.zero
  let beside := List.zipWith (fun (l r : Dword) => l ^^^ r.rotateLeft 1) (Plane.moved parity 4) (Plane.moved parity 1)
  a.map (Plane.plus beside)

/-- The walk over the lanes by which rho counts its offsets, from (1, 0). -/
def rhoWalk : Nat → Nat × Nat
  | 0 => (1, 0)
  | t + 1 => ((rhoWalk t).2, (2 * (rhoWalk t).1 + 3 * (rhoWalk t).2) % 5)

/-- The offset of a lane: the t-th step of the walk has the triangular number of t + 1. -/
def rhoOffset (x y : Nat) : Nat :=
  match (List.range 24).find? fun t => rhoWalk t == (x, y) with
  | some t => (t + 1) * (t + 2) / 2 % 64
  | none => 0

/-- Rho and pi: where each lane comes from, and by how much it turns. -/
def rhoPiFrom : List (List (Nat × Nat × Nat)) :=
  (List.range 5).map fun y => (List.range 5).map fun x => ((x + 3 * y) % 5, x, rhoOffset ((x + 3 * y) % 5) x)

def rhoPi (a : List Plane) : List Plane :=
  rhoPiFrom.map fun row => row.map fun e => ((a.getD e.2.1 []).getD e.1 0).rotateLeft e.2.2

/-- Chi. -/
def chi (a : List Plane) : List Plane :=
  a.map fun p => p.plus (List.zipWith (fun u v => ~~~u &&& v) (p.moved 1) (p.moved 2))

/-- The shift register of iota: x^8 + x^6 + x^5 + x^4 + 1. -/
def iotaNext (r : Byte) : Byte := if r.getLsbD 7 then (r <<< 1) ^^^ 0x71 else r <<< 1

/-- The constant of a round, whose bits 2^j - 1 the register gives, and the register after it. -/
def iotaConst (r : Byte) : Dword × Byte :=
  (List.range 7).foldl (fun acc j => (if acc.2.getLsbD 0 then acc.1 ||| (1 <<< (2 ^ j - 1)) else acc.1, iotaNext acc.2)) (0, r)

def addConst (c : Dword) : List Plane → List Plane
  | (v :: vs) :: ps => ((v ^^^ c) :: vs) :: ps
  | a => a

/-- `n` rounds, with the register that iota's next constant comes from. -/
def keccak : Nat → Byte → List Plane → List Plane
  | 0, _, a => a
  | n + 1, r, a => keccak n (iotaConst r).2 (addConst (iotaConst r).1 (chi (rhoPi (theta a))))

/-- The lanes of a block of 136 bytes, the capacity's lanes zero, as planes. -/
def blockPlanes (block : List Byte) : List Plane :=
  (List.range 5).map fun y => (List.range 5).map fun x => BitVec.ofNat 64 (leNat ((block.drop (8 * (5 * y + x))).take 8))

/-- Absorbs `n` blocks. -/
def absorbed (m : List Byte) : Nat → List Plane → List Plane
  | 0, a => a
  | n + 1, a => absorbed (m.drop 136) n (keccak 24 1 (List.zipWith Plane.plus a (blockPlanes (m.take 136))))

/-- The suffix and padding of SHA3 that fill the last block's `q` bytes. -/
def sha3Tail (q : Nat) : List Byte :=
  (List.range q).map fun i => (if i = 0 then 0x06 else 0) ||| (if i + 1 = q then 0x80 else 0)

/-- SHA3-256: the first four lanes. -/
def sha3 (m : List Byte) : List Byte :=
  let p := m ++ sha3Tail (136 - m.length % 136)
  let out := absorbed p (p.length / 136) (List.replicate 5 Plane.zero)
  (((out.getD 0 []).take 4).map BitVec.toNat).flatMap (leBytes 8)

/-! ## Packets (R340) -/

/-- KIND values. -/
def kRequest : Byte := 1
def kResponse : Byte := 2
def kChunk : Byte := 3
def kHeartbeat : Byte := 5
def kNotice : Byte := 6
def kStripe : Byte := 7

/-- Operations of a request (OPCODE [7:0]). -/
def oRead : Nat := 0
def oWrite : Nat := 1
def oAtomic : Nat := 2
def oReduce : Nat := 3
def oCas : Nat := 4
def oStripe : Nat := 5

/-- Statuses of a response. -/
def stOk : Nat := 0
def stDup : Nat := 1
def stPerm : Nat := 2
def stAbsent : Nat := 3
def stPoison : Nat := 4

/-- The data flits' count for n bytes. -/
def flitsFor (n : Nat) : BitVec 4 := BitVec.ofNat 4 ((n + 63) / 64)

end Sys2Proof.Machine

namespace Sys2Proof

open Machine

/-- The header's bytes 0x00 to 0x3B with LSEQ zero, as CRC covers them. -/
def Packet.covered (p : Packet) : List Byte :=
  [p.kind, (p.fcls ++ (p.chan ++ p.dcount))] ++ leBytes 2 0 ++ leBytes 2 p.dstdev.toNat ++ leBytes 2 p.srcdev.toNat ++
    leBytes 2 p.pkey.toNat ++ leBytes 2 p.gen.toNat ++ leBytes 4 ((0 : BitVec 2) ++ (p.srcctx ++ p.seq)).toNat ++
    leBytes 4 p.tag.toNat ++ leBytes 4 p.opcode.toNat ++ leBytes 8 p.offset.toNat ++ leBytes 8 p.opb.toNat ++
    leBytes 8 p.opc.toNat ++ leBytes 4 p.opnum.toNat ++ leBytes 4 p.chunk.toNat ++ leBytes 4 p.groupid.toNat

/-- The packet's CRC: over the covered header bytes and every data flit. -/
def Packet.crcOf (p : Packet) : Word := crc32c (p.covered ++ p.data)

def Packet.seal (p : Packet) : Packet := { p with crc := p.crcOf }

/-- Whether a packet's KIND is in the table and its CRC holds (R340). -/
def Packet.sound (p : Packet) : Bool :=
  [1, 2, 3, 5, 6, 7].contains p.kind.toNat && p.crc == p.crcOf

/-- Flits of a packet: the header flit and the data flits (R339). -/
def Packet.flits (p : Packet) : Nat := 1 + p.dcount.toNat

/-- A packet with every field zero. -/
def Packet.blank : Packet :=
  { kind := 0, dcount := 0, chan := 0, fcls := 0, lseq := 0, dstdev := 0, srcdev := 0, pkey := 0, gen := 0, seq := 0,
    srcctx := 0, tag := 0, opcode := 0, offset := 0, opb := 0, opc := 0, opnum := 0, chunk := 0, groupid := 0, crc := 0,
    data := [], port := 36 }

end Sys2Proof
end

