-- ==== Sys2Proof/Machine/Remote.lean ====
section
/-! DEFINITION. Issuing class L operations and parking (R78, R202, R400); sending packets and remote requests (R342 to R348,
R387, R388). -/

namespace Sys2Proof.Machine

/-! ## Issue of a class L operation (R78, R400) -/

/-- The clause run that a thread has begun, and the position of its instruction. -/
def State.runOf (s : State) (c : Nat) (th : Thread) : Nat × Nat :=
  (th.crun.getD 0, ((s.gangOf c th).map fun g => g.index).getD 0)

/-- The scope at which an access is performed: `.sys` at host memory, whatever the instruction names (R191). -/
def OpKind.scopeAt (k : OpKind) (sc : Scope) : Scope :=
  match k.place with
  | some (.host _, _) => .sys
  | _ => sc

/-- Enters an operation in flight, to be performed at a scope, and counts its flag (R400). -/
def State.issueAt (s : State) (c t : Nat) (th : Thread) (flag : Option Nat) (k : OpKind) (acc : Acc) (sc : Scope) : State :=
  let r := s.runOf c th
  let th1 : Thread :=
    match flag with
    | some i => th.setFlag i (th.flagCount i + 1)
    | none => th
  s.nextUid.setThread c t
    { th1 with ops := th1.ops ++ [{ uid := s.uid, clause := r.1, gang := ((s.gangOf c th).map fun g => g.id).getD 0, index := r.2,
                                    sc := k.scopeAt sc, flag := flag, kind := k, acc := acc }] }

/-- The same at the scope that the access names. -/
def State.issueOp (s : State) (c t : Nat) (th : Thread) (flag : Option Nat) (k : OpKind) (acc : Acc) : State :=
  s.issueAt c t th flag k acc acc.scope

/-- The body of a class L instruction: its flag is found under the clause's header first (R78, R88). -/
def classL (h : LHdr) (spans : List (Nat × Nat)) (body : Option Nat → Body) (s : State) : Out :=
  runThread h.g (fun c t th s =>
    match slotFlag (((s.gangOf c th).map Gang.header).getD 0) h.flag with
    | .error f => .error f
    | .ok fl => checked spans (body fl) c t th s) s

/-- An instruction of class L that needs an absent feature raises ILLEGAL_OP or ILLEGAL_FIELD before its flag is
looked at (R88, R392). -/
def gated (g : BitVec 4) (cond : Bool) (n code : Nat) (s : State) (k : State → Out) : Out :=
  if cond && s.lacksFeature n then runThread g (fun _ _ _ _ => .error (Flt.plain code)) s else k s

/-! ## Sending packets (R339 to R344, R387) -/

def State.port (s : State) (p : Nat) : Port := FMap.getD s.fab.ports p Port.reset

def State.setPort (s : State) (p : Nat) (x : Port) : State := { s with fab := { s.fab with ports := FMap.put s.fab.ports p x } }

/-- Counts a port event (R416). -/
def State.portBump (s : State) (p i by_ : Nat) : State :=
  { s with portCtr := FMap.put s.portCtr (6 * p + i) ((FMap.getD s.portCtr (6 * p + i) 0 + by_) % 2 ^ 64) }

/-- Flits that wait or stand unacknowledged at a port (R344). -/
def State.queuedFlits (s : State) (p : Nat) : Nat :=
  ((s.port p).unacked.map Packet.flits).foldl (· + ·) 0 +
    ((s.fab.heldBack.filter fun e => e.1 == p).map fun e => e.2.flits).foldl (· + ·) 0

/-- The usable ports of a destination, by path number (R387). -/
def State.pathsTo (s : State) (dev : Half) : List Nat :=
  (List.range 8).filterMap fun j =>
    let b := FMap.getD s.tables.routeAct (8 * (dev.toNat / 64) + j) 0
    let p := b.toNat % 64
    if b.getLsbD 7 && decide (p < Config.nPorts) && !s.tables.portDown.getLsbD p then some p else none

/-- The path whose queue holds the fewest flits, ties to the lowest path number (R344). -/
def State.choosePort (s : State) (dev : Half) : Option Nat :=
  (s.pathsTo dev).foldl (fun best p =>
    match best with
    | none => some p
    | some q => if s.queuedFlits p < s.queuedFlits q then some p else some q) none

/-- The uncredited-flit limit of a channel (R339, R342). -/
def Port.limit (x : Port) (ch : Nat) : Nat := if ch = 3 then 16 else x.limits.getD ch 0

/-- Whether a packet fits its channel whole, on a port that is trained (R342). -/
def Port.fits (x : Port) (p : Packet) : Bool := x.trained && decide (x.inUse.getD p.chan.toNat 0 + p.flits ≤ x.limit p.chan.toNat)

/-- Sends a packet on a port: it takes the next link sequence number and is kept until it is acknowledged (R341). -/
def State.transmit (s : State) (n : Nat) (p : Packet) : State :=
  let x := s.port n
  let q := { p with lseq := x.txSeq }
  let s1 := s.setPort n
    { x with txSeq := x.txSeq + 1, unacked := x.unacked ++ [q],
             inUse := x.inUse.set p.chan.toNat (x.inUse.getD p.chan.toNat 0 + p.flits) }
  ({ s1 with fab := { s1.fab with outbox := s1.fab.outbox ++ [q] } }).portBump n 0 p.flits

/-- The mark of a packet that waits at egress with no usable path (R387). -/
def noPort : Nat := Config.nPorts

/-- The FABID of a device that has none yet (R109). -/
def noFabid : Half := 0xFFFF

/-- Whether the device may send or answer a packet: without a FABID, heartbeats and notices alone (R394). -/
def State.mayTalk (s : State) (kind : Byte) : Bool := s.tables.fabid != noFabid || kind == kHeartbeat || kind == kNotice

/-- Sends a packet (R344, R387): to this device's own identity it does not leave; with no path it waits at egress; beyond a
channel's limit it waits at its port. -/
def State.sendPacket (s : State) (p : Packet) : State :=
  let q := p.seal
  if !s.mayTalk q.kind then s
  else if q.dstdev == s.tables.fabid then { s with fab := { s.fab with loopback := s.fab.loopback ++ [q] } }
  else
    match s.choosePort q.dstdev with
    | none => { s with fab := { s.fab with heldBack := s.fab.heldBack ++ [(noPort, q)] } }
    | some n =>
      if (s.port n).fits q && s.fab.heldBack.all (fun e => !(e.1 == n && e.2.chan == q.chan)) then s.transmit n q
      else { s with fab := { s.fab with heldBack := s.fab.heldBack ++ [(n, q)] } }

/-- Tries every packet that waits at egress again, channel 3 first (R339, R342). -/
def State.flushHeld (s : State) : State :=
  let l := s.fab.heldBack
  let again := l.filter (fun e => e.2.chan == 3) ++ l.filter fun e => e.2.chan != 3
  let s0 := { s with fab := { s.fab with heldBack := [] } }
  again.foldl (fun s e =>
    if e.1 = noPort then s.sendPacket e.2
    else if (s.port e.1).fits e.2 && s.fab.heldBack.all (fun x => !(x.1 == e.1 && x.2.chan == e.2.chan)) then s.transmit e.1 e.2
    else { s with fab := { s.fab with heldBack := s.fab.heldBack ++ [e] } }) s0

/-- The next sequence number of a flow (R343). -/
def State.flowNext (s : State) (dev : Half) (ctx cls : Nat) : BitVec 24 × State :=
  let k := (dev, ctx, cls)
  let v := (((s.fab.flowSeq.find? fun e => e.1 == k).map Prod.snd).getD 0)
  (v, { s with fab := { s.fab with flowSeq := (k, v + 1) :: s.fab.flowSeq.filter fun e => e.1 != k } })

/-! ## Partition keys at egress (R346, R388) -/

def State.egress (s : State) (ctx : Nat) : Egress := FMap.getD s.tables.egress ctx Egress.reset

/-- Whether a context's key admits a destination. -/
def State.egressOk (s : State) (ctx : Nat) (dev : Half) : Bool :=
  let e := s.egress ctx
  e.valid && e.dmask.getLsbD (dev.toNat / 64)

/-- Whether the bucket of a context holds back `n` more bytes (R388; log entry 6). A packet that alone exceeds BURST is sent when nothing has
been sent since the last release (DESIGN CHOICE, log entry 108). -/
def State.rateHolds (s : State) (ctx n : Nat) : Bool :=
  let e := s.egress ctx
  let b := (s.ctx ctx).sentBytes
  e.rate != 0 && b != 0 && decide (1024 * e.burst.toNat < b + n)

/-- Counts bytes sent against a context's bucket. -/
def State.charge (s : State) (ctx n : Nat) : State :=
  if (s.egress ctx).rate == 0 then s else s.setCtx ctx { s.ctx ctx with sentBytes := (s.ctx ctx).sentBytes + n }

/-- Sends a packet of a context against its rate, or holds it behind those that wait (R346, R388). -/
def State.sendRated (s : State) (ctx : Nat) (p : Packet) : State :=
  if s.rateHolds ctx (64 * p.flits) || s.fab.rated.any (fun e => e.1 == ctx) then
    { s with fab := { s.fab with rated := s.fab.rated ++ [(ctx, p)] } }
  else (s.charge ctx (64 * p.flits)).sendPacket p

/-- The bucket of a context allows traffic again (R388): what waits for its rate is sent as far as it goes. -/
def State.refill (s : State) (ctx : Nat) : State :=
  let mine := s.fab.rated.filter fun e => e.1 == ctx
  let s1 := { s.setCtx ctx { s.ctx ctx with sentBytes := 0 } with fab := { s.fab with rated := s.fab.rated.filter fun e => e.1 != ctx } }
  mine.foldl (fun s e => s.sendRated ctx e.2) s1

/-- The lowest valid ingress entry under a key (R388). -/
def State.ingressOf (s : State) (key : Half) : Option Ingress :=
  (List.find? (fun (e : Nat × Ingress) => e.2.valid && e.2.pkey == key) s.tables.ingress).map Prod.snd

/-- The device at a rank of the active bank (R386). -/
def State.deviceAt (s : State) (rank : Nat) : Option Half :=
  match FMap.find? s.tables.rankAct rank with
  | some d => if d = 0xFFFF then none else some d
  | none => none

/-! ## Remote operations (R348) -/

/-- A remote request: its operation, OP, type code, ORD, operands, size and access kind. -/
structure RemReq where
  op : Nat
  aop : Nat
  ty : Nat
  order : Ord4
  opb : Dword
  opc : Dword
  n : Nat
  kind : Nat
  dest : Option (Nat × IType)
  deriving DecidableEq, Repr

def RemReq.opcode (r : RemReq) : Word := BitVec.ofNat 32 (r.op + 256 * r.aop + 4096 * r.ty + 65536 * r.order.code)

/-- The access that a remote operation's fault registers describe (R348). -/
def remAcc (ea : Dword) (n kind : Nat) : Acc := { space := .glb, scope := .pod, ea := ea, size := log2Size n, kind := kind }

/-- Where an ordered remote access to this device itself will be performed: its accesses keep the order of R227 with the thread's
others. -/
def State.ownPlace (s : State) (th : Thread) (dev : Half) (off : Dword) (n : Nat) : Option (Tgt × Nat) :=
  if th.unord || dev != s.tables.fabid then none
  else
    match s.ingressOf (s.egress th.ctx).pkey with
    | none => none
    | some e =>
      match s.walk e.ctx (e.exb + off).toNat with
      | .leaf l => some (leafTgt l (e.exb + off).toNat, n)
      | _ => none

/-- Whether a remote access must wait for an earlier operation of its thread: an acquire, or for a release any access (R231, R240), and
an access to the same place (R227). -/
def Thread.remoteWaits (th : Thread) (r : RemReq) (place : Option (Tgt × Nat)) : Bool :=
  th.ops.any fun o =>
    o.kind.acquire || (releases r.order && o.kind.access) ||
    (match place, o.kind with
     | some _, .remote .. => false
     | some p, k => (match k.place with | some q => overlaps p q | none => false)
     | none, _ => false)

/-- Unacknowledged packets of an ordered flow (R344). -/
def State.unacked (s : State) (dev : Half) (ctx : Nat) : Nat :=
  (s.fab.pending.filter fun p => p.pkt.dstdev == dev && p.pkt.srcctx.toNat == ctx && p.pkt.fcls == 0).length

/-- Builds and sends the request of a thread (R343, R348). -/
def State.sendRequest (s : State) (c t : Nat) (th : Thread) (dev : Half) (off : Dword) (r : RemReq) (acc : Acc) : State :=
  let cls : Nat := if th.unord then 1 else 0
  let f := s.flowNext dev th.ctx cls
  let p : Packet :=
    { Packet.blank with
      kind := kRequest, chan := 0, fcls := BitVec.ofNat 2 cls, dstdev := dev, srcdev := s.tables.fabid,
      pkey := (s.egress th.ctx).pkey, seq := f.1, srcctx := BitVec.ofNat 6 th.ctx, tag := BitVec.ofNat 32 s.fab.nextTag,
      opcode := r.opcode, offset := off, opb := r.opb, opc := r.opc }
  let s1 := f.2
  let s2 : State :=
    { s1 with fab := { s1.fab with nextTag := s1.fab.nextTag + 1,
                                   pending := s1.fab.pending ++ [{ tag := p.tag.toNat, pkt := p.seal, core := c, slot := t, acc := acc }] } }
  (s2.charge th.ctx (64 * p.flits)).sendPacket p

/-- The issue of a remote operation (R348): the fault, the hold of R346, the hold until the earlier accesses that it follows are
performed, or the request sent with the operation entered
in flight under its tag; `park` also parks the thread until the reply (R349). -/
def remoteIssue (ea : Dword) (r : RemReq) (flag : Option Nat) (park : Bool) : Body := fun c t th s =>
  let acc := remAcc ea r.n r.kind
  if ea.toNat % r.n ≠ 0 then .error (Flt.acc fMisaligned acc)
  else if !canonical ea then .error (Flt.acc fXlateNoncanon acc)
  else if !inAperture ea then .error (Flt.acc fXlatePerm acc)
  else
    match s.deviceAt (ea.extractLsb' 38 13).toNat with
    | none => .error (Flt.acc fXlateAbsent acc)
    | some dev =>
      if !s.egressOk th.ctx dev then .error (Flt.acc fXlatePerm acc)
      else if th.remoteWaits r (s.ownPlace th dev ((ea.extractLsb' 0 38).setWidth 64) r.n) then .ok (s.parkAt c t th .rate (s.site c th))
      else if s.rateHolds th.ctx 64 || (!th.unord && decide (256 ≤ s.unacked dev th.ctx)) then
        .ok (s.parkAt c t th .rate (s.site c th))
      else
        let tag := s.fab.nextTag % 2 ^ 32
        let s1 := s.sendRequest c t th dev ((ea.extractLsb' 0 38).setWidth 64) r acc
        let th1 := if park then { th with wsite := s.site c th, status := .parked (.rld tag) } else th
        .ok (s1.issueOp c t th1 flag (.remote tag r.dest r.order (s.ownPlace th dev ((ea.extractLsb' 0 38).setWidth 64) r.n)) acc)

end Sys2Proof.Machine
end

