-- ==== Sys2Proof/Machine/Memory.lean ====
section
/-! DEFINITION. Memory instructions: loads, stores, prefetch, cache control, atomics, tagged reduce-stores and copies (R187 to
R222), the staging log (R410), and the operations that perform them. -/

namespace Sys2Proof.Machine

/-! ## Buffers of a block (R187, R192) -/

/-- The part of a block that lies on a core: 0 on the even or only core, 1 on the odd core of a twin. -/
def Block.half (b : Block) (c : Nat) : Nat := c - b.core

/-- The allocation of a space. -/
def Desc.alloc (d : Desc) : Space → Nat
  | .loc => d.loc
  | .wbuf => d.wbuf
  | .abuf => d.abuf
  | .cbuf => d.cbuf
  | .glb | .prv => 0

def Bufs.space (b : Bufs) : Space → Store
  | .wbuf => b.wbuf
  | .abuf => b.abuf
  | _ => b.cbuf

def Bufs.setSpace (b : Bufs) (sp : Space) (m : Store) : Bufs :=
  match sp with
  | .wbuf => { b with wbuf := m }
  | .abuf => { b with abuf := m }
  | _ => { b with cbuf := m }

/-- A buffer of a block as a core reaches it; `loc` is one space over both cores of a twin. -/
def Block.store (b : Block) (half : Nat) (sp : Space) : Store :=
  if sp == .loc then b.loc else (FMap.getD b.bufs half Bufs.empty).space sp

def Block.setStore (b : Block) (half : Nat) (sp : Space) (m : Store) : Block :=
  if sp == .loc then { b with loc := m }
  else { b with bufs := FMap.put b.bufs half ((FMap.getD b.bufs half Bufs.empty).setSpace sp m) }

def State.alloc (s : State) (b : Bid) (sp : Space) : Nat := ((s.block? b).map fun k => k.desc.alloc sp).getD 0

/-- The engine permission table (R195, R390). -/
def enginePerm : Space → BitVec 10
  | .loc => 0x00F
  | .wbuf => 0x035
  | .abuf => 0x33F
  | .cbuf => 0x3E9
  | _ => 0

/-! ## Reads and writes of device memory (R196, R199, R219, R276, R380) -/

/-- Cached translations derived from the page-table lines that `n` bytes at `pa` touch, at any level, are dropped (R380). -/
def State.purge (s : State) (pa n : Nat) : State :=
  let hit (e : Nat) := linesMeet e 8 pa n
  { s with tlb := s.tlb.filter (fun e => !(hit e.entry || e.upper.any hit)),
           walkers := s.walkers.map fun w => (w.1, w.2.filter fun e => !hit e) }

/-- Whether a byte of device memory is the CFG word of a command queue page (R276). -/
def isCfgByte (pa : Nat) : Bool := decide (pa < 128 * 65536) && decide (8 ≤ pa % 65536) && decide (pa % 65536 < 16)

/-- What a queue's CFG stores of a written value: reserved bits 0, LOGSIZE at the nearer limit (R276). -/
def cfgStored (v : Nat) : Nat := v / 64 % 1024 * 64 + min (max (v % 32) 8) 24

/-- EN of a CFG value. -/
def cfgEn (v : Nat) : Bool := v.testBit 15

/-- Whether a byte of device memory is reserved in a command queue page: STAT[31:8], or a byte from 0x28 to 0x3F (R276). It reads zero, and
ignores writes (R11). -/
def isPageZero (pa : Nat) : Bool :=
  let o := pa % 65536
  decide (pa < 128 * 65536) && ((decide (0x21 ≤ o) && decide (o < 0x24)) || (decide (0x28 ≤ o) && decide (o < 0x40)))

/-- Whether a byte of device memory is reserved in the diversion pool page (R383): one outside its four words and its two rings. It reads zero,
and ignores writes (R11). -/
def isPoolZero (pa : Nat) : Bool :=
  let o := pa - 0x800000
  decide (0x800000 ≤ pa) && ((decide (0x20 ≤ o) && decide (o < 0x4000)) || (decide (0xC000 ≤ o) && decide (o < 0x10000)))

/-- A word of a command queue page (R276). -/
def State.page (s : State) (q off : Nat) : Nat := s.mem.readNat (65536 * q + off) 8

/-- A write to a queue's CFG is stored, and takes effect when EN changes from 0 to 1: the Lantern begins at RPTR (R277). -/
def State.cfgWritten (s : State) (q : Nat) : State :=
  let v := cfgStored (s.page q 8)
  let s1 := { s with mem := s.mem.putBytes (65536 * q + 8) (leBytes 8 v) }
  let x := s1.lq q
  if x.en == cfgEn v then s1
  else s1.setLq q { LQ.reset with en := cfgEn v, cfg := BitVec.ofNat 64 v, pos := .ring (s1.page q 0x18) }

/-- The queues whose CFG word shares a byte with `n` bytes at `pa`. -/
def cfgTouched (pa n : Nat) : List Nat :=
  ((List.range (n / 65536 + 2)).map (pa / 65536 + ·)).filter fun q =>
    decide (q < Config.nQueues) && decide (65536 * q + 8 < pa + n) && decide (pa < 65536 * q + 16)

/-- What a write stores in a byte: reserved bytes of queue pages and of the pool page stay zero, and a queue's CFG word keeps its bytes
unless the host or a Lantern writes it (R276, R277, R383). RPTR and STAT, of which R276 names other writers too, take what is written
(DESIGN CHOICE, log entry 106). -/
def State.storedByte (s : State) (privileged : Bool) (pa : Nat) (b : Byte) : Byte :=
  if isPageZero pa || isPoolZero pa then 0 else if !privileged && isCfgByte pa then s.mem.get pa else b

/-- A write performed at the home slice: bytes, and the offsets among them that are poisoned. -/
def State.devWrite (s : State) (pa : Nat) (bs : List Byte) (bad : List Nat) (privileged : Bool) : State :=
  let bs' := bs.mapIdx fun i b => s.storedByte privileged (pa + i) b
  let s0 := s.l2Write pa bs.length
  let s1 := { s0 with mem := s0.mem.writeMarked pa bs' bad, recalls := s0.recalls.filter fun l => !linesMeet pa bs.length (256 * l) 256 }.purge
    pa bs.length
  if privileged then (cfgTouched pa bs.length).foldl State.cfgWritten s1 else s1

/-- The 64-byte line of device memory that holds an address. -/
def State.devLine (s : State) (pa : Nat) : Line :=
  { bytes := s.mem.readBytes (pa / 64 * 64) 64, poison := s.mem.badOffsets (pa / 64 * 64) 64 }

/-- Puts a fresh copy of a line into a core's L1 of 256 sets and 8 ways (R188, R196). -/
def State.l1Fill (s : State) (c pa : Nat) : State :=
  let k := s.core c
  let m := roomFor k.l1 (pa / 64) 8 (Config.freeWay s.fresh) (fun x => x % 256 == pa / 64 % 256) fun _ => true
  (s.setCore c { k with l1 := FMap.put m (pa / 64) (s.devLine pa) }).nextFresh

/-- A copy of a line after `n` bytes at offset `off` have been written: they are as in memory, and a poisoned word that is not wholly
written stays so (R196, R205). -/
def Line.patch (l new : Line) (off n : Nat) : Line :=
  let inside (i : Nat) : Bool := decide (off ≤ i) && decide (i < off + n)
  { bytes := (List.range 64).map fun i => if inside i then new.bytes.getD i 0 else l.bytes.getD i 0,
    poison := (List.range 64).filter fun i =>
      let w := i / 8 * 8
      let touched := (List.range 8).any fun j => inside (w + j)
      let whole := (List.range 8).all fun j => inside (w + j)
      if touched then new.poison.contains i || (!whole && l.poison.contains i) else l.poison.contains i }

/-- Updates the written bytes in the copies that a core's L1 holds of their lines (R196). -/
def State.l1Update (s : State) (c pa n : Nat) : State :=
  (bySector pa n).foldl (fun s e =>
    match FMap.find? (s.core c).l1 (e.1 / 64) with
    | some l => s.setCore c { s.core c with l1 := FMap.put (s.core c).l1 (e.1 / 64) (l.patch (s.devLine e.1) (e.1 % 64) e.2) }
    | none => s) s

/-- A read of `n` bytes where they are kept: the home slice, the host attachment, or a buffer of a block, as core `c` reaches it. The
bytes, the offsets of poisoned ones, and the state. -/
def State.readHome (s : State) (c : Nat) (b : Bid) (t : Tgt) (n : Nat) : List Byte × List Nat × State :=
  match t with
  | .dev pa => (s.mem.readBytes pa n, s.mem.badOffsets pa n, s.l2Read pa n)
  | .host pa => (s.hostMem.readBytes pa n, s.hostMem.badOffsets pa n, s)
  | .buf sp a =>
    match s.block? b with
    | some k => ((k.store (k.half c) sp).readBytes a n, (k.store (k.half c) sp).badOffsets a n, s)
    | none => (List.replicate n 0, [], s)

/-- A thread's read at a place. A narrow read of device memory is served by the L1, which a miss fills from L2; a wide one is served by L2
and refreshes a copy in the L1 (R196). -/
def State.readTgt (s : State) (c : Nat) (b : Bid) (t : Tgt) (n : Nat) (wide : Bool) : List Byte × List Nat × State :=
  match t with
  | .dev pa =>
    let held := (FMap.find? (s.core c).l1 (pa / 64)).isSome
    if wide && !held then s.readHome c b t n
    else
      let s1 := if wide || !held then (s.l2Read (pa / 64 * 64) 64).l1Fill c pa else s
      let l := FMap.getD (s1.core c).l1 (pa / 64) { bytes := [], poison := [] }
      ((l.bytes.drop (pa % 64)).take n, (List.range n).filter fun i => l.poison.contains (pa % 64 + i), s1)
  | _ => s.readHome c b t n

/-- A write where the bytes are kept. -/
def State.writeHome (s : State) (c : Nat) (b : Bid) (t : Tgt) (bs : List Byte) (bad : List Nat) : State :=
  match t with
  | .dev pa => s.devWrite pa bs bad false
  | .host pa => { s with hostMem := s.hostMem.writeMarked pa bs bad }
  | .buf sp a =>
    match s.block? b with
    | some k => s.setBlock (k.setStore (k.half c) sp ((k.store (k.half c) sp).writeMarked a bs bad))
    | none => s

/-- A thread's write at a place: it updates a copy in the L1 (R196). -/
def State.writeTgt (s : State) (c : Nat) (b : Bid) (t : Tgt) (bs : List Byte) (bad : List Nat) : State :=
  match t with
  | .dev pa => (s.writeHome c b t bs bad).l1Update c pa bs.length
  | _ => s.writeHome c b t bs bad

/-- Part k of bytes: 8 of them, with the offsets of poisoned ones (R228). -/
def partAt (bs : List Byte) (bad : List Nat) (k : Nat) : List Byte × List Nat :=
  ((bs.drop (8 * k)).take 8, (bad.filter fun i => i / 8 == k).map (· - 8 * k))

/-- Writes into a buffer the parts of bytes that are not written yet. -/
def Store.writeParts (m : Store) (a : Nat) (bs : List Byte) (bad parts : List Nat) : Store :=
  ((List.range ((bs.length + 7) / 8)).filter fun k => !parts.contains k).foldl
    (fun m k => m.writeMarked (a + 8 * k) (partAt bs bad k).1 (partAt bs bad k).2) m

/-! ## Checks of an access (R202) -/

/-- What the checks of an access answer when they raise nothing; `held` says that the walk has to wait (R237). -/
inductive Chk
  | ok (t : Tgt)
  | held (va : Dword)
  | miss (va : Dword) (kind entry : Nat)
  | divert (va : Dword)
  | aperture
  deriving DecidableEq, Repr

/-- Step 6 of R202 for an address; the fault describes the access. -/
def State.checkXlate (s : State) (ctx : Nat) (acc : Acc) (va : Dword) : Except Flt Chk :=
  if s.walkHeld ctx va then .ok (.held va)
  else
  match s.translate ctx va acc.kind with
  | .ok t => .ok (.ok t)
  | .noncanon => .error (Flt.acc fXlateNoncanon acc)
  | .aperture => .ok .aperture
  | .perm => .error (Flt.acc fXlatePerm acc)
  | .absent => .error (Flt.acc fXlateAbsent acc)
  | .poison => .error (Flt.acc fDataPoison acc)
  | .replay e => .ok (.miss va acc.kind e)
  | .divert => .ok (.divert va)

/-- Steps 2 to 6 of R202 for an access of `n` bytes at an exact address; `perm` names the bits of the engine permission
table that a buffer must have. -/
def State.checkAccess (s : State) (th : Thread) (acc : Acc) (ea : Int) (n : Nat) (perm : BitVec 10) : Except Flt Chk :=
  if ea % n ≠ 0 then .error (Flt.acc fMisaligned acc)
  else
    match acc.space with
    | .glb => s.checkXlate th.ctx acc (BitVec.ofInt 64 ea)
    | .prv =>
      if ea < 0 || (th.prvSize : Int) ≤ ea then .error (Flt.acc fBounds acc)
      else
        match s.checkXlate th.ctx acc (th.prvBase + BitVec.ofInt 64 ea) with
        | .ok .aperture => .error (Flt.acc fXlatePerm acc)
        | r => r
    | sp =>
      if ea < 0 || (s.alloc th.bid sp : Int) ≤ ea then .error (Flt.acc fBounds acc)
      else if perm &&& ~~~(enginePerm sp) != 0 then .error (Flt.acc fBufPerm acc)
      else .ok (.ok (.buf sp ea.toNat))

/-- Issues an access that is performed at scope `sc`: the operation in flight, the park of R202, or the remote operation of R190. -/
def memIssueAt (sc : Scope) (acc : Acc) (ea : Int) (n : Nat) (perm : BitVec 10) (fl : Option Nat) (k : Tgt → OpKind) (rem : Option RemReq) :
    Body :=
  fun c t th s =>
    match s.checkAccess th acc ea n perm with
    | .error f => .error f
    | .ok (.ok tgt) =>
      .ok ((s.accessWalk c th acc).issueAt c t th fl (k tgt) acc sc)
    | .ok (.held va) => .ok (s.noteWalk th.ctx va).stall
    | .ok (.miss va kind e) => .ok (s.parkMiss c t th va kind e (s.site c th))
    | .ok (.divert va) => .ok (s.parkDivert c t th va acc.kind (s.site c th))
    | .ok .aperture =>
      match rem with
      | some r =>
        if s.lacksFeature 6 then .error (Flt.acc fXlatePerm (remAcc acc.ea n acc.kind)) else remoteIssue acc.ea r fl false c t th s
      | none => .error (Flt.acc fXlatePerm acc)

/-- Issues an access at the scope that it names. -/
def memIssue (acc : Acc) (ea : Int) (n : Nat) (perm : BitVec 10) (fl : Option Nat) (k : Tgt → OpKind) (rem : Option RemReq) : Body :=
  memIssueAt acc.scope acc ea n perm fl k rem

/-- The access that an instruction with space, scope, address and size makes. -/
def accOf (sp : Space) (sc : Scope) (ea : Int) (n kind : Nat) : Acc :=
  { space := sp, scope := sc, ea := BitVec.ofInt 64 ea, size := log2Size n, kind := kind }

/-- Whether an effective address names the pod aperture. -/
def apertureEa (sp : Space) (ea : Int) : Bool :=
  sp == .glb && canonical (BitVec.ofInt 64 ea) && inAperture (BitVec.ofInt 64 ea)

/-- The access of a load, a store or an atomic: its scope at the pod aperture is `.pod`, whatever the scope field holds (R190). -/
def accAt (sp : Space) (sc : Scope) (ea : Int) (n kind : Nat) : Acc := accOf sp (if apertureEa sp ea then .pod else sc) ea n kind

/-! ## Loads and stores -/

/-- LD (R204). -/
def execLd (x : LdArgs) (s : State) : Out :=
  classL x.h [spT x.t x.d, spBase x.space x.a] (fun fl c t th s =>
    let n := x.t.n / 8
    let ea := effAddr x.space (th.baseOf x.space x.a) (Off.val x.off)
    memIssue (accAt x.space x.scope ea n 0) ea n 0x001 fl (fun tgt => .load tgt x.t x.d.toNat x.acq)
      (some { op := oRead, aop := 0, ty := x.t.code, order := if x.acq then .acq else .plain, opb := 0, opc := 0, n := n,
              kind := 0, dest := some (x.d.toNat, x.t) }) c t th s) s

/-- The n low bits of a store's source (R205). -/
def Thread.stData (th : Thread) (t : IType) (b : GReg) : Dword := BitVec.ofNat 64 (th.bitsOf t b)

/-- ST (R205). -/
def execSt (x : StArgs) (s : State) : Out :=
  classL x.h [spBase x.space x.a, spT x.t x.b] (fun fl c t th s =>
    let n := x.t.n / 8
    let ea := effAddr x.space (th.baseOf x.space x.a) (Off.val x.off)
    let v := th.stData x.t x.b
    memIssue (accAt x.space x.scope ea n 1) ea n 0x002 fl (fun tgt => .store tgt n v x.rel)
      (some { op := oWrite, aop := 0, ty := x.t.code, order := if x.rel then .rel else .plain, opb := v, opc := 0, n := n,
              kind := 1, dest := none }) c t th s) s

/-- The descriptor of a thread's block. -/
def State.descOf (s : State) (th : Thread) : Option Desc := (s.block? th.bid).map fun b => b.desc

/-- LDC (R206): a load from the launch's constant region, performed at `.blk`; its scope field, which FINFO reports, is 0. FADDR of an access
that lies only in part beyond CSIZE is its first byte (DESIGN CHOICE, log entry 105). -/
def execLdc (x : LdcArgs) (s : State) : Out :=
  classL x.h [spT x.t x.d, sp1 x.a] (fun fl c t th s =>
    let n := x.t.n / 8
    let off : Int := ((th.reg x.a.toNat).toNat : Int) + x.off.toInt
    let cbase : Dword := ((s.descOf th).map fun d => d.cbase).getD 0
    let size : Nat := ((s.descOf th).map fun d => d.csize).getD 0
    let va := cbase + BitVec.ofInt 64 off
    let acc := accOf .glb .thr (va.toNat : Int) n 0
    if va.toNat % n ≠ 0 then .error (Flt.acc fMisaligned acc)
    else if !canonical va then .error (Flt.acc fXlateNoncanon acc)
    else if off < 0 || (size : Int) < off + n then .error (Flt.acc fBounds acc)
    else memIssueAt .blk acc va.toNat n 0 fl (fun tgt => .load tgt x.t x.d.toNat false) none c t th s) s

/-- PREF (R207): a line of device memory that translates and that no engine owns is fetched into L2, and under `.blk` into the L1; anything
else is dropped. -/
def execPref (x : PrefArgs) (s : State) : Out :=
  runThread x.g (checked [sp2 x.a] fun c _ th s =>
    let va : Dword := BitVec.ofInt 64 (effAddr .glb (th.baseOf .glb x.a) (Off.val x.off))
    match s.translate th.ctx va 0 with
    | .ok (.dev pa) =>
      if (s.mem.badOffsets (pa / 64 * 64) 64).isEmpty && !s.lineHeld noSkip pa 1 && !s.walkHeld th.ctx va then
        let s1 := (s.tlbFill c th.ctx va).l2Read (pa / 64 * 64) 64
        .ok (if x.l1 then s1.l1Fill c pa else s1)
      else .ok s
    | _ => .ok s) s

/-! ## Fences and cache control -/

/-- FENCE (R208): the thread joins no gang until the fence is complete; the L1 is invalidated as it joins (`runAll`). -/
def execFence (x : FenceArgs) (s : State) : Out :=
  runThread x.g (checked [] fun c t th s =>
    .ok (s.setThread c t { th with wsite := s.site c th, status := .blocked (.fence x.ord x.scope) })) s

/-- CCTL.l1inv (R197, R209). -/
def execCctlL1inv (x : Bare) (s : State) : Out := runThread x.g (checked [] fun c _ _ s => .ok (s.l1Invalidate c)) s

/-- Invalidates lines of the instruction buffer: a line in use is marked stale, any other leaves (R198). -/
def State.ibInvalidate (s : State) (c : Nat) (hit : Nat → Bool) : State :=
  let k := s.core c
  let marked := k.ibuf.map fun e => if hit e.1 then (e.1, { e.2 with stale := true }) else e
  s.setCore c { k with ibuf := marked.filter fun e => !hit e.1 || k.ibUsed e.1 }

/-- CCTL.iinv (R209): invalidates the line that holds the address; it translates nothing and raises nothing. -/
def execCctlIinv (x : IinvArgs) (s : State) : Out :=
  runThread x.g (checked [sp2 x.a] fun c _ th s =>
    let va : Dword := BitVec.ofInt 64 (effAddr .glb (th.baseOf .glb x.a) x.off.toInt)
    .ok (s.ibInvalidate c fun k => k == ibKey va)) s

/-- CCTL.iinvall (R209). -/
def execCctlIinvall (x : Bare) (s : State) : Out :=
  runThread x.g (checked [] fun c _ _ s => .ok (s.ibInvalidate c fun _ => true)) s

/-! ## Atomics (R210 to R215) -/

/-- The register type of an atomic's operands. -/
def atomType : AtomOp → IType
  | .int _ t => t
  | .flt _ f => if f == .f64 then .n64 else .n32

/-- The two halves of a two-wide operation (R214). -/
def halves (f : Nat → Nat → Nat) (m b : Nat) : Nat :=
  f (m % 65536) (b % 65536) + 65536 * f (m / 65536 % 65536) (b / 65536 % 65536)

/-- Whether an atomic is two independent ones on the halves of a word (R214). -/
def twoWide : AtomOp → Bool
  | .flt .add f => Fmt.n f == 16
  | _ => false

/-- The new value of half of a two-wide atomic (R214). -/
def halfNew (o : AtomOp) (m b : Nat) : Nat :=
  match o with
  | .flt _ f => fAdd f .rn false m b
  | .int _ _ => m

/-- Half k of a 32-bit word. -/
def halfOf (k v : Nat) : Nat := v / 65536 ^ k % 65536

/-- The new value of an atomic (R213), of a two-wide one in both halves. -/
def atomNew (o : AtomOp) (m b : Nat) : Nat :=
  match o with
  | .int op t =>
    match op with
    | .add => (m + b) % 2 ^ t.n
    | .min => if asInt t m ≤ asInt t b then m else b
    | .max => if asInt t m ≤ asInt t b then b else m
    | .and => m &&& b
    | .or => m ||| b
    | .xor => m ^^^ b
    | .exch => b
  | .flt op f =>
    match op with
    | .add => if Fmt.n f = 16 then halves (fAdd f .rn false) m b else fAdd f .rn false m b
    | .min => fMinMax f false m b
    | .max => fMinMax f true m b

/-- The operand bits of an atomic. -/
def Thread.atomData (th : Thread) (o : AtomOp) (b : GReg) : Dword := BitVec.ofNat 64 (th.bitsOf (atomType o) b)

/-- Whether a thread's context is deterministic. -/
def State.det (s : State) (th : Thread) : Bool := (s.ctx th.ctx).det

/-- DET_SCOPE (R103, R212, R417): in deterministic mode, an atomic whose scope exceeds `.blk`, or any at the pod aperture; a reduce-store at
`.dev` or wider is staged instead. R212 does not name RED at `.clu`, which R103 and R417 include (DEDUCED, log entry 91). -/
def State.detScope (s : State) (th : Thread) (sp : Space) (sc : Scope) (ea : Int) (fetch : Bool) : Bool :=
  s.det th && ((decide (2 < sc.code) && (fetch || decide (sc.code < 4))) || apertureEa sp ea)

/-- ATOM (R213). -/
def execAtom (x : AtomArgs) (s : State) : Out :=
  classL x.h [spAtom x.op x.d, spBase x.space x.a, spAtom x.op x.b] (fun fl c t th s =>
    let n := x.op.n / 8
    let ea := effAddr x.space (th.baseOf x.space x.a) (Off.val x.off)
    let acc := accAt x.space x.scope ea n 2
    let v := th.atomData x.op x.b
    if s.detScope th x.space x.scope ea true then .error (Flt.acc fDetScope acc)
    else memIssue acc ea n 0x003 fl (fun tgt => .atom tgt x.op v (some x.d.toNat) x.ord none)
      (some { op := oAtomic, aop := x.op.op, ty := x.op.ty, order := x.ord, opb := v, opc := 0, n := n, kind := 2,
              dest := some (x.d.toNat, atomType x.op) }) c t th s) s

/-- CAS (R215). -/
def execCas (x : CasArgs) (s : State) : Out :=
  classL x.h [spT x.t x.d, spBase x.space x.a, spT x.t x.b, spT x.t x.c] (fun fl c t th s =>
    let n := x.t.n / 8
    let ea := effAddr x.space (th.baseOf x.space x.a) 0
    let acc := accAt x.space x.scope ea n 2
    let b := th.stData x.t x.b
    let v := th.stData x.t x.c
    if s.detScope th x.space x.scope ea true then .error (Flt.acc fDetScope acc)
    else memIssue acc ea n 0x003 fl (fun tgt => .cas tgt x.t b v x.d.toNat x.ord)
      (some { op := oCas, aop := 0, ty := x.t.code, order := x.ord, opb := b, opc := v, n := n, kind := 2,
              dest := some (x.d.toNat, x.t) }) c t th s) s

/-! ## The staging log (R410) -/

/-- The `prv` address of the next record of the staging log. -/
def Thread.logAddr (th : Thread) : Int := th.ckBase - 65536 + 32 * th.logLen

/-- A record of the staging log in the model's own format: target address, kind (0 RED, 1 REDT, 2 RCLOSE), OP, type code,
operand, and tag or range. -/
structure LogRec where
  va : Dword
  kind : Nat
  op : Nat
  ty : Nat
  v : Dword
  lo : Word
  hi : Word
  deriving DecidableEq, Repr

def LogRec.bytes (r : LogRec) : List Byte :=
  leBytes 8 r.va.toNat ++ leBytes 1 r.kind ++ leBytes 1 r.op ++ leBytes 1 r.ty ++ leBytes 5 0 ++ leBytes 8 r.v.toNat ++
    leBytes 4 r.lo.toNat ++ leBytes 4 r.hi.toNat

/-- Appends a record to the thread's log (R410). `k` continues with the state after the write. -/
def stageRecord (r : LogRec) (k : Body) : Body := fun c t th s =>
  let a := th.logAddr
  let acc : Acc := { space := .prv, scope := .thr, ea := BitVec.ofInt 64 a, size := 5, kind := 1 }
  if a < 0 || 2048 ≤ th.logLen then .error (Flt.acc fBounds acc)
  else
    match s.checkAccess th acc a 32 0 with
    | .error f => .error f
    | .ok (.ok tgt) =>
      let th1 := { th with logLen := th.logLen + 1 }
      if s.tgtHeld noSkip (ownCk c t) true tgt 32 then .ok (s.noteTgt noSkip tgt 32).stall
      else k c t th1 (((s.accessWalk c th acc).setThread c t th1).writeTgt c th.bid tgt r.bytes [])
    | .ok (.held va) => .ok (s.noteWalk th.ctx va).stall
    | .ok (.miss va kind e) => .ok (s.parkMiss c t th va kind e (s.site c th))
    | .ok (.divert va) => .ok (s.parkDivert c t th va acc.kind (s.site c th))
    | .ok .aperture => .error (Flt.acc fXlatePerm acc)

/-- Stages a reduce-store of a deterministic context: it is checked as it would be performed, and its flag clears when the
record is written (R241, R410). -/
def stageReduce (acc : Acc) (ea : Int) (n : Nat) (fl : Option Nat) (r : LogRec) : Body := fun c t th s =>
  match s.checkAccess th acc ea n 0x003 with
  | .error f => .error f
  | .ok (.ok _) => stageRecord r (fun c t th s => .ok (s.issueOp c t th fl .log acc)) c t th s
  | .ok (.held va) => .ok (s.noteWalk th.ctx va).stall
  | .ok (.miss va kind e) => .ok (s.parkMiss c t th va kind e (s.site c th))
  | .ok (.divert va) => .ok (s.parkDivert c t th va acc.kind (s.site c th))
  | .ok .aperture => .error (Flt.acc fXlatePerm acc)

/-- RED (R213); at `.dev` or wider in deterministic mode it is staged (R212, R241). -/
def execRed (x : RedArgs) (s : State) : Out :=
  classL x.h [spBase x.space x.a, spAtom x.op x.b] (fun fl c t th s =>
    let n := x.op.n / 8
    let ea := effAddr x.space (th.baseOf x.space x.a) (Off.val x.off)
    let acc := accAt x.space x.scope ea n 2
    let v := th.atomData x.op x.b
    if s.detScope th x.space x.scope ea false then .error (Flt.acc fDetScope acc)
    else if s.det th && decide (4 ≤ x.scope.code) then
      stageReduce acc ea n fl { va := acc.ea, kind := 0, op := x.op.op, ty := x.op.ty, v := v, lo := 0, hi := 0 } c t th s
    else memIssue acc ea n 0x003 fl (fun tgt => .atom tgt x.op v none (if x.rel then .rel else .plain) none)
      (some { op := oReduce, aop := x.op.op, ty := x.op.ty, order := if x.rel then .rel else .plain, opb := v, opc := 0, n := n,
              kind := 2, dest := none }) c t th s) s

/-- REDT (R216); in deterministic mode it is staged. -/
def execRedt (x : RedtArgs) (s : State) : Out :=
  gated x.h.g true 10 fIllegalOp s fun s => classL x.h [sp2 x.a, spAtom x.op x.b, sp1 x.tag] (fun fl c t th s =>
    let n := x.op.n / 8
    let ea := effAddr .glb (th.baseOf .glb x.a) x.off.toInt
    let acc := accOf .glb .dev ea n 2
    let v := th.atomData x.op x.b
    let tag := th.reg x.tag.toNat
    if s.det th then
      stageReduce acc ea n fl { va := acc.ea, kind := 1, op := x.op.op, ty := x.op.ty, v := v, lo := tag, hi := tag } c t th s
    else memIssue acc ea n 0x003 fl (fun tgt => .redt tgt x.op v tag x.rel none) none c t th s) s

/-- RCLOSE (R217): the thread waits until its earlier REDTs are applied or dropped and the receipts are removed; in
deterministic mode one record is staged. -/
def execRclose (x : RcloseArgs) (s : State) : Out :=
  runThread x.g (needFeature true 10 fIllegalOp (checked [sp1 x.a, sp1 x.b] fun c t th s =>
    let lo := th.reg x.a.toNat
    let hi := th.reg x.b.toNat
    if s.det th then
      stageRecord { va := 0, kind := 2, op := 0, ty := 0, v := 0, lo := lo, hi := hi } (fun _ _ _ s => .ok s) c t th s
    else .ok (s.setThread c t { th with wsite := s.site c th, status := .blocked (.rclose lo hi) }))) s

/-! ## Copies (R218) -/

def cpyBytes : CpySize → Nat
  | .s4 => 4
  | .s8 => 8
  | .s16 => 16

/-- The checks of a copy, the `glb` side first within each step of R202; then the issue. `inward` copies `glb` to the
buffer. -/
def cpyIssue (x : CpyArgs) (inward : Bool) (fl : Option Nat) : Body := fun c t th s =>
  let n := cpyBytes x.size
  let ea := effAddr .glb (th.baseOf .glb x.a) (Off.val x.off)
  let b : Int := ((th.reg x.b.toNat).toNat : Int)
  let ga := accOf .glb x.scope ea n (if inward then 0 else 1)
  let ba := accOf x.space x.scope b n (if inward then 1 else 0)
  if ea % n ≠ 0 then .error (Flt.acc fMisaligned ga)
  else if b % n ≠ 0 then .error (Flt.acc fMisaligned ba)
  else if !canonical ga.ea then .error (Flt.acc fXlateNoncanon ga)
  else
    match s.checkAccess th ba b n (if inward then 0x004 else 0x008) with
    | .ok (.ok bt) =>
      memIssue ga ea n 0 fl (fun g => if inward then .copy g bt n x.scope [] false else .copy bt g n x.scope [] false) none c t th s
    | .error f => .error f
    | .ok _ => .error (Flt.acc fBounds ba)

/-- CPY.in (R218). -/
def execCpyIn (x : CpyArgs) (s : State) : Out :=
  classL x.h [sp2 x.a, sp1 x.b] (fun fl => needRole .feed (cpyIssue x true fl)) s

/-- CPY.out (R218). -/
def execCpyOut (x : CpyArgs) (s : State) : Out :=
  classL x.h [sp2 x.a, sp1 x.b] (fun fl => needRole .feed (cpyIssue x false fl)) s

end Sys2Proof.Machine
end

