-- ==== Sys2Proof/Machine/Sync.lean ====
section
/-! DEFINITION. Transaction barriers, block barriers, stage rings and tokens (R402 to R409, R359), and the releases that wait
for a thread's earlier accesses. -/

namespace Sys2Proof.Machine

/-- The acquire of a return from a wait at a scope (R239). -/
def State.returnAcq (s : State) (c : Nat) (th : Thread) (sc : Scope) : State :=
  if wideScope (s.inTwin th) sc then s.l1Invalidate c else s

/-- A thread returns from a wait that acquires at a scope (R239). -/
def State.wakeAcq (s : State) (c t : Nat) (th : Thread) (sc : Scope) : State := (s.returnAcq c th sc).wake c t

/-- The linear thread index (R281, R287). -/
def Thread.linear (th : Thread) : Nat := th.crew * th.width + th.tid

/-- The threads of a block with their places. -/
def State.blockThreads (s : State) (b : Bid) : List (Nat × Nat × Thread) :=
  match s.block? b with
  | some k => k.threads.filterMap fun e => (s.thread? e.1 e.2).bind fun th => if th.bid == b then some (e.1, e.2, th) else none
  | none => []

/-! ## Transaction barriers (R403 to R405) -/

/-- A transaction barrier's record (R403). -/
structure TBar where
  err : Bool
  expected : Nat
  sectors : Nat
  pending : Nat
  phase : Nat
  deriving DecidableEq, Repr

def tbarOf (v : Nat) : TBar :=
  { err := v.testBit 72, expected := bitsAt v 52 20, sectors := bitsAt v 24 28, pending := bitsAt v 4 20, phase := v % 16 }

def TBar.bits (r : TBar) : Nat :=
  r.phase + 2 ^ 4 * r.pending + 2 ^ 24 * r.sectors + 2 ^ 52 * r.expected + 2 ^ 72 * r.err.toNat

/-- The flip test (R404). -/
def TBar.flip (r : TBar) : TBar :=
  if r.pending = 0 ∧ r.sectors = 0 then { r with phase := (r.phase + 1) % 16, pending := r.expected } else r

/-- arrive(n) of R404. -/
def TBar.arrive (r : TBar) (n : Nat) : TBar :=
  if r.pending < n then ({ r with err := true, pending := 0 } : TBar).flip
  else ({ r with pending := r.pending - n } : TBar).flip

/-- sector_done() of R404. -/
def TBar.sectorDone (r : TBar) : TBar :=
  if r.sectors = 0 then ({ r with err := true } : TBar).flip else ({ r with sectors := r.sectors - 1 } : TBar).flip

/-- The sectors that a TBARVD adds (R404). -/
def TBar.bindSectors (r : TBar) (k : Nat) : TBar :=
  if 2 ^ 28 - 1 < r.sectors + k then { r with err := true } else { r with sectors := r.sectors + k }

def State.tbar (s : State) (b : Bid) (a : Nat) : TBar :=
  match s.block? b with
  | some k => tbarOf (k.loc.readNat a 16)
  | none => tbarOf 0

/-- Stores a record; poison marks of its words stay. -/
def State.putTbar (s : State) (b : Bid) (a : Nat) (r : TBar) : State :=
  match s.block? b with
  | some k => s.setBlock { k with loc := k.loc.putBytes a (leBytes 16 r.bits) }
  | none => s

/-- Wakes the threads of a block whose phase wait at a record is over (R405). -/
def State.testTbar (s : State) (b : Bid) (a : Nat) : State :=
  let r := s.tbar b a
  (s.blockThreads b).foldl (fun s e =>
    match e.2.2.status with
    | .blocked (.tbar addr ph pd) =>
      if addr = a ∧ r.phase ≠ ph then
        (s.mapThread e.1 e.2.1 fun th => th.setPred pd (!r.err)).wakeAcq e.1 e.2.1 e.2.2 .dev
      else s
    | _ => s) s

/-- Updates a record and tests its waiters when the phase changes. -/
def State.updateTbar (s : State) (b : Bid) (a : Nat) (f : TBar → TBar) : State :=
  let r := s.tbar b a
  let s1 := s.putTbar b a (f r)
  if (f r).phase = r.phase then s1 else s1.testTbar b a

/-- The checks of a transaction barrier's address (R402). -/
def tbarAt (a : GReg) (kind : Nat) (k : Nat → Body) : Body := fun c t th s =>
  let ea : Int := ((th.reg a.toNat).toNat : Int)
  let acc := accOf .loc .blk ea 16 kind
  match s.checkAccess th acc ea 16 0 with
  | .error f => .error f
  | .ok _ => if (s.alloc th.bid .loc : Int) < ea + 16 then .error (Flt.acc fBounds acc) else k ea.toNat c t th s

/-- Performs a release action at once when every earlier access is performed, else holds it back (R404, R407). -/
def holdOr (a : RelAct) (now : State → State) : Body := fun c t th s =>
  if th.accessesDone then .ok (now s)
  else .ok (s.issueOp c t th none (.act a) (accOf .loc .blk 0 1 0))

/-- Runs a body once no earlier action of the thread that `p` names is held back: the thread's own updates come in program order (R227). -/
def afterOwn (p : RelAct → Bool) (k : Body) : Body := fun c t th s =>
  if th.ops.any fun o => match o.kind with | .act a => p a | _ => false then .ok s.stall else k c t th s

/-- The checks of a transaction barrier's address, then a body after the thread's own arrivals at that barrier. -/
def tbarNext (a : GReg) (kind : Nat) (k : Nat → Body) : Body :=
  tbarAt a kind fun a => afterOwn (fun x => match x with | .tbar b _ => a == b | _ => false) (k a)

/-- TBARI (R404). -/
def execTbari (x : TbarArgs) (s : State) : Out :=
  runThread x.g (checked (sp1 x.a :: spR8 x.b) (tbarNext x.a 1 fun a _ _ th s =>
    let n := (th.r8 x.b).toNat % 2 ^ 20
    let n := if n = 0 then 1 else n
    let r : TBar := { err := false, expected := n, sectors := 0, pending := n, phase := 0 }
    match s.block? th.bid with
    | some k => .ok (s.setBlock { k with loc := k.loc.write a (leBytes 16 r.bits) })
    | none => .ok s)) s

/-- TBARA (R404). -/
def execTbara (x : AArgs) (s : State) : Out :=
  runThread x.g (checked [sp1 x.a] (tbarAt x.a 2 fun a c t th s =>
    holdOr (.tbar a 1) (fun s => s.updateTbar th.bid a fun r => r.arrive 1) c t th s)) s

/-- TBARA.n (R404). -/
def execTbaraN (x : TbarArgs) (s : State) : Out :=
  runThread x.g (checked (sp1 x.a :: spR8 x.b) (tbarAt x.a 2 fun a c t th s =>
    let n := (th.r8 x.b).toNat % 2 ^ 20
    holdOr (.tbar a n) (fun s => s.updateTbar th.bid a fun r => r.arrive n) c t th s)) s

/-- The 64-byte sector that a copy writes into (R404). -/
def sectorOf : Tgt → Tgt
  | .dev pa => .dev (pa / 64 * 64)
  | .host pa => .host (pa / 64 * 64)
  | .buf sp a => .buf sp (a / 64 * 64)

/-- The copies of a thread that have not completed, with their destination sectors. -/
def Thread.copies (th : Thread) : List (Nat × Tgt) :=
  th.ops.filterMap fun o => match o.kind with | .copy _ d _ _ _ _ => some (o.uid, sectorOf d) | _ => none

/-- Binds copies to a record (R404). -/
def State.addBind (s : State) (b : Bid) (a : Nat) (cs : List (Nat × Tgt)) : State :=
  match s.block? b with
  | some k => s.setBlock { k with binds := k.binds ++ [{ bar := a, copies := cs }] }
  | none => s

/-- TBARVD (R404): the arrival waits for the thread's earlier accesses, its outstanding copies among them. -/
def execTbarvd (x : AArgs) (s : State) : Out :=
  runThread x.g (checked [sp1 x.a] (tbarNext x.a 2 fun a c t th s =>
    let cs := th.copies
    if cs.isEmpty then holdOr (.tbar a 1) (fun s => s.updateTbar th.bid a fun r => r.arrive 1) c t th s
    else
      let n := ((cs.map Prod.snd).eraseDups).length
      let s1 := s.updateTbar th.bid a fun r => r.bindSectors n
      let s2 := s1.addBind th.bid a cs
      .ok (s2.issueOp c t th none (.act (.tbarv a)) (accOf .loc .blk a 16 2)))) s

/-- TBARW (R405). -/
def execTbarw (x : TbarwArgs) (s : State) : Out :=
  runThread x.g (checked (sp1 x.a :: spR8 x.b) (tbarNext x.a 0 fun a c t th s =>
    let ph := (th.r8 x.b).toNat % 16
    let r := s.tbar th.bid a
    if r.phase ≠ ph then .ok ((s.setThread c t (th.setPred x.pd.toNat (!r.err))).l1Invalidate c)
    else .ok (s.setThread c t { th with wsite := s.site c th, status := .blocked (.tbar a ph x.pd.toNat) }))) s

/-- A copy has completed: the sectors it was the last to write are counted down, and poison sets ERR (R404). -/
def State.copyDone (s : State) (b : Bid) (uid : Nat) (dst : Tgt) (bad : Bool) : State :=
  match s.block? b with
  | none => s
  | some k =>
    let mine := k.binds.filter fun x => x.copies.any fun e => e.1 == uid
    let binds := (k.binds.map fun x => { x with copies := x.copies.filter fun e => e.1 != uid }).filter fun x => !x.copies.isEmpty
    let s1 := s.setBlock { k with binds := binds }
    mine.foldl (fun s x =>
      let s2 := if bad then s.updateTbar b x.bar fun r => { r with err := true } else s
      let last := x.copies.all fun e => e.1 == uid || e.2 != sectorOf dst
      if last then s2.updateTbar b x.bar TBar.sectorDone else s2) s1

/-! ## Block barriers (R406) -/

def State.barrier (s : State) (b : Bid) (k : Nat) : Barrier :=
  match s.block? b with
  | some x => FMap.getD x.bars k { phase := false, arr := [] }
  | none => { phase := false, arr := [] }

def State.setBarrier (s : State) (b : Bid) (k : Nat) (v : Barrier) : State :=
  match s.block? b with
  | some x => s.setBlock { x with bars := FMap.put x.bars k v }
  | none => s

/-- Adds a thread to an arrival set. -/
def State.barAdd (s : State) (th : Thread) (k : Nat) : State :=
  let v := s.barrier th.bid k
  s.setBarrier th.bid k { v with arr := insertAsc th.linear v.arr }

/-- The arrival of a thread held at BAR or BAR.arv. -/
def State.barArrive (s : State) (c t : Nat) (th : Thread) (k : Nat) (arvOnly : Bool) : State :=
  if (s.barrier th.bid k).arr.contains th.linear then
    s.mapThread c t fun x => { x with status := .blocked (.bar k .again arvOnly) }
  else if arvOnly then (s.barAdd th k).wake c t
  else (s.barAdd th k).mapThread c t fun x => { x with status := .blocked (.bar k .arrived false) }

/-- Releases a barrier: the phase toggles, the set is cleared, waiting threads return in the next cycle or arrive in the new phase (R406). -/
def State.releaseBar (s : State) (b : Bid) (k : Nat) : State :=
  let v := s.barrier b k
  (s.blockThreads b).foldl (fun s e =>
    match e.2.2.status with
    | .blocked (.bar k' .arrived _) => if k' = k then (s.returnAcq e.1 e.2.2 .blk).wakeNext e.1 e.2.1 else s
    | .blocked (.bar k' .again arv) =>
      if k' = k then
        if arv then (s.barAdd e.2.2 k).wakeNext e.1 e.2.1
        else (s.barAdd e.2.2 k).mapThread e.1 e.2.1 fun x => { x with status := .blocked (.bar k .arrived false) }
      else s
    | _ => s) (s.setBarrier b k { phase := !v.phase, arr := [] })

/-- The live threads of a block (R172, R406). -/
def State.liveCount (s : State) (b : Bid) : Nat := ((s.blockThreads b).filter fun e => !e.2.2.exitedB).length

/-- The release test of one barrier. -/
def State.testBar (s : State) (b : Bid) (k : Nat) : State :=
  let v := s.barrier b k
  if v.arr.length ≠ 0 ∧ v.arr.length = s.liveCount b then s.releaseBar b k else s

/-- The blocks that have threads on a core. -/
def State.blocksOn (s : State) (c : Nat) : List Bid :=
  (s.blocks.filter fun b => b.core == c || (b.desc.twin && b.core + 1 == c)).map fun b => b.bid

/-- The tests that end a cycle for the barriers of a core's blocks. -/
def State.settleBars (s : State) (c : Nat) : State :=
  (s.blocksOn c).foldl (fun s b => (List.range Config.nBarriers).foldl (fun s k => s.testBar b k) s) s

/-- A thread leaves every arrival set at EXIT. -/
def State.leaveBars (s : State) (th : Thread) : State :=
  (List.range Config.nBarriers).foldl (fun s k =>
    let v := s.barrier th.bid k
    if v.arr.contains th.linear then s.setBarrier th.bid k { v with arr := v.arr.filter (· ≠ th.linear) } else s) s

/-- Whether an arrival of a thread at a barrier by BAR.arv is still held back. -/
def Thread.arvHeld (th : Thread) (k : Nat) : Bool :=
  th.ops.any fun o => match o.kind with | .act (.barArv j) => j == k | _ => false

/-- BAR and BAR.arv: a number at or beyond BARRIERS raises ILLEGAL_FIELD (R402). A second arrival, while the first is in the set or held
back, waits for the release (R406). -/
def barAt (x : BarArgs) (arvOnly : Bool) (s : State) : Out :=
  runThread x.g (fun c t th s =>
    let n := ((s.descOf th).map fun d => d.barriers).getD 0
    if n ≤ x.k.toNat then .error (Flt.plain fIllegalField)
    else
      let inSet := (s.barrier th.bid x.k.toNat).arr.contains th.linear
      if arvOnly && !inSet && !th.arvHeld x.k.toNat then holdOr (.barArv x.k.toNat) (fun s => s.barAdd th x.k.toNat) c t th s
      else
        let th1 := { th with wsite := s.site c th, status := .blocked (.bar x.k.toNat .before arvOnly) }
        let s1 := s.setThread c t th1
        .ok (if th.accessesDone then
            s1.barArrive c t th1 x.k.toNat arvOnly else s1)) s

/-- BAR (R406). -/
def execBar (x : BarArgs) (s : State) : Out := barAt x false s

/-- BAR.arv (R406). -/
def execBarArv (x : BarArgs) (s : State) : Out := barAt x true s

/-! ## Stage rings (R407) -/

/-- The number of slots declared for a ring; 0 when it is not used. -/
def State.ringSlots (s : State) (th : Thread) (q : Nat) : Nat := ((s.descOf th).map fun d => d.rings.getD q 0).getD 0

def State.ringBit (s : State) (b : Bid) (q i : Nat) : Bool :=
  match s.block? b with
  | some k => (FMap.getD k.rings q []).getD i false
  | none => false

/-- Posts a slot: its phase bit flips, and waits on it are tested (R407). -/
def State.ringPost (s : State) (b : Bid) (q slots i : Nat) : State :=
  match s.block? b with
  | none => s
  | some k =>
    let bits := FMap.getD k.rings q (List.replicate slots false)
    let v := !(bits.getD i false)
    let s1 := s.setBlock { k with rings := FMap.put k.rings q (bits.set i v) }
    (s1.blockThreads b).foldl (fun s e =>
      match e.2.2.status with
      | .blocked (.ring q' i' full) => if q' = q ∧ i' = i ∧ full = v then s.wakeAcq e.1 e.2.1 e.2.2 .blk else s
      | _ => s) s1

/-- A ring instruction on a ring that was declared with no slots raises ILLEGAL_FIELD (R402). -/
def ringAt (x : RingArgs) (body : Nat → Body) (s : State) : Out :=
  runThread x.g (fun c t th s =>
    if s.ringSlots th x.q.toNat = 0 then .error (Flt.plain fIllegalField)
    else checked (spR8 x.b) (fun c t th s => body ((th.r8 x.b).toNat % s.ringSlots th x.q.toNat) c t th s) c t th s) s

/-- RINGP (R407). -/
def execRingp (x : RingArgs) (s : State) : Out :=
  ringAt x (fun i c t th s =>
    holdOr (.ringp x.q.toNat i) (fun s => s.ringPost th.bid x.q.toNat (s.ringSlots th x.q.toNat) i) c t th s) s

/-- The wait of RINGW, tested at issue (R407). -/
def ringWait (q : Nat) (full : Bool) (i : Nat) : Body := fun c t th s =>
  if s.ringBit th.bid q i = full then .ok (if wideScope (s.inTwin th) .blk then s.l1Invalidate c else s)
  else .ok (s.setThread c t { th with wsite := s.site c th, status := .blocked (.ring q i full) })

/-- RINGW: it waits once the thread's own posts to the slot are performed (R227, R407). -/
def ringNext (q : Nat) (full : Bool) (i : Nat) : Body :=
  afterOwn (fun x => match x with | .ringp r j => r == q && j == i | _ => false) (ringWait q full i)

/-- RINGW.empty (R407). -/
def execRingwEmpty (x : RingArgs) (s : State) : Out := ringAt x (ringNext x.q.toNat false) s

/-- RINGW.full (R407). -/
def execRingwFull (x : RingArgs) (s : State) : Out := ringAt x (ringNext x.q.toNat true) s

/-! ## Tokens (R359, R408) -/

def Ctx.tok (x : Ctx) (t : Nat) : Tok := FMap.getD x.toks t { count := 0, abort := false }

def Ctx.setTok (x : Ctx) (t : Nat) (v : Tok) : Ctx := { x with toks := FMap.put x.toks t v }

/-- Takes one from a count; a count never falls below 0. -/
def Ctx.take (x : Ctx) (t : Nat) : Ctx := x.setTok t { x.tok t with count := (x.tok t).count - 1 }

/-- Whether a waiter can take what it waits for. -/
def State.canTake (s : State) (ctx : Nat) (e : Nat × TokWaiter) : Bool :=
  match e.2 with
  | .thread _ _ => decide (0 < ((s.ctx ctx).tok e.1).count)
  | .coll k =>
    match FMap.find? s.fab.colls k with
    | some o => o.toks.all fun t => decide (0 < ((s.ctx ctx).tok t).count)
    | none => false
  | .saved _ _ => false

/-- Serves waiters in order of arrival: each takes one of every token that it waits for at once, and a collective that has taken its
tokens fires by COLL_FIRE (R359). -/
def State.serveTokens (s : State) (ctx : Nat) : Nat → State
  | 0 => s
  | n + 1 =>
    match (s.ctx ctx).tokq.find? fun e => s.canTake ctx e with
    | some (t, .thread c k) =>
      let x := s.ctx ctx
      let s1 := s.setCtx ctx { x.take t with tokq := x.tokq.erase (t, .thread c k) }
      State.serveTokens ((s1.l1Invalidate c).wake c k) ctx n
    | some (t, .coll k) =>
      match FMap.find? s.fab.colls k with
      | some o =>
        let x := s.ctx ctx
        let s1 := s.setCtx ctx { o.toks.foldl Ctx.take x with tokq := x.tokq.erase (t, .coll k) }
        State.serveTokens { s1 with fab := { s1.fab with colls := FMap.put s1.fab.colls k { o with toks := [] } } } ctx n
      | none => s
    | _ => s

/-- A token arrives (R408). -/
def State.tokenAdd (s : State) (ctx t : Nat) : State :=
  let x := s.ctx ctx
  let s1 := s.setCtx ctx (x.setTok t { count := min ((x.tok t).count + 1) 0xFFFFFFFF, abort := false })
  s1.serveTokens ctx (x.tokq.length + 1)

/-- The token that an operand names: bits above [11:0] raise ILLEGAL_FIELD (R359). -/
def tokenOf (x : TokArgs) (body : Nat → Body) (s : State) : Out :=
  runThread x.g (needFeature true 7 fIllegalOp (checked (spRI1 x.t) fun c t th s =>
    let v := th.ri x.t
    if v.extractLsb' 12 20 != 0 then .error (Flt.plain fIllegalField)
    else needRole .general (body (v.toNat % 4096)) c t th s)) s

/-- TOKEN (R359): a release at `.dev`. -/
def execToken (x : TokArgs) (s : State) : Out :=
  tokenOf x (fun k c t th s => holdOr (.token k) (fun s => s.tokenAdd th.ctx k) c t th s) s

/-- TWAIT (R359). -/
def execTwait (x : TokArgs) (s : State) : Out :=
  tokenOf x (fun k c t th s =>
    let v := (s.ctx th.ctx).tok k
    if v.count = 0 && v.abort then .error (Flt.plain fGenChanged)
    else
      let s1 := s.setThread c t { th with wsite := s.site c th, status := .blocked (.token k) }
      let y := s1.ctx th.ctx
      .ok ((s1.setCtx th.ctx { y with tokq := y.tokq ++ [(k, .thread c t)] }).serveTokens th.ctx (y.tokq.length + 2))) s

/-- Sets a token's abort bit: threads that wait on it with no count left take GEN_CHANGED (R359, R363). -/
def State.tokenAbort (s : State) (ctx t : Nat) : State :=
  let x := s.ctx ctx
  let waiting := x.tokq.filterMap fun e => match e.2 with | .thread c k => if e.1 = t then some (c, k) else none | _ => none
  let kept := x.tokq.filter fun e => match e.2 with | .thread _ _ => e.1 != t | _ => true
  let s1 := s.setCtx ctx { x.setTok t { x.tok t with abort := true } with tokq := kept }
  waiting.foldl (fun s e =>
    match s.thread? e.1 e.2 with
    | some th => s.takeFault e.1 e.2 (Flt.plain fGenChanged) th.wsite
    | none => s) s1

/-! ## Arrival channels (R308, R333, R334) -/

/-- The relation of R308. -/
def passed (x t : Word) : Bool := decide ((x - t).toNat < 2 ^ 31)

def State.chan (s : State) (c ch : Nat) : Chan := FMap.getD (s.core c).chans ch Chan.reset

def State.setChan (s : State) (c ch : Nat) (x : Chan) : State :=
  s.setCore c { s.core c with chans := FMap.put (s.core c).chans ch x }

/-- Tests the threads of a core that wait on a channel: pd is 1 when the write pointer has passed the target, and only then
does the wait acquire (R333). -/
def State.testChan (s : State) (c ch : Nat) : State :=
  let x := s.chan c ch
  (s.core c).threads.foldl (fun s e =>
    match e.2.status with
    | .blocked (.await k t pd) =>
      if k = ch && (passed x.wp t || x.err) then
        let s1 := s.mapThread c e.1 fun th => th.setPred pd (passed x.wp t)
        if passed x.wp t then s1.wakeAcq c e.1 e.2 .blk else s1.wake c e.1
      else s
    | _ => s) s

/-- Returns slots of a channel that have completed (R334). -/
def State.relSlots (s : State) (c ch n : Nat) : State :=
  let x := s.chan c ch
  s.setChan c ch { x with rel := x.rel + BitVec.ofNat 32 (min n (x.slots - x.rel).toNat) }

end Sys2Proof.Machine
end

