-- ==== Sys2Proof/Machine/Checkpoint.lean ====
section
/-! DEFINITION. PRECK and the checkpoint area (R298, R299). -/

namespace Sys2Proof.Machine

/-- The bytes of a thread's checkpoint record with a COUNT (R299); at a resume point PC is the header that governs it (log entry 31). -/
def State.ckRecord (s : State) (th : Thread) (count : Nat) : List Byte :=
  leBytes 8 count ++ leBytes 8 th.place.1.toNat ++ leBytes 8 th.csp.toNat ++ leBytes 8 th.p.toNat ++
    ((List.range 12).flatMap fun m => leBytes 8 (s.mask th.bid th.crew m).mem.toNat) ++
    ((List.range th.nregs).flatMap fun r => leBytes 4 (th.reg r).toNat)

/-- The answer of the translation of a record's range. -/
inductive CkXl
  | ok (pages : List (Nat × Tgt))
  | held (va : Dword)
  | miss (va : Dword) (entry : Nat)
  | divert (va : Dword)
  | fail (f : Flt)
  deriving DecidableEq, Repr

/-- Translates a record of `n` 8-byte words from word `i` on, one entry for each page (R298). `base` is its `prv` address. -/
def State.ckTranslate (s : State) (th : Thread) (base : Int) (i : Nat) : Nat → List (Nat × Tgt) → CkXl
  | 0, acc => .ok acc.reverse
  | n + 1, acc =>
    let a := base + 8 * i
    let va := th.prvBase + BitVec.ofInt 64 a
    if i ≠ 0 ∧ va.toNat % 65536 ≠ 0 then State.ckTranslate s th base (i + 1) n acc
    else
      let ac : Acc := { space := .prv, scope := .thr, ea := BitVec.ofInt 64 a, size := 3, kind := 1 }
      match s.checkXlate th.ctx ac va with
      | .ok (.ok t) => State.ckTranslate s th base (i + 1) n ((8 * i, t) :: acc)
      | .ok (.held va) => .held va
      | .ok (.miss va _ e) => .miss va e
      | .ok (.divert va) => .divert va
      | .ok .aperture => .fail (Flt.acc fXlatePerm ac)
      | .error f => .fail f

/-- PRECK (R298): the record's range is translated at issue; the record is written when the clause has ended and the
thread's earlier results have landed. A clause writes one record; that of a clause which a fault has interrupted stays to be written beside a
handler's, with the COUNT and the slot of its own PRECK (DESIGN CHOICE, log entry 113). -/
def execPreck (x : Bare) (s : State) : Out :=
  runThread x.g (needFeature true 4 fIllegalOp (checked [] fun c t th s =>
    match s.ckTranslate th (th.ckSlot (th.ckCount.toNat + 1)) 0 ((128 + 4 * th.nregs) / 8) [] with
    | .ok pages =>
      let va (i : Nat) : Dword := th.prvBase + BitVec.ofInt 64 (th.ckSlot (th.ckCount.toNat + 1) + i)
      let ck : Ck := { hm := th.hm, count := th.ckCount.toNat + 1, due := false, pages := pages }
      .ok ((pages.foldl (fun s p => s.tlbFill c th.ctx (va p.1)) s).setThread c t { th with preck := ck :: th.preck.filter fun k => k.hm != th.hm })
    | .held va => .ok (s.noteWalk th.ctx va).stall
    | .miss va e => .ok (s.parkMiss c t th va 1 e (s.site c th))
    | .divert va => .ok (s.parkDivert c t th va 1 (s.site c th))
    | .fail f => .error f)) s

/-- Writes a record through its translated pages. -/
def State.putPages (s : State) (c : Nat) (b : Bid) (bytes : List Byte) : List (Nat × Tgt) → State
  | [] => s
  | (o, t) :: rest =>
    let stop := match rest with | (o2, _) :: _ => o2 | [] => bytes.length
    State.putPages (s.writeTgt c b t ((bytes.drop o).take (stop - o)) []) c b bytes rest

/-- Whether a record of `n` bytes has to wait: for an engine or translations in use (R237, R380), or for an earlier access of the thread to
the same place (R298). -/
def State.pagesHeld (s : State) (c t : Nat) (th : Thread) (n : Nat) : List (Nat × Tgt) → Bool
  | [] => false
  | (o, g) :: rest =>
    let stop := match rest with | (o2, _) :: _ => o2 | [] => n
    s.tgtHeld noSkip (ownCk c t) true g (stop - o) ||
      th.ops.any (fun x => match x.kind.place with | some q => overlaps (g, stop - o) q | none => false) ||
      State.pagesHeld s c t th n rest

/-- Writes the record of a thread whose marker is due and whose results have landed (R298). -/
def State.writeCk (s : State) (c t : Nat) : State :=
  match s.thread? c t with
  | none => s
  | some th =>
    match th.preck.find? Ck.due with
    | none => s
    | some k =>
      if th.crun.isNone && th.ops.all (fun o => o.kind.dest.isNone) && !s.pagesHeld c t th (128 + 4 * th.nregs) k.pages then
        (s.putPages c th.bid (s.ckRecord th k.count) k.pages).setThread c t
          { th with preck := th.preck.erase k, ckCount := BitVec.ofNat 64 (max th.ckCount.toNat k.count) }
      else s

end Sys2Proof.Machine
end

