-- ==== Sys2Proof/Machine/Complete.lean ====
section
/-! DEFINITION. How operations in flight are performed and complete (R79, R211, R216 to R222, R225 to R239, R400, R401), and
the events BOUND_COPY_COMPLETION and REDT_APPLY. -/

namespace Sys2Proof.Machine

/-! ## What may be performed now -/

/-- The bytes that a store or a copy writes. -/
def OpKind.stored : OpKind → Option (Tgt × Nat)
  | .store t n _ _ => some (t, n)
  | .copy _ d n _ _ _ => some (d, n)
  | _ => none

/-- Whether an operation waits for a thread of the same gang that issued the same instruction before it and whose bytes it writes too:
such writes take effect in home-lane order (R203). -/
def State.laneHeld (s : State) (c t : Nat) (th : Thread) (o : Op) : Bool :=
  match o.kind.stored with
  | none => false
  | some p =>
    (s.core c).threads.any fun e => e.1 != t && e.2.ops.any fun x =>
      x.gang == o.gang && x.index == o.index && decide (x.uid < o.uid) && (!p.1.isBuf || e.2.bid == th.bid) &&
        (match x.kind.stored with | some q => overlaps p q | none => false)

/-- Whether the L1 serves an operation (R196). -/
def State.fromL1 (s : State) (c : Nat) (th : Thread) (o : Op) : Bool :=
  match o.kind with
  | .load (.dev pa) _ _ _ => !(o.acc.space == .glb && wideScope (s.inTwin th) o.sc) && (FMap.find? (s.core c).l1 (pa / 64)).isSome
  | _ => false

/-- Whether the lines of an operation's place are free: no engine owns them, and no translation derives from a page-table line that it
writes (R237, R380). -/
def State.placeFree (s : State) (c t : Nat) (th : Thread) (o : Op) : Bool :=
  match o.kind.place with
  | some (.dev pa, n) =>
    s.fromL1 c th o || !s.tgtHeld (s.accessSkip c t o) (ownCk c t) o.kind.writes (.dev pa) n
  | _ => true

/-- Whether an operation may be performed now. -/
def State.eligible (s : State) (c t : Nat) (th : Thread) (o : Op) : Bool :=
  th.inOrder o && !s.laneHeld c t th o && s.placeFree c t th o

/-- An operation that may not be performed yet: it waits at its home slice, for a recall if an engine owns the line (R237, R416). -/
def State.waits (s : State) (c t : Nat) (th : Thread) (o : Op) : State :=
  match o.kind.place with
  | some (p, n) => if th.inOrder o && !s.fromL1 c th o then s.noteTgt (s.accessSkip c t o) p n else s
  | none => s

/-! ## Performing -/

/-- What performing an operation gives: a value for a register, or the offset of the first poisoned byte. -/
inductive Perf
  | ok (v : Option Nat) (s : State)
  | poison (off : Nat) (s : State)

/-- One read-modify-write at the executing unit (R210, R221): the old value, or poison in the target bytes. -/
def State.rmw (s : State) (c : Nat) (b : Bid) (t : Tgt) (n : Nat) (f : Nat → Option Nat) : Perf :=
  let (bs, bad, s1) := s.readTgt c b t n true
  match bad with
  | i :: _ => .poison i s1
  | [] =>
    match f (leNat bs) with
    | some v => .ok (some (leNat bs)) (s1.writeTgt c b t (leBytes n v) [])
    | none => .ok (some (leNat bs)) s1

/-- An acquire at a wide scope invalidates the L1 before any later access (R191, R196, R226). -/
def State.acquireL1 (s : State) (c : Nat) (th : Thread) (o : Op) : State :=
  if o.kind.acquire && wideScope (s.inTwin th) o.sc then s.l1Invalidate c else s

/-- A cluster unit recalls a `glb` line of device memory before it applies an atomic narrower than `.dev` to it (R210, R416; log entry
46). -/
def State.recall (s : State) (t : Tgt) (a : Acc) : State :=
  match t with
  | .dev pa => if a.space == .glb && decide (a.scope.code < 4) then s.sliceBump (sliceOf pa) 2 1 else s
  | _ => s

/-- Performs a load, a store or a compare-and-swap. -/
def State.performOp (s : State) (c : Nat) (th : Thread) (o : Op) : Perf :=
  let s := s.acquireL1 c th o
  match o.kind with
  | .load t ty _ _ =>
    let (bs, bad, s1) := s.readTgt c th.bid t (ty.n / 8) (o.acc.space == .glb && wideScope (s.inTwin th) o.sc)
    match bad with
    | i :: _ => .poison i s1
    | [] => .ok (some (leNat bs)) s1
  | .store t n v _ => .ok none (s.writeTgt c th.bid t (leBytes n v.toNat) [])
  | .cas t ty b v _ _ => (s.recall t o.acc).rmw c th.bid t (ty.n / 8) fun m => if m = b.toNat then some v.toNat else none
  | _ => .ok none s

/-- The register type in which an operation's value lands. -/
def OpKind.landType : OpKind → IType
  | .load _ ty _ _ | .cas _ ty _ _ _ _ | .land _ ty _ => ty
  | .atom _ o _ _ _ _ => atomType o
  | .remote _ d _ _ => (d.map Prod.snd).getD .n32
  | _ => .n32

/-- Takes an operation out of flight and counts its flag down (R400). -/
def Thread.retire (th : Thread) (o : Op) : Thread :=
  let th1 := { th with ops := th.ops.filter fun x => x.uid != o.uid }
  match o.flag with
  | some i => th1.setFlag i (th1.flagCount i - 1)
  | none => th1

/-- An operation has been performed with a value: it lands when the clause that issued it has ended, until then it waits
(R79). -/
def Thread.finishOp (th : Thread) (o : Op) (v : Option Nat) : Thread :=
  match o.kind.dest, v with
  | some d, some x =>
    if th.exitedB then th.retire o
    else if th.crun = some o.clause then
      { th with ops := th.ops.map fun y => if y.uid = o.uid then { o with kind := .land d o.kind.landType x } else y }
    else (th.retire o).setInt o.kind.landType (BitVec.ofNat 8 d) x
  | _, _ => th.retire o

def insertLate (f : LateFault) : List LateFault → List LateFault
  | [] => [f]
  | g :: gs => if f.uid < g.uid then f :: g :: gs else g :: insertLate f gs

/-- An operation fails after issue: its destination is unchanged, its flag clears, and the fault waits for delivery (R222,
R350). -/
def Thread.failOp (th : Thread) (o : Op) (code off : Nat) : Thread :=
  let a := { o.acc with ea := o.acc.ea + BitVec.ofNat 64 off }
  { th.retire o with late := insertLate { uid := o.uid, code := code, acc := a } th.late }

/-- Enters the outcome of an operation into its thread. -/
def State.endOp (c t : Nat) (o : Op) : Perf → State
  | .ok v s => s.mapThread c t fun th => th.finishOp o v
  | .poison i s => s.mapThread c t fun th => th.failOp o fDataPoison i

/-! ## Gang merging (R211, R236) and the halves of two-wide atomics (R214) -/

/-- Threads of a core in home-lane order. -/
def byLane (es : FMap Thread) : FMap Thread :=
  (List.range 32).flatMap fun l => es.filter fun e => e.2.lane == l

/-- Whether the gang that issued an operation has still to issue the same instruction in other members. -/
def State.gangIssues (s : State) (c : Nat) (o : Op) : Bool :=
  (s.core c).gangs.any fun e => e.2.id == o.gang && e.2.index == o.index && !e.2.todo.isEmpty

/-- Whether an operation of a thread merges with another atomic: the same instruction of one gang, the same target, OP and type; a buffer
is that of the thread's block. -/
def mergesWith (th : Thread) (o : Op) (tgt : Tgt) (op : AtomOp) (e : Nat × Thread) (x : Op) : Bool :=
  x.gang == o.gang && x.index == o.index && (!tgt.isBuf || e.2.bid == th.bid) &&
    (match x.kind with | .atom g p _ _ _ _ => g == tgt && p == op | _ => false)

/-- The members of the merged operation that an atomic belongs to, outside deterministic mode. -/
def State.mergeGroup (s : State) (c t : Nat) (th : Thread) (o : Op) : List (Nat × Thread × Op) :=
  match o.kind with
  | .atom tgt op _ _ _ _ =>
    if s.det th then [(t, th, o)]
    else
      (byLane (s.core c).threads).filterMap fun e => (e.2.ops.find? fun x => mergesWith th o tgt op e x).map fun x => (e.1, e.2, x)
  | _ => [(t, th, o)]

/-- Whether an atomic may be performed: its gang has issued it in every member, and each member's own operation may be. -/
def State.groupReady (s : State) (c t : Nat) (th : Thread) (o : Op) : Bool :=
  (s.det th || !s.gangIssues c o) && (s.mergeGroup c t th o).all fun e => s.eligible c e.1 e.2.1 e.2.2

def atomOperand : OpKind → Nat
  | .atom _ _ v _ _ _ => v.toNat
  | _ => 0

/-- The values that the members of a merged operation receive: the old value combined with the operands before their own. -/
def prefixes (f : Nat → Nat → Nat) (old : Nat) : List Nat → Option Nat → List Nat
  | [], _ => []
  | v :: vs, none => old :: prefixes f old vs (some v)
  | v :: vs, some p => f old p :: prefixes f old vs (some (f p v))

/-- The combined operand. -/
def combined (f : Nat → Nat → Nat) : List Nat → Nat
  | [] => 0
  | v :: vs => vs.foldl f v

/-- The part of an atomic that is performed next: of a two-wide one the half that is left, or where neither is performed the one that goes
first (R214; log entry 76), else the whole. -/
def nextHalf (hi : Bool) (o : AtomOp) (done : Option Nat) : Option Nat :=
  if twoWide o then some (match done with | some k => 1 - k | none => hi.toNat) else none

/-- A word of the half `k` with the value `v` and the other half. -/
def joinHalves (k v other : Nat) : Nat := if k = 0 then v + 65536 * other else other + 65536 * v

/-- The new value of the part of an atomic that is performed. -/
def partNew (o : AtomOp) (h : Option Nat) : Nat → Nat → Nat := if h.isSome then halfNew o else atomNew o

/-- The operand of that part. -/
def partVal (h : Option Nat) (v : Nat) : Nat := match h with | some k => halfOf k v | none => v

/-- The place of that part, and its length. -/
def partPlace (t : Tgt) (o : AtomOp) (h : Option Nat) : Tgt × Nat :=
  match h with
  | some k => (t.add (2 * k), 2)
  | none => (t, o.n / 8)

/-- Half `k` of a two-wide atomic has been performed, with its old value. -/
def OpKind.setDone (k v : Nat) : OpKind → OpKind
  | .atom t o b d ord _ => .atom t o b d ord (some (k, v))
  | x => x

def OpKind.halfDone : OpKind → Option (Nat × Nat)
  | .atom _ _ _ _ _ done => done
  | _ => none

/-- Changes what an operation in flight is. -/
def Thread.mapOp (th : Thread) (uid : Nat) (f : OpKind → OpKind) : Thread :=
  { th with ops := th.ops.map fun x => if x.uid = uid then { x with kind := f x.kind } else x }

/-- A member of a merged operation receives the value of a part: of the half that goes first it is kept, of the other half or the whole the
operation ends. -/
def State.endPart (s : State) (c t : Nat) (o : Op) (h : Option Nat) (v : Nat) : State :=
  match h, o.kind.halfDone with
  | some k, none => s.mapThread c t fun th => th.mapOp o.uid (OpKind.setDone k v)
  | some k, some e => State.endOp c t o (.ok (some (joinHalves k v e.2)) s)
  | none, _ => State.endOp c t o (.ok (some v) s)

/-- Performs a merged atomic, or the next half of a two-wide one, once, and gives each member its value. Poison that the half which goes first
meets is in the whole of the access, which lies in one 64-bit word (R219, R222). -/
def State.performGroup (s : State) (c : Nat) (tgt : Tgt) (op : AtomOp) (g : List (Nat × Thread × Op)) : State :=
  match g with
  | [] => s
  | (_, th, o) :: _ =>
    let h := nextHalf s.hiFirst op (o.kind.halfDone.map Prod.fst)
    let s1 := g.foldl (fun s e => s.acquireL1 c e.2.1 e.2.2) s
    let s2 := if o.kind.halfDone.isSome then s1 else s1.recall tgt o.acc
    let vals := g.map fun e => partVal h (atomOperand e.2.2.kind)
    let p := partPlace tgt op h
    match s2.rmw c th.bid p.1 p.2 fun m => some (partNew op h m (combined (partNew op h) vals)) with
    | .poison i s3 => g.foldl (fun s e => State.endOp c e.1 e.2.2 (.poison (if o.kind.halfDone.isSome then i + 2 * h.getD 0 else i) s)) s3
    | .ok old s3 => (g.zip (prefixes (partNew op h) (old.getD 0) vals none)).foldl (fun s e => s.endPart c e.1.1 e.1.2.2 h e.2) s3

/-! ## Actions that follow a completion -/

/-- Performs a release action. -/
def State.doAct (s : State) (c : Nat) (th : Thread) : RelAct → State
  | .tbar a n => s.updateTbar th.bid a fun r => r.arrive n
  | .tbarv a => s.updateTbar th.bid a fun r => r.arrive 1
  | .ringp q i => s.ringPost th.bid q (s.ringSlots th q) i
  | .barArv k => s.barAdd th k
  | .token k => s.tokenAdd th.ctx k
  | .arels ch n => s.relSlots c ch n

/-- Whether a held release action may be performed: the thread's earlier accesses are, and for the arrival of a TBARVD the copies that it
bound (R404). -/
def Thread.actReady (th : Thread) (o : Op) (a : RelAct) : Bool :=
  (th.earlier o).all fun x => !x.kind.access && (match a, x.kind with | .tbarv _, .copy .. => false | _, _ => true)

/-- Performs the held release actions of a thread that are ready. -/
def State.runActs (s : State) (c t : Nat) : Nat → State
  | 0 => s
  | n + 1 =>
    match s.thread? c t with
    | none => s
    | some th =>
      match th.ops.find? fun o => match o.kind with | .act a => th.actReady o a | _ => false with
      | none => s
      | some o =>
        match o.kind with
        | .act a => State.runActs ((s.setThread c t (th.retire o)).doAct c th a) c t n
        | _ => s

/-- Removes the receipts of a context and grid whose tags lie in a range, on every slice (R217). -/
def State.closeReceipts (s : State) (ctx launch : Nat) (lo hi : Word) : State :=
  let rs := s.tables.receipts.map fun e =>
    if e.1 % 64 = ctx then
      (e.1, e.2.filter fun r => !(r.launch == launch && decide (lo ≤ r.tag) && decide (r.tag ≤ hi)))
    else e
  { s with tables := { s.tables with receipts := rs } }

/-- The launch number of a thread's grid modulo 2^16 (R389). -/
def State.launchNumber (s : State) (b : Bid) : Nat := ((s.launch? b.launch).map fun l => l.number % 65536).getD 0

/-- What a thread does once the operations it waits for are done: held release actions, the arrival of R177, the arrival of
R406, RCLOSE's removal, a checkpoint record, a held remote release. -/
def State.threadHook (s0 : State) (c t : Nat) : State :=
  let s := s0.runActs c t (((s0.thread? c t).map fun th => th.ops.length).getD 0)
  match s.thread? c t with
  | none => s
  | some th =>
    let s1 :=
      match th.status with
      | .blocked (.maskPre m v p) => if th.accessesDone then s.arrive c t th m v p else s
      | .blocked (.bar k .before arv) => if th.accessesDone then s.barArrive c t th k arv else s
      | .blocked (.rclose lo hi) =>
        if th.ops.all fun o => match o.kind with | .redt .. => false | _ => true then
          (s.closeReceipts th.ctx (s.launchNumber th.bid) lo hi).wake c t
        else s
      | .parked .rate => if th.accessesDone || th.ops.all fun o => !o.kind.acquire then s.wake c t else s
      | _ => s
    s1.writeCk c t

/-- The tests that end a core cycle (R176, R178, R181, R406). -/
def State.settle (s : State) (c : Nat) : State := (s.settleMasks c).settleBars c

/-- The hooks of several threads, then the tests of the cycle. -/
def State.after (s : State) (c : Nat) (ts : List Nat) : State :=
  let s1 := ts.foldl (fun s t => s.threadHook c t) s
  if (s1.core c).grant.isEmpty then s1.settle c else s1

/-! ## Events -/

/-- Whether a copy is bound to a transaction barrier. -/
def State.bound (s : State) (th : Thread) (uid : Nat) : Bool :=
  match s.block? th.bid with
  | some k => k.binds.any fun x => x.copies.any fun e => e.1 == uid
  | none => false

/-- The acquire of an engine operation whose flag clears, for the next clause that waits on the flag (R239). -/
def Thread.flagAcq (th : Thread) (flag : Option Nat) (wide : Bool) : Thread :=
  match flag with
  | some i => if wide then { th with acqf := th.acqf ||| (1 <<< i) } else th
  | none => th

/-- Moves 8-byte part k of a copy (R218, R228): the source bytes are read and the destination bytes written where they are kept, poison
marks moving with them (R219). -/
def State.movePart (s : State) (c t : Nat) (th : Thread) (o : Op) (k : Nat) : State :=
  match o.kind with
  | .copy src dst n _ parts _ =>
    if parts.contains k || n ≤ 8 * k then s
    else
      let m := min 8 (n - 8 * k)
      let (bs, marks, s1) := s.readHome c th.bid (src.add (8 * k)) m
      (s1.writeHome c th.bid (dst.add (8 * k)) bs marks).mapThread c t fun x =>
        x.mapOp o.uid fun y => match y with | .copy a b n sc ps bad => .copy a b n sc (k :: ps) (bad || !marks.isEmpty) | y => y
  | _ => s

/-- Performs what is left of a copy and ends it; the clearing of its flag carries an acquire at its scope (R239). -/
def State.performCopy (s : State) (c t : Nat) (o : Op) : State :=
  let step (s : State) (k : Nat) : State :=
    match s.thread? c t with
    | some th => (match th.ops.find? fun x => x.uid == o.uid with | some x => s.movePart c t th x k | none => s)
    | none => s
  let s1 := step (step s 0) 1
  match s1.thread? c t with
  | none => s1
  | some th =>
    match (th.ops.find? fun x => x.uid == o.uid).map Op.kind with
    | some (.copy _ dst _ _ _ bad) =>
      let s2 := s1.setThread c t ((th.retire o).flagAcq o.flag true)
      (s2.threadHook c t).copyDone th.bid o.uid dst bad
    | _ => s1

/-- Whether a copy may be performed: its thread's earlier accesses are, no earlier engine operation owns its lines, no translation is in
use under what it writes, and the writes of its gang before it are done (R203, R237, R238, R380). -/
def State.copyReady (s : State) (c t : Nat) (th : Thread) (o : Op) : Bool :=
  match o.kind with
  | .copy src dst n _ _ _ =>
    s.engineClear c t th o.uid && !s.laneHeld c t th o &&
      !s.tgtHeld (engineSkip o.uid) noSkip false src n && !s.tgtHeld (copySkip c t o.uid) (engineSkip o.uid) true dst n
  | _ => false

/-- A copy that may not be performed yet waits, for a recall if another engine owns a line (R237, R416). -/
def State.copyWaits (s : State) (c t : Nat) (th : Thread) (o : Op) : State :=
  match o.kind with
  | .copy src dst n _ _ _ =>
    if s.engineClear c t th o.uid then (s.noteTgt (engineSkip o.uid) src n).noteTgt (copySkip c t o.uid) dst n else s
  | _ => s

/-- A copy that may be performed is; any other waits. -/
def State.tryCopy (s : State) (c t : Nat) (th : Thread) (o : Op) : State :=
  if s.copyReady c t th o then (s.performCopy c t o).after c [t] else s.copyWaits c t th o

/-- BOUND_COPY_COMPLETION (R404): a copy that a TBARVD bound completes. -/
def execBoundCopyCompletion (c t u : Nat) (s : State) : Out :=
  match s.thread? c t with
  | none => .next s
  | some th =>
    match th.ops.find? fun o => o.uid == u with
    | none => .next s
    | some o => .next (if s.bound th u then s.tryCopy c t th o else s)

/-! ## Tagged reduce-stores (R216, R389) -/

/-- The receipts of a context at the home slice of an address. -/
def State.receiptsAt (s : State) (slice ctx : Nat) : List Receipt := FMap.getD s.tables.receipts (64 * slice + ctx) []

/-- What a tagged reduce-store finds at its home slice. -/
inductive Redt
  | dup
  | full
  | applied (p : Perf)

/-- The receipts of a context at a slice changed. -/
def State.setReceipts (s : State) (slice ctx : Nat) (rs : List Receipt) : State :=
  { s with tables := { s.tables with receipts := FMap.put s.tables.receipts (64 * slice + ctx) rs } }

/-- Looks a tag up and applies the reduce-store, of a two-wide one one half; the receipt is entered when it has been applied
(R214, R216, R221). At a host page the slice is that of the host address (log entry 77). -/
def State.redtAt (s : State) (c : Nat) (b : Bid) (ctx launch : Nat) (t : Tgt) (o : AtomOp) (v : Nat) (tag : Word) : Redt :=
  let sl := sliceOf (tgtAddr t)
  let rs := s.receiptsAt sl ctx
  let h := nextHalf s.hiFirst o none
  let p := partPlace t o h
  if rs.contains { tag := tag, launch := launch } then .dup
  else if Config.receiptsPer ≤ rs.length then .full
  else
    match s.rmw c b p.1 p.2 fun m => some (partNew o h m (partVal h v)) with
    | .poison i s1 => .applied (.poison i s1)
    | .ok _ s1 => .applied (.ok none (s1.setReceipts sl ctx ({ tag := tag, launch := launch } :: rs)))

/-- Applies the other half of a two-wide reduce-store of which half `k` is applied; one that fails has no receipt (R214, R221). -/
def State.redtRest (s : State) (c : Nat) (b : Bid) (ctx launch : Nat) (t : Tgt) (o : AtomOp) (v : Nat) (tag : Word) (k : Nat) : Perf :=
  let sl := sliceOf (tgtAddr t)
  match s.rmw c b (t.add (2 * (1 - k))) 2 fun m => some (halfNew o m (halfOf (1 - k) v)) with
  | .poison i s1 => .poison (2 * (1 - k) + i) (s1.setReceipts sl ctx ((s1.receiptsAt sl ctx).filter (· ≠ { tag := tag, launch := launch })))
  | .ok _ s1 => .ok none s1

/-- Half `k` of a two-wide tagged reduce-store has been applied. -/
def OpKind.setHalf (k : Nat) : OpKind → OpKind
  | .redt t o v tag rel _ => .redt t o v tag rel (some k)
  | x => x

/-- The outcome of a tagged reduce-store whose tag was not in the table: one half of a two-wide one leaves the other to do. -/
def State.redtDone (c t : Nat) (o : Op) (h : Option Nat) : Perf → State
  | .ok v s =>
    match h with
    | some k => s.mapThread c t fun x => x.mapOp o.uid (OpKind.setHalf k)
    | none => (State.endOp c t o (.ok v s)).after c [t]
  | p => (State.endOp c t o p).after c [t]

/-- A tagged reduce-store at its home slice (R216, R389). -/
def State.applyRedt (s : State) (c t : Nat) (th : Thread) (o : Op) (tgt : Tgt) (op : AtomOp) (v : Nat) (tag : Word) : State :=
  let sl := sliceOf (tgtAddr tgt)
  match s.redtAt c th.bid th.ctx (s.launchNumber th.bid) tgt op v tag with
  | .dup => ((s.sliceBump sl 3 1).mapThread c t fun x => x.retire o).after c [t]
  | .full =>
    if s.tables.redtWait.contains o.uid then s
    else { s.sliceBump sl 4 1 with tables := { s.tables with redtWait := o.uid :: s.tables.redtWait } }
  | .applied p =>
    let s1 := State.redtDone c t o (nextHalf s.hiFirst op none) p
    { s1 with tables := { s1.tables with redtWait := s1.tables.redtWait.erase o.uid } }

/-- REDT_APPLY (R216): a tagged reduce-store in flight is applied, dropped as a duplicate, or waits for a full partition. -/
def execRedtApply (c t u : Nat) (s : State) : Out :=
  match s.thread? c t with
  | none => .next s
  | some th =>
    match th.ops.find? fun o => o.uid == u with
    | none => .next s
    | some o =>
      match o.kind with
      | .redt tgt op v tag _ half =>
        if !s.eligible c t th o then .next (s.waits c t th o)
        else
          match half with
          | some k => .next ((State.endOp c t o (s.redtRest c th.bid th.ctx (s.launchNumber th.bid) tgt op v.toNat tag k)).after c [t])
          | none => .next (s.applyRedt c t th o tgt op v.toNat tag)
      | _ => .next s

end Sys2Proof.Machine
end

