-- ==== Sys2Proof/Machine/Control.lean ====
section
/-! DEFINITION. The meanings of the control-flow instructions (R141 to R148). -/

namespace Sys2Proof.Machine

/-- The address of the instruction that a thread issues (R142). -/
def State.here (s : State) (c : Nat) (th : Thread) : Dword := (s.site c th).pc

/-- The first multiple of 8 at or after the end of an instruction of `n` bytes (R142). -/
def nextHeader (here : Dword) (n : Nat) : Dword := roundUp8 (here + BitVec.ofNat 64 n)

/-- The target of a relative branch (R142). -/
def relTarget (here : Dword) (off : Word) : Dword := here + off.signExtend 64

/-! ## Branches -/

/-- BRA (R142). A false guard leaves the thread at the next header, where the step has put it (R73). -/
def execBra (x : BraArgs) (s : State) : Out :=
  runThread x.g (fun c t th s => .ok (s.setThread c t { th with pc := relTarget (s.here c th) x.off })) s

/-- BRX (R142). -/
def execBrx (x : AArgs) (s : State) : Out :=
  runThread x.g (checked [sp2 x.a] fun c t th s => .ok (s.setThread c t { th with pc := th.pair x.a.toNat })) s

/-! ## The call stack (R99, R142, R143) -/

/-- STACK_LIMIT: FADDR holds CSP (R102). -/
def stackLimit (th : Thread) : Flt := { code := fStackLimit, faddr := th.csp, finfo := 0 }

/-- An 8-byte access to the stack at scope `.thr`, in program order with the thread's own accesses: while an earlier access
holds it back the thread waits and executes the instruction again (R143). -/
def stackAccess (ea : Int) (kind : Nat) (k : Tgt → Body) : Body := fun c t th s =>
  let acc := accOf .prv .thr ea 8 kind
  match s.checkAccess th acc ea 8 0 with
  | .error f => .error f
  | .ok (.ok tgt) =>
    let op : Op :=
      { uid := s.uid, clause := 0, gang := 0, index := 0, sc := .thr, flag := none, acc := acc,
        kind := if kind = 0 then .load tgt .n64 0 false else .store tgt 8 0 false }
    if s.eligible c t th op then k tgt c t th (s.accessWalk c th acc) else .ok (s.waits c t th op).stall
  | .ok (.held va) => .ok (s.noteWalk th.ctx va).stall
  | .ok (.miss va kd e) => .ok (s.parkMiss c t th va kd e (s.site c th))
  | .ok (.divert va) => .ok (s.parkDivert c t th va kind (s.site c th))
  | .ok .aperture => .error (Flt.acc fXlatePerm acc)

/-- CALL and CALLX with a target, from an instruction of `n` bytes (R142). -/
def callTo (target : Dword) (n : Nat) : Body := fun c t th s =>
  let sp : Int := (th.csp.toNat : Int) - 8
  if sp < th.cslo.toNat then .error (stackLimit th)
  else
    stackAccess sp 1 (fun tgt c t th s =>
      let next := nextHeader (s.here c th) n
      .ok ((s.writeTgt c th.bid tgt (leBytes 8 next.toNat) []).setThread c t { th with pc := target, csp := th.csp - 8 })) c t th s

/-- CALL (R142). -/
def execCall (x : BraArgs) (s : State) : Out :=
  runThread x.g (fun c t th s => callTo (relTarget (s.here c th) x.off) 12 c t th s) s

/-- CALLX (R142). -/
def execCallx (x : AArgs) (s : State) : Out :=
  runThread x.g (checked [sp2 x.a] fun c t th s => callTo (th.pair x.a.toNat) 8 c t th s) s

/-- RET (R142). -/
def execRet (x : Bare) (s : State) : Out :=
  runThread x.g (fun c t th s =>
    if (th.cshi.toNat : Int) < (th.csp.toNat : Int) + 8 then .error (stackLimit th)
    else
      stackAccess (th.csp.toNat : Int) 0 (fun tgt c t th s =>
        let (bs, bad, s1) := s.readTgt c th.bid tgt 8 false
        match bad with
        | [] => .ok (s1.setThread c t { th with pc := BitVec.ofNat 64 (leNat bs), csp := th.csp + 8 })
        | _ => .error (Flt.acc fDataPoison (accOf .prv .thr (th.csp.toNat : Int) 8 0))) c t th s) s

/-! ## EXIT (R146) -/

/-- The operations in flight that an exited thread keeps: its loads are discarded, what changes memory completes; it arrives at no block
barrier any more (R146, R406). -/
def OpKind.outlives : OpKind → Bool
  | .load .. | .land .. | .act (.barArv _) => false
  | _ => true

/-- A thread's record after EXIT. -/
def Thread.ended (th : Thread) : Thread :=
  { th with status := .exited, f := [], res := none, ops := th.ops.filter fun o => o.kind.outlives }

/-- EXIT (R146): masks and arrival sets lose the thread (R180, R406). -/
def execExit (x : Bare) (s : State) : Out :=
  runThread x.g (fun c t th s => .ok (((s.setThread c t th.ended).leaveMasks th).leaveBars th)) s

/-! ## YIELD and PAUSE (R147, R148, R295) -/

/-- A thread that yields in a core cycle. -/
def Thread.yielding (th : Thread) (cycle : Nat) : Thread := { th with status := .paused (cycle + 32) true, w := 0 }

/-- YIELD (R147). -/
def execYield (x : Bare) (s : State) : Out :=
  runThread x.g (fun c t th s => .ok (s.setThread c t (th.yielding (s.core c).cycle))) s

/-- The greatest count of a PAUSE. -/
def pauseMax : Nat := 1048575

/-- PAUSE (R148): a count of 0 leaves the thread ready at once. -/
def execPause (x : PauseArgs) (s : State) : Out :=
  runThread x.g (checked (spAmount x.c) fun c t th s =>
    let n := min (match x.c with | .reg r => (th.reg r.toNat).toNat | .imm8 v => v.toNat | .imm32 v => v.toNat) pauseMax
    if n = 0 then .ok s else .ok (s.setThread c t { th with status := .paused ((s.core c).cycle + n) false })) s

end Sys2Proof.Machine
end

