-- ==== Sys2Proof/Machine/System.lean ====
section
/-! DEFINITION. The meanings of the system instructions (R301 to R306) and of the counter reads (R415). -/

namespace Sys2Proof.Machine

/-- TRAP (R302). -/
def execTrap (x : TrapArgs) (s : State) : Out :=
  runThread x.g (fun _ _ _ _ => .error { code := fTrap, faddr := 0, finfo := x.code.setWidth 32 }) s

/-- BKPT (R302). -/
def execBkpt (x : TrapArgs) (s : State) : Out :=
  runThread x.g (fun _ _ _ _ => .error { code := fBkpt, faddr := 0, finfo := x.code.setWidth 32 }) s

/-! ## Return from a handler (R303) -/

def fcauseIndex (v : Word) : Nat := (v.extractLsb' 16 5).toNat
def fcauseClause (v : Word) : Bool := v.getLsbD 10
def fcauseLen (v : Word) : BitVec 2 := v.extractLsb' 8 2
def fcauseCode (v : Word) : Nat := (v.extractLsb' 0 8).toNat

/-- The count of the header at an address, 0 when a fetch of it faults. -/
def State.countAt (s : State) (c ctx : Nat) (hdr : Dword) : Except FetchErr Nat :=
  match s.fetchWords c ctx hdr 2 with
  | .ok (lo :: hi :: _, _) => .ok (hdrCount (hi ++ lo))
  | .ok _ => .ok 0
  | .error e => e.orElse 0

/-- The thread leaves its handler and stands at an address: at instruction `j` of the clause at FHDR, or at a header. -/
def State.resumeAt (s : State) (c t : Nat) (th : Thread) (pc : Dword) (j : Option Nat) : State :=
  s.setThread c t { th with hm := false, pc := pc, gap := false, res := j.map fun j => (th.fhdr, j) }

/-- An HRET whose clause at FHDR cannot be fetched yet: it parks at a replayable miss, and waits for a line that an engine owns (R237,
R379). -/
def State.fetchWaits (s : State) (c t : Nat) (th : Thread) : FetchErr → State
  | .replay va e => s.parkMiss c t th va 3 e (s.site c th)
  | .held ps => (ps.foldl (fun s p => s.noteRecall noSkip p.1 p.2) s).stall
  | .code _ => s

/-- The return to an address (R303). -/
def hretTo (pc : Dword) : Body := fun c t th s =>
  match s.resumeIndex c th.ctx th.fhdr pc with
  | .ok j => .ok (s.resumeAt c t th pc j)
  | .error e => .ok (s.fetchWaits c t th e)

/-- HRET (R303). -/
def execHret (x : Bare) (s : State) : Out :=
  runThread x.g (fun c t th s => if th.hm then hretTo th.fpc c t th s else .error (Flt.plain fPriv)) s

/-- The address after the faulting instruction, which stands in a clause of `n` (R303). -/
def skipTo (th : Thread) (n : Nat) : Dword :=
  let e := endOf th.fpc (fcauseLen th.fcause)
  if fcauseIndex th.fcause + 1 = n then roundUp8 e else nextStart e

/-- HRET.skip (R303). -/
def execHretSkip (x : Bare) (s : State) : Out :=
  runThread x.g (fun c t th s =>
    if !th.hm then .error (Flt.plain fPriv)
    else if fcauseClause th.fcause || fcauseLen th.fcause == 0 then .error (Flt.plain fIllegalField)
    else
      match s.countAt c th.ctx th.fhdr with
      | .ok n => hretTo (skipTo th n) c t th s
      | .error e => .ok (s.fetchWaits c t th e)) s

/-! ## System registers (R100, R304) -/

/-- THSTAT (R100). -/
def State.thstat (s : State) (th : Thread) : Word :=
  let x := s.ctx th.ctx
  BitVec.ofNat 32 (8 * th.nofair.toNat + 4 * x.policy.toNat + 2 * x.det.toNat + th.hm.toNat)

/-- Whether a register is reached in handler mode only. -/
def handlerOnly : SysReg → Bool
  | .fcause | .fpc | .fhdr | .faddr | .finfo | .hscratch0 | .hscratch1 => true
  | .thstat | .csp | .cslo | .cshi => false

/-- The value of a system register. -/
def State.sysVal (s : State) (th : Thread) : SysReg → Dword
  | .thstat => (s.thstat th).setWidth 64
  | .fcause => th.fcause.setWidth 64
  | .fpc => th.fpc
  | .fhdr => th.fhdr
  | .faddr => th.faddr
  | .finfo => th.finfo.setWidth 64
  | .hscratch0 => th.hs0
  | .hscratch1 => th.hs1
  | .csp => th.csp
  | .cslo => th.cslo
  | .cshi => th.cshi

/-- A system register written; reserved bits of FCAUSE and FINFO stay 0 (R11, R101, R102). -/
def Thread.setSys (th : Thread) (r : SysReg) (v : Dword) : Thread :=
  match r with
  | .fcause => { th with fcause := v.extractLsb' 0 32 &&& 0x001F07FF }
  | .fpc => { th with fpc := v }
  | .fhdr => { th with fhdr := v }
  | .faddr => { th with faddr := v }
  | .finfo => { th with finfo := v.extractLsb' 0 32 &&& 0x00000FFF }
  | .hscratch0 => { th with hs0 := v }
  | .hscratch1 => { th with hs1 := v }
  | .thstat | .csp | .cslo | .cshi => th

/-- One register, or a pair for a 64-bit system register. -/
def spSys (r : SysReg) (x : GReg) : Nat × Nat := (x.toNat, if r.wide then 2 else 1)

/-- SRD (R304). -/
def execSrd (x : SrArgs) (s : State) : Out :=
  runThread x.g (checked [spSys x.r x.x] fun c t th s =>
    if handlerOnly x.r && !th.hm then .error (Flt.plain fPriv)
    else
      let v := s.sysVal th x.r
      .ok (s.setThread c t (if x.r.wide then th.setPair x.x.toNat v else th.setReg x.x.toNat (v.extractLsb' 0 32)))) s

/-- SWR (R304); THSTAT, CSP, CSLO and CSHI raise ILLEGAL_FIELD (R100). -/
def execSwr (x : SrArgs) (s : State) : Out :=
  runThread x.g (fun c t th s =>
    if !x.r.writable then .error (Flt.plain fIllegalField)
    else
      checked [spSys x.r x.x] (fun c t th s =>
        if !th.hm then .error (Flt.plain fPriv)
        else .ok (s.setThread c t
          (th.setSys x.r (if x.r.wide then th.pair x.x.toNat else (th.reg x.x.toNat).setWidth 64)))) c t th s) s

/-! ## Translations and escalation (R305, R306) -/

/-- FLTR (R305). -/
def execFltr (x : Bare) (s : State) : Out :=
  runThread x.g (fun c _ th s => .ok { s with tlb := s.tlb.filter fun e => !(e.core == c && e.ctx == th.ctx) }) s

/-- Whether a cached translation covers an address. -/
def TlbEntry.covers (e : TlbEntry) (va : Dword) : Bool := e.page == va.toNat / (if e.big then 2 ^ 29 else 65536)

/-- FLTR.pg (R305). -/
def execFltrPg (x : AArgs) (s : State) : Out :=
  runThread x.g (checked [sp2 x.a] fun c _ th s =>
    let va := th.pair x.a.toNat
    .ok { s with tlb := s.tlb.filter fun e => !(e.core == c && e.ctx == th.ctx && e.covers va) }) s

/-- ESCL (R306). -/
def execEscl (x : Bare) (s : State) : Out :=
  runThread x.g (fun c t th s =>
    if !th.hm then .error (Flt.plain fPriv)
    else .ok (s.escalate c t th false { code := fcauseCode th.fcause, faddr := th.faddr, finfo := th.finfo } (s.site c th))) s

/-! ## Counters (R415) -/

/-- Core counter n. -/
def Core.counter (k : Core) (n : Nat) : Nat := if n = 0 then k.cycle else FMap.getD k.perf n 0

/-- CYCR (R415). -/
def execCycr (x : DArgs) (s : State) : Out :=
  runThread x.g (checked [sp2 x.d] fun c t th s =>
    .ok (s.setThread c t (th.setPair x.d.toNat (BitVec.ofNat 64 ((s.core c).counter 0))))) s

/-- PERFR (R415): a number above 0x09 raises ILLEGAL_FIELD. -/
def execPerfr (x : PerfrArgs) (s : State) : Out :=
  runThread x.g (fun c t th s =>
    if 9 < x.n.toNat then .error (Flt.plain fIllegalField)
    else checked [sp2 x.d] (fun c t th s =>
      .ok (s.setThread c t (th.setPair x.d.toNat (BitVec.ofNat 64 ((s.core c).counter x.n.toNat))))) c t th s) s

end Sys2Proof.Machine
end

