-- ==== Sys2Proof/Machine/Cycle.lean ====
section
/-! DEFINITION. How a gang in an issue slot issues its instructions thread by thread, and how a clause ends (R24, R73, R88,
R288, R291, R295); GANG_PICK. -/

namespace Sys2Proof.Machine

/-! ## Before an instruction -/

/-- The gang that issues first in a core's cycle, with its slot. -/
def State.granted (s : State) (c k : Nat) : Option Gang :=
  match (s.core c).grant with
  | j :: _ => if j = k then FMap.find? (s.core c).gangs k else none
  | [] => none

/-- Makes a member of a gang the agent; at the last instruction of a clause the thread stands at the next header already, which
a branch then replaces (R73, R142). -/
def State.prepare (s : State) (c t : Nat) (g : Gang) : State :=
  let s1 := { s with cur := .thread c t }
  if g.last then s1.mapThread c t fun th => { th with pc := g.next } else s1

/-- The guard field of an instruction's words (R74). -/
def guardOf (ws : List Word) : BitVec 4 :=
  match ws with
  | _ :: w1 :: _ => w1.extractLsb' 12 4
  | _ => 0

/-- The feature that an instruction's opcode and sub-operation need, else ILLEGAL_OP (R392). -/
def opFeature (ws : List Word) : Option Nat :=
  match ws with
  | w :: v :: _ =>
    match (majorOf w).toNat with
    | 0xA1 => some 0
    | 0xE2 => some 4
    | 0xD0 | 0xD1 | 0xD2 | 0xD3 => some 6
    | 0xD5 | 0xD6 | 0xD7 | 0xD8 => some 7
    | 0x73 | 0x74 => some 10
    | 0xD4 => if v.extractLsb' 26 6 == 1 then some 11 else none
    | _ => none
  | _ => none

/-- An instruction word that decodes to nothing: ILLEGAL_FIELD for guard 0x8, no effect under a false guard, else its fault, an absent
feature's ILLEGAL_OP before ILLEGAL_FIELD (R87, R88, R392). -/
def State.badWord (s : State) (c t : Nat) (ws : List Word) (e : DErr) : State :=
  match s.thread? c t with
  | none => s
  | some th =>
    let absent := (opFeature ws).any s.lacksFeature
    let code := if guardOf ws = 8 then fIllegalField else match e with | .illegalOp => fIllegalOp | .illegalField => if absent then fIllegalOp else fIllegalField
    if guardOf ws = 8 || th.guard (guardOf ws) then s.takeFault c t (Flt.plain code) (s.site c th) else s

/-! ## After an instruction -/

/-- Whether an instruction's major opcode is that of a branch, a call, a return or HRET. -/
def isJump (op : Nat) : Bool := (decide (1 ≤ op) && decide (op ≤ 5)) || op == 0xE1

/-- What the end of its clause leaves a thread in: a thread that runs on is ready, or paused by the header's yield bit, the
longer of two pauses standing (R295). -/
def Thread.clauseStatus (th : Thread) (cycle : Nat) (yield : Bool) : Thread :=
  match th.status, yield with
  | .running _, false => { th with status := .ready }
  | .running _, true | .ready, true => { th with status := .paused (cycle + 32) true, w := 0 }
  | .paused till _, true => { th with status := .paused (max till (cycle + 32)) true, w := 0 }
  | .blocked _, true | .parked _, true => { th with yieldTill := cycle + 32, w := 0 }
  | _, _ => th

/-- A thread ends its clause: results may land from now on (R79), the record of a PRECK of this clause falls due, the clause of an HRET being one
of the handler's (R298), and a nonzero gap before the header that it falls through to is remembered (R73). -/
def Thread.endClause (th : Thread) (cycle : Nat) (g : Gang) : Thread :=
  let jumped := (match g.rest with | w :: _ => isJump (majorOf w).toNat | [] => false) && th.guard (guardOf g.rest)
  let left := (match g.rest with | w :: _ => majorOf w == 0xE1#8 | [] => false) && th.guard (guardOf g.rest)
  let th1 := th.clauseStatus cycle (hdrYield g.header)
  { th1 with
    crun := none, gap := g.gap && !jumped && th.res.isNone,
    preck := th.preck.map fun k => if k.hm == (th.hm || left) then { k with due := true } else k }

/-- The address at which the most of a gang's threads are ready, ties to the lowest, unless the other slot holds it (R291). -/
def State.stayOf (s : State) (c k : Nat) (ms : List Nat) : Option (Dword × Nat) :=
  let ps := ms.filterMap fun t => (s.thread? c t).bind fun th => if s.ready c th then some th.place else none
  let n (p : Dword × Nat) := (ps.filter (· == p)).length
  let best := ps.foldl (fun b p =>
    match b with
    | none => some p
    | some q => if n q < n p || (n q == n p && placeLt p q) then some p else some q) none
  let other := (FMap.find? (s.core c).gangs (1 - k)).map fun g => (g.hdrAddr, g.start)
  if best == other then none else best

/-- A gang has issued its instruction in every member: it goes on to the next, or gives up its slot (R288, R291) with what it had reserved
(R245) and the stale lines that no clause uses any more (R198). The tests that end a cycle follow its last action, so an exchange on a mask
that completes in its own cycle reads the capture before (R182; log entry 78). -/
def State.gangDone (s : State) (c k : Nat) (g : Gang) : State :=
  let kc := s.core c
  let grant := kc.grant.filter (· ≠ k)
  let used (g : Gang) (line : Nat) : Bool := (FMap.del kc.gangs k).any (fun e => e.2.lines.contains line) || !g.lines.contains line
  let ibuf := kc.ibuf.filter fun e => !e.2.stale || used g e.1
  let s1 :=
    if g.last || g.members.isEmpty then
      let stay := match s.stayOf c k g.members with | some p => FMap.put kc.stay k p | none => FMap.del kc.stay k
      s.setCore c { kc with gangs := FMap.del kc.gangs k, stay := stay, grant := grant, ibuf := ibuf }
    else s.setCore c { kc with gangs := FMap.put kc.gangs k g.advance, grant := grant }
  if grant.isEmpty then s1.settle c else s1

/-- What follows an instruction that a member of a gang has issued. -/
def State.finish (s : State) (c k t : Nat) : State :=
  match FMap.find? (s.core c).gangs k with
  | none => s
  | some g =>
    let mine := g.members.contains t
    let s1 := if g.last && mine then (s.mapThread c t fun th => th.endClause (s.core c).cycle g).threadHook c t else s
    match FMap.find? (s1.core c).gangs k with
    | none => s1
    | some g1 =>
      let g2 : Gang := { g1 with todo := g1.todo.filter (· ≠ t) }
      let s2 := s1.setCore c { s1.core c with gangs := FMap.put (s1.core c).gangs k g2 }
      if g2.todo.isEmpty then s2.gangDone c k g2 else s2

/-! ## Core cycles -/

/-- A core cycle begins only when the gangs that issue in the last one have issued, on a core with power. -/
def State.cycleDue (s : State) (c : Nat) : Bool := decide (c < Config.nCores) && (s.core c).grant.isEmpty && (s.core c).powered

/-- GANG_PICK (R290): one core cycle of a core; checkpoint records that could not be written yet are (R298). A cycle in which no gang
issues ends at once. -/
def execGangPick (c : Nat) (s : State) : Out :=
  if s.cycleDue c then
    let s0 := s.coreCycle c
    let s1 := (s0.core c).threads.foldl (fun s e => if e.2.preck.isEmpty then s else s.writeCk c e.1) s0
    .next (if (s1.core c).grant.isEmpty then s1.settle c else s1)
  else .next s

end Sys2Proof.Machine
end

