-- ==== Sys2Proof/Machine/Matrix.lean ====
section
/-! DEFINITION. The matrix array: weight records, the latch, the down-converter, WLD to DCFG, and the events that perform the
matrix queue's operations (R243 to R263). -/

namespace Sys2Proof.Machine

/-! ## Buffer operands of engine instructions (R247, R436) -/

/-- A buffer operand: `n1` by `n2` ranges of `size` bytes at base + i·d1 + j·d2, the alignment of the base and the strides that must
share it, and the access kind. -/
structure Opd where
  sp : Space
  base : Int
  d1 : Nat
  n1 : Nat
  d2 : Nat
  n2 : Nat
  size : Nat
  align : Nat
  strides : List Nat
  kind : Nat
  deriving DecidableEq, Repr

/-- An operand of one range. -/
def Opd.range (sp : Space) (base : Int) (size align kind : Nat) : Opd :=
  { sp := sp, base := base, d1 := 0, n1 := 1, d2 := 0, n2 := 1, size := size, align := align, strides := [], kind := kind }

/-- An operand of rows. -/
def Opd.rows (sp : Space) (base row rows size align kind : Nat) : Opd :=
  { sp := sp, base := base, d1 := 0, n1 := 1, d2 := row, n2 := rows, size := size, align := align, strides := [], kind := kind }

/-- log2 of an alignment of 4, 16 or 64 bytes. -/
def log2Align : Nat → Nat
  | 4 => 2 | 16 => 4 | _ => 6

def Opd.fault (o : Opd) (code : Nat) (a : Int) : Flt :=
  Flt.acc code { space := o.sp, scope := .blk, ea := BitVec.ofInt 64 a, size := log2Align o.align, kind := o.kind }

/-- The address that MISALIGNED reports. -/
def Opd.misaligned (o : Opd) : Option Int :=
  if o.base % o.align ≠ 0 then some o.base
  else (o.strides.find? fun d => d % o.align ≠ 0).map fun d => o.base + d

/-- The lowest byte at or beyond an allocation in the ranges of one `i`, from a start `b`. -/
def outsideRow (b d2 n2 size alloc : Nat) : Option Nat :=
  if b + (n2 - 1) * d2 + size ≤ alloc then none
  else
    let j := if b + size > alloc || d2 = 0 then 0 else (alloc - size - b) / d2 + 1
    some (max alloc (b + j * d2))

def minOpt (a b : Option Nat) : Option Nat :=
  match a, b with
  | some x, some y => some (min x y)
  | some x, none => some x
  | none, y => y

/-- The address that BOUNDS reports. -/
def Opd.outside (o : Opd) (alloc : Nat) : Option Int :=
  if o.base < 0 then some o.base
  else
    ((List.range o.n1).foldl (fun r i => minOpt r (outsideRow (o.base.toNat + i * o.d1) o.d2 o.n2 o.size alloc)) none).map
      fun a => (a : Int)

/-- The first fault of a list of operands, MISALIGNED before BOUNDS (R247, R436). -/
def State.checkOpds (s : State) (b : Bid) (os : List Opd) : Option Flt :=
  match os.findSome? fun o => o.misaligned.map fun a => o.fault fMisaligned a with
  | some f => some f
  | none => os.findSome? fun o => (o.outside (s.alloc b o.sp)).map fun a => o.fault fBounds a

/-! ## Entering the queues (R244) -/

/-- The access record that an engine operation carries in its thread. -/
def engineAcc : Acc := { space := .cbuf, scope := .blk, ea := 0, size := 0, kind := 0 }

/-- The part of a block that a core holds. -/
def State.halfOf (s : State) (c : Nat) (b : Bid) : Nat := ((s.block? b).map fun k => k.half c).getD 0

/-- An operation that enters an engine queue takes one of the entries that its gang has reserved (R245). -/
def State.useEntry (s : State) (c : Nat) (th : Thread) (f : Gang → Gang) : State :=
  match th.status with
  | .running k =>
    match FMap.find? (s.core c).gangs k with
    | some g => s.setCore c { s.core c with gangs := FMap.put (s.core c).gangs k (f g) }
    | none => s
  | _ => s

/-- Places an operation in the matrix queue. -/
def enqueueM (fl : Option Nat) (k : MKind) : Body := fun c t th s =>
  let s1 := (s.issueOp c t th fl (.engine s.uid) engineAcc).useEntry c th fun g => { g with roomM := g.roomM - 1 }
  let kc := s1.core c
  .ok (s1.setCore c { kc with mq := kc.mq ++ [{ uid := s.uid, slot := t, bid := th.bid, half := s.halfOf c th.bid, kind := k, done := 0 }] })

/-- A body whose operands are checked first. -/
def onOpds (os : Thread → List Opd) (k : Body) : Body := fun c t th s =>
  match s.checkOpds th.bid (os th) with
  | some f => .error f
  | none => k c t th s

/-! ## Weight tile and activation records (R248 to R251) -/

/-- Whether a format is FP8. -/
def isFp8 (f : Fmt) : Bool := f == .e4m3 || f == .e5m2

/-- Stored K of a column. -/
def kOf (f : Fmt) : Nat := if f == .f32 then 32 else 64

/-- Columns of a record. -/
def nOf (f : Fmt) : Nat :=
  match f with
  | .lns6 => 64
  | .e4m3 | .e5m2 => 32
  | .bf16 | .f16 => 16
  | _ => 8

/-- Bytes of a column. -/
def cbOf (f : Fmt) : Nat :=
  match f with
  | .lns6 => 48
  | .e4m3 | .e5m2 => 64
  | _ => 128

/-- The size of a weight tile record (R248). -/
def recordSize (f : Fmt) (scaled sparse : Bool) : Nat :=
  nOf f * cbOf f + (if scaled then 2 * nOf f else 0) + (if sparse then 16 * nOf f else 0)

/-- Logical K of a row-step. -/
def kLogical (f : Fmt) (sparse : Bool) : Nat := if sparse then 2 * kOf f else kOf f

/-- The size of an activation record in `abuf` or `cbuf` (R251). -/
def actSize (f : Fmt) (cb scaled sparse : Bool) : Nat :=
  if cb then 4 * kLogical f sparse
  else
    let n := kLogical f sparse
    let raw := n * Fmt.n f / 8 + (if scaled then n / 32 else 0)
    (raw + 15) / 16 * 16

/-! ## WLD and WLDS (R252) -/

/-- A body that raises ILLEGAL_FIELD for a format, or a scaled FP8, whose feature is absent (R392). -/
def featureGate (f : Fmt) (scaled : Bool) (g : BitVec 4) (k : State → Out) (s : State) : Out :=
  gated g (f == .lns6) 1 fIllegalField s fun s => gated g (scaled && isFp8 f) 2 fIllegalField s k

/-- WLD and WLDS. -/
def wldIssue (x : WldArgs) (sparse : Bool) (s : State) : Out :=
  featureGate x.fmt x.scaled x.h.g (fun s => classL x.h [sp1 x.a] (fun fl =>
    needRole .matrix (fun c t th s =>
      let addr : Int := ((th.reg x.a.toNat).toNat : Int) + ((x.off.map fun v => v.toInt).getD 0)
      onOpds (fun _ => [Opd.range .wbuf addr (recordSize x.fmt x.scaled sparse) 64 0])
        (enqueueM fl (.wld x.fmt x.scaled sparse addr.toNat)) c t th s)) s) s

/-- WLD (R252). -/
def execWld (x : WldArgs) (s : State) : Out := wldIssue x false s

/-- WLDS (R252). -/
def execWlds (x : WldArgs) (s : State) : Out :=
  gated x.h.g true 0 fIllegalOp s fun s => wldIssue x true s

/-! ## MLOOP, MZERO, DCFG at issue (R253, R255, R259) -/

/-- MLOOP (R255). -/
def execMloop (x : MloopArgs) (s : State) : Out :=
  gated x.h.g x.sparse 0 fIllegalField s fun s =>
    featureGate x.fmt x.scaled x.h.g (fun s => classL x.h [sp1 x.c, sp1 x.a, sp1 x.s] (fun fl =>
      needRole .matrix (fun c t th s =>
        let ca := (th.reg x.c.toNat).toNat
        let aa := (th.reg x.a.toNat).toNat
        let sa := ((th.reg x.s.toNat).extractLsb' 0 16).toNat
        let sc := ((th.reg x.s.toNat).extractLsb' 16 16).toNat
        let rows := x.rows1.toNat + 1
        let steps := x.steps1.toNat + 1
        let da := 16 * x.da.toNat
        let dc := 256 * x.dc.toNat
        let acc : Opd :=
          { sp := .cbuf, base := ca, d1 := dc, n1 := steps, d2 := sc, n2 := rows, size := 4 * nOf x.fmt, align := 4,
            strides := [sc], kind := 2 }
        let act : Opd :=
          { sp := if x.cb then .cbuf else .abuf, base := aa, d1 := da, n1 := steps, d2 := sa, n2 := rows,
            size := actSize x.fmt x.cb x.scaled x.sparse, align := 16, strides := [sa], kind := 0 }
        onOpds (fun _ => [acc, act])
          (enqueueM fl (.mloop x.fmt x.cb x.scaled x.sparse x.init ca aa sa sc rows steps da (64 * x.dw.toNat) dc)) c t th s)) s) s

/-- MZERO (R259). -/
def execMzero (x : MzeroArgs) (s : State) : Out :=
  classL x.h [sp1 x.a] (fun fl =>
    needRole .matrix (fun c t th s =>
      let a := (th.reg x.a.toNat).toNat
      onOpds (fun _ => [Opd.range .cbuf a x.len.toNat 64 1]) (enqueueM fl (.mzero a x.len.toNat)) c t th s)) s

/-- Whether a value may stand in DCV: no reserved bit, MODE 0 or 1 (R253). -/
def dcvOk (v : Word) : Bool := v.extractLsb' 16 16 == 0 && v.extractLsb' 4 4 == 0 && !v.getLsbD 1

/-- DCFG (R253). -/
def execDcfg (x : DcfgArgs) (s : State) : Out :=
  runThread x.g (checked (spRI1 x.v) fun c t th s =>
    if dcvOk (th.ri x.v) then needRole .matrix (enqueueM none (.dcfg (th.ri x.v))) c t th s
    else .error (Flt.plain fIllegalField)) s

/-! ## MSYNC, MSTAT, MSCLR (R260 to R263) -/

/-- MSYNC (R260): the thread joins no gang until its operations have completed (`waitOver`). -/
def execMsync (x : Bare) (s : State) : Out :=
  runThread x.g (needRole .matrix fun c t th s =>
    .ok (s.setThread c t { th with wsite := s.site c th, status := .blocked .msync })) s

/-- MSTAT (R262). -/
def execMstat (x : DArgs) (s : State) : Out :=
  runThread x.g (checked [sp2 x.d] fun c t th s => .ok (s.setThread c t (th.setPair x.d.toNat (s.core c).mstat))) s

/-- MSTAT after MSCLR with a mask: what the mask names is cleared, but events of the same core cycle stand (R262, R263). -/
def mstatClear (v events mask : Dword) : Dword :=
  let m : Dword := (mask &&& 0x7F) ||| (if mask.getLsbD 32 then 0xFFFFFFFF00000000 else 0)
  (v &&& ~~~m) ||| (events &&& m)

/-- MSTAT with the events of a core cycle added: bits set, the count saturating (R262, R263). -/
def mstatAdd (v e : Dword) : Dword :=
  let n := (v.extractLsb' 32 32).toNat + (e.extractLsb' 32 32).toNat
  BitVec.ofNat 32 (min n 0xFFFFFFFF) ++ (v.extractLsb' 0 32 ||| e.extractLsb' 0 32)

/-- MSCLR (R262); an event of the same core cycle stands after the clear (R263). -/
def execMsclr (x : AArgs) (s : State) : Out :=
  runThread x.g (checked [sp2 x.a] fun c _ th s =>
    let k := s.core c
    .ok (s.setCore c { k with mstat := mstatClear k.mstat k.mevents (th.pair x.a.toNat) })) s

/-! ## Engine events (R263) -/

/-- An MSTAT event of a core (R262, R263). -/
def State.mstatEvent (s : State) (c : Nat) (e : Dword) : State :=
  let k := s.core c
  s.setCore c { k with mstat := mstatAdd k.mstat e, mevents := mstatAdd k.mevents e }

/-- Sets an MSTAT bit. -/
def State.mstatSet (s : State) (c bit : Nat) : State := s.mstatEvent c ((1 : Dword) <<< bit)

/-- One row-step that met an elided special activation (R250, R261). -/
def State.elided (s : State) (c : Nat) : State := s.mstatEvent c 0x100000001

/-- An engine operation of a thread completes: its flag clears, with an acquire at a scope for the clause that waits on it (R239). -/
def State.engineDone (s : State) (c slot uid : Nat) (b : Bid) (sc : Scope) : State :=
  match s.thread? c slot with
  | none => s
  | some th =>
    if th.bid == b then
      match th.ops.find? fun o => o.kind == .engine uid with
      | none => s
      | some o => (s.setThread c slot ((th.retire o).flagAcq o.flag (wideScope (s.inTwin th) sc))).after c [slot]
    else s

/-- Whether the engines of a core run: its context is not being halted or killed (R273, R296). -/
def State.enginesRun (s : State) (c : Nat) : Bool :=
  match (s.core c).ctx with
  | some x => s.runs x
  | none => true

/-- The head of the matrix queue, once its issuer's earlier accesses to the buffers are performed (R238, R246). -/
def State.matrixHead (s : State) (c : Nat) : Option MOp :=
  match (s.core c).mq with
  | [] => none
  | m :: _ =>
    if s.issuerClear c m.slot m.bid m.uid && s.enginesRun c then some m else none

/-- Removes the head of the matrix queue and completes it. -/
def State.matrixPop (s : State) (c : Nat) (m : MOp) : State :=
  (s.setCore c { s.core c with mq := (s.core c).mq.drop 1 }).engineDone c m.slot m.uid m.bid .blk

/-- A buffer of the block that an operation belongs to. -/
def State.engineBuf (s : State) (b : Bid) (half : Nat) (sp : Space) : Store :=
  match s.block? b with
  | some k => k.store half sp
  | none => Store.empty

def State.setEngineBuf (s : State) (b : Bid) (half : Nat) (sp : Space) (m : Store) : State :=
  match s.block? b with
  | some k => s.setBlock (k.setStore half sp m)
  | none => s

/-! ## WLD, MZERO and DCFG performed -/

/-- Reads a weight record into a latch. -/
def readLatch (m : Store) (f : Fmt) (scaled sparse : Bool) (addr from_ : Nat) : Latch :=
  let n := recordSize f scaled sparse
  { fmt := some f, scaled := scaled, sparse := sparse, addr := addr, bytes := m.readBytes from_ n, poison := m.badOffsets from_ n }

/-- WLD_EXECUTE (R252): the head of a core's matrix queue, if it is a WLD or WLDS. -/
def execWldExecute (c : Nat) (s : State) : Out :=
  match s.matrixHead c with
  | none => .next s
  | some m =>
    match m.kind with
    | .wld f sc sp a =>
      let l := readLatch (s.engineBuf m.bid m.half .wbuf) f sc sp a a
      .next ((s.setCore c { s.core c with latch := l }).matrixPop c m)
    | _ => .next s

/-- MZERO_EXECUTE (R259, R272): the whole range in one move, as WLD reads its record (DESIGN CHOICE, log entry 74). -/
def execMzeroExecute (c : Nat) (s : State) : Out :=
  match s.matrixHead c with
  | none => .next s
  | some m =>
    match m.kind with
    | .mzero a n =>
      let b := (s.engineBuf m.bid m.half .cbuf).write a (List.replicate n 0)
      .next ((s.setEngineBuf m.bid m.half .cbuf b).matrixPop c m)
    | _ => .next s

/-- DCFG_APPLY (R253). -/
def execDcfgApply (c : Nat) (s : State) : Out :=
  match s.matrixHead c with
  | none => .next s
  | some m =>
    match m.kind with
    | .dcfg v => .next ((s.setCore c { s.core c with dcv := v }).matrixPop c m)
    | _ => .next s

/-! ## Row-steps (R249, R250, R254, R256 to R258) -/

/-- An activation: element codes and poison by logical position, one scale for each 32 of them. -/
structure Act where
  codes : List Nat
  scales : List Nat
  bad : List Bool
  deriving DecidableEq, Repr

/-- An activation record read from `abuf` (R251): a poisoned word that holds a scale reaches every position (R258). -/
def readAct (m : Store) (f : Fmt) (scaled : Bool) (k addr : Nat) : Act :=
  let eb := k * Fmt.n f / 8
  let sb := if scaled then k / 32 else 0
  let scaleBad := (m.firstBad (addr + eb) sb).isSome
  { codes := unpackElems f k (m.readBytes addr eb),
    scales := if scaled then (m.readBytes (addr + eb) sb).map BitVec.toNat else List.replicate (k / 32) 127,
    bad := (List.range k).map fun i =>
      scaleBad || m.bad (addr + i * Fmt.n f / 8) || m.bad (addr + (i * Fmt.n f + Fmt.n f - 1) / 8) }

/-- The down-converter's configuration fields (R253). -/
def dcvBias (v : Word) : Int := (v.extractLsb' 8 8).toInt
def dcvRelu (v : Word) : Bool := v.getLsbD 3
def dcvSat (v : Word) : Bool := v.getLsbD 2
def dcvMode (v : Word) : Rm := if v.getLsbD 0 then .rz else .rn

/-- An element after the bias and RELU (R254). -/
def dcvElem (v : Word) (code : Nat) : XR :=
  let x := xscale (toReal .f32 code) (dcvBias v)
  if dcvRelu v && !x.isNan && isNeg x then .fin false 0 0 else x

/-- Consecutive blocks of 32. -/
def blocks32 {α : Type} (xs : List α) (n : Nat) : List (List α) := (List.range n).map fun j => (xs.drop (32 * j)).take 32

/-- The down-converter (R254): an activation from K FP32 values of `cbuf`, and whether a block held an infinity. -/
def downConvert (v : Word) (m : Store) (f : Fmt) (scaled : Bool) (k addr : Nat) : Act × Bool :=
  let xs := unpackElems .f32 k (m.readBytes addr (4 * k))
  let bad := (List.range k).map fun i => m.bad (addr + 4 * i)
  let ys := xs.map (dcvElem v)
  if scaled then
    let qs := (blocks32 ys (k / 32)).map fun b => quantise f (dcvMode v) (b.map fun y => (y, 0))
    ({ codes := qs.flatMap (·.codes), scales := qs.map (·.scale),
       bad := (blocks32 bad (k / 32)).flatMap fun b => b.map fun _ => b.any id },
     qs.any (·.inf))
  else
    ({ codes := ys.map fun y => round y f (dcvMode v) 0 (dcvSat v), scales := List.replicate (k / 32) 127, bad := bad }, false)

/-- A column of the latch: stored codes, its two scales, the logical position of each, and whether it is poisoned. -/
structure Col where
  codes : List Nat
  scales : List Nat
  pos : List Nat
  bad : Bool
  deriving DecidableEq, Repr

def Latch.span (l : Latch) (a n : Nat) : List Byte := (l.bytes.drop a).take n

/-- Column n of the latch (R248, R249). -/
def Latch.col (l : Latch) (f : Fmt) (n : Nat) : Col :=
  let cb := cbOf f
  let so := nOf f * cb
  let io := so + (if l.scaled then 2 * nOf f else 0)
  let hit (a len : Nat) := l.poison.any fun p => decide (a ≤ p) && decide (p < a + len)
  let idx := leNat (l.span (io + 16 * n) 16)
  { codes := unpackElems f (kOf f) (l.span (n * cb) cb),
    scales := if l.scaled then (l.span (so + 2 * n) 2).map BitVec.toNat else [127, 127],
    pos := (List.range (kOf f)).map fun p => if l.sparse then 4 * (p / 2) + bitsAt idx (2 * p) 2 else p,
    bad := hit (n * cb) cb || (l.scaled && hit (so + 2 * n) 2) || (l.sparse && hit (io + 16 * n) 16) }

/-- The product of stored position p: activation and weight codes with the scales of their blocks. -/
def lnsProd (x : Act) (w : Col) (p : Nat) : LnsProd :=
  let lp := w.pos.getD p 0
  { sa := x.scales.getD (lp / 32) 127, sw := w.scales.getD (p / 32) 127, a := x.codes.getD lp 0, w := w.codes.getD p 0 }

/-- One LNS6 K-step (R57). -/
def kstepLns (x : Act) (w : Col) (c : Nat) : Nat :=
  accumulate c (xsum ((List.range 64).map fun p => (lnsProd x w p).val))

/-- The sum of group g of an FP8, BF16 or FP16 K-step (R59, R62): an elided position contributes +0. -/
def groupSum (af wf : Fmt) (scaled sparse : Bool) (x : Act) (w : Col) (g : Nat) : XR :=
  let sa := x.scales.getD (if sparse then g else g / 2) 127
  let sw := w.scales.getD (g / 2) 127
  if scaled && (sa == 0xFF || sw == 0xFF) then .nan
  else
    let prods := (List.range 16).map fun i =>
      xmul (toReal af (x.codes.getD (w.pos.getD (16 * g + i) 0) 0)) (toReal wf (w.codes.getD (16 * g + i) 0))
    let sum := xsum (if sparse then .fin false 0 0 :: prods else prods)
    if scaled then xscale sum ((sa : Int) + sw - 254) else sum

/-- One FP8, BF16 or FP16 K-step (R59). -/
def kstepGroups (af wf : Fmt) (scaled sparse : Bool) (x : Act) (w : Col) (c : Nat) : Nat :=
  (List.range 4).foldl (fun c g => accumulate c (groupSum af wf scaled sparse x w g)) c

/-- One FP32 K-step (R60). -/
def kstepF32 (x : Act) (w : Col) (c : Nat) : Nat :=
  (List.range 32).foldl (fun c i => fFma .f32 .rn false (x.codes.getD i 0) (w.codes.getD i 0) c) c

/-- `kstep` of R257. -/
def kstep (af wf : Fmt) (scaled sparse : Bool) (x : Act) (w : Col) (c : Nat) : Nat :=
  match af with
  | .lns6 => kstepLns x w c
  | .f32 => kstepF32 x w c
  | _ => kstepGroups af wf scaled sparse x w c

/-- Whether an activation code is a special of R250. -/
def specialCode (f : Fmt) (code : Nat) : Bool :=
  match toReal f code with
  | .nan | .inf _ => true
  | _ => false

/-- Whether a special activation stands at a position elided in a column (R250). -/
def elidesSpecial (f : Fmt) (x : Act) (cols : List Col) : Bool :=
  (List.range x.codes.length).any fun i =>
    (specialCode f (x.codes.getD i 0) || x.scales.getD (i / 32) 127 == 0xFF) && cols.any fun w => !w.pos.contains i

/-- The format pairs of R256. -/
def pairOk (w a : Fmt) : Bool := w == a || (isFp8 w && isFp8 a)

/-- Whether a latch suits an MLOOP (R256). -/
def Latch.suits (l : Latch) (af : Fmt) (scaled sparse : Bool) : Bool :=
  match l.fmt with
  | some w => pairOk w af && l.scaled == scaled && l.sparse == sparse
  | .none => false

/-- The columns of a row-step written over an accumulator row: values, and which are poisoned (R257, R258). -/
def rowStep (af wf : Fmt) (scaled sparse zero : Bool) (x : Act) (cols : List Col) (m : Store) (p : Nat) : List (Nat × Bool) :=
  cols.mapIdx fun n w =>
    let old := if zero then 0 else m.readNat (p + 4 * n) 4
    let oldBad := !zero && m.bad (p + 4 * n)
    (kstep af wf scaled sparse x w old, oldBad || w.bad || w.pos.any fun i => x.bad.getD i false)

/-- Row-step number `i` of an MLOOP (R256). -/
def State.mloopStep (s : State) (c : Nat) (m : MOp) (i : Nat) : State :=
  match m.kind with
  | .mloop af cb scaled sparse init ca aa sa sc rows _ da dw dc =>
    let st := i / rows
    let r := i % rows
    let l0 := (s.core c).latch
    let l := if st > 0 && dw != 0 && r == 0 then
        match l0.fmt with
        | some wf => readLatch (s.engineBuf m.bid m.half .wbuf) wf l0.scaled l0.sparse l0.addr (l0.addr + st * dw)
        | none => l0
      else l0
    let wf := l.fmt.getD af
    let k := kLogical af sparse
    let addr := aa + st * da + r * sa
    let xr := if cb then downConvert (s.core c).dcv (s.engineBuf m.bid m.half .cbuf) af scaled k addr
      else (readAct (s.engineBuf m.bid m.half .abuf) af scaled k addr, false)
    let cols := (List.range (nOf af)).map fun n => l.col wf n
    let p := ca + st * dc + r * sc
    let buf := s.engineBuf m.bid m.half .cbuf
    let out := rowStep af wf scaled sparse (init && (st == 0 || dc != 0)) xr.1 cols buf p
    let bad := (List.range out.length).filterMap fun n => if (out.getD n (0, false)).2 then some (4 * n) else none
    let buf1 := buf.writeMarked p (out.flatMap fun e => leBytes 4 e.1) bad
    let s1 := (s.setCore c ({ s.core c with latch := l }.bump 6 1)).setEngineBuf m.bid m.half .cbuf buf1
    let s2 := if xr.2 then s1.mstatSet c 4 else s1
    let s3 := if bad.isEmpty then s2 else s2.mstatSet c 3
    if sparse && elidesSpecial af xr.1 cols then s3.elided c else s3
  | _ => s

/-- Runs `n` row-steps from row-step `i`. -/
def State.mloopSteps (s : State) (c : Nat) (m : MOp) (i : Nat) : Nat → State
  | 0 => s
  | n + 1 => State.mloopSteps (s.mloopStep c m i) c m (i + 1) n

/-- MLOOP_EXECUTE (R256): the head of the matrix queue is checked when it begins, and up to `n` of its row-steps run. -/
def execMloopExecute (c n : Nat) (s : State) : Out :=
  match s.matrixHead c with
  | none => .next s
  | some m =>
    match m.kind with
    | .mloop af _ scaled sparse _ _ _ _ _ rows steps _ dw _ =>
      let l := (s.core c).latch
      if m.done = 0 && !l.suits af scaled sparse then .next ((s.mstatSet c 1).matrixPop c m)
      else if m.done = 0 && s.alloc m.bid .wbuf < l.addr + (steps - 1) * dw + recordSize (l.fmt.getD af) scaled sparse then
        .next ((s.mstatSet c 2).matrixPop c m)
      else
        let k := min n (rows * steps - m.done)
        let s1 := s.mloopSteps c m m.done k
        if m.done + k = rows * steps then
          let l1 := (s1.core c).latch
          .next ((s1.setCore c { s1.core c with latch := { l1 with addr := l1.addr + (steps - 1) * dw } }).matrixPop c m)
        else
          .next (s1.setCore c { s1.core c with mq := { m with done := m.done + k } :: (s1.core c).mq.drop 1 })
    | _ => .next s

end Sys2Proof.Machine
end

