-- ==== Sys2Proof/Machine/Vector.lean ====
section
/-! DEFINITION. The tile vector engine: the instructions of family 0xB and the rows of their operations (R264 to R271). -/

namespace Sys2Proof.Machine

/-! ## Issue (R264, R265, R268, R269) -/

/-- The buffer that a space bit names. -/
def spBit (b : Bool) : Space := if b then .cbuf else .abuf

/-- The format of the elements of a row operand: FP32 in `cbuf`, the instruction's format in `abuf`. -/
def rowFmt (sp : Space) (f : Fmt) : Fmt := if sp == .cbuf then .f32 else f

/-- The bytes of a row. -/
def rowBytes (f : Fmt) : Nat := 64 * (Fmt.n f / 8)

/-- A row operand (R264). -/
def rowOpd (sp : Space) (f : Fmt) (base rows kind : Nat) : Opd :=
  Opd.rows sp base (rowBytes (rowFmt sp f)) rows (rowBytes (rowFmt sp f)) 64 kind

/-- A row scalar operand (R264). -/
def scalarOpd (sp : Space) (base rows kind : Nat) : Opd := Opd.rows sp base 4 rows 4 4 kind

/-- Places an operation in the tile vector queue. -/
def enqueueV (fl : Option Nat) (acc : Acc) (mk : Nat → Nat → VOp) : Body := fun c t th s =>
  let s1 := (s.issueOp c t th fl (.engine s.uid) acc).useEntry c th fun g => { g with roomV := g.roomV - 1 }
  let kc := s1.core c
  .ok (s1.setCore c { kc with vq := kc.vq ++ [mk s.uid (s.halfOf c th.bid)] })

/-- Which operands an operation has, and which of them are row scalars: d, a, b, c as 0 absent, 1 rows, 2 row scalars. -/
structure VShape where
  d : Nat
  a : Nat
  b : Nat
  c : Nat
  deriving DecidableEq, Repr

/-- The operands of an operation. A row scalar that VRMAX or VRSUM reads and writes under `.acc` is reported with KIND 2, a
read-modify-write; R436 names KIND 2 for MLOOP's accumulators alone (DESIGN CHOICE, log entry 79). -/
def VShape.opds (v : VShape) (x : VecArgs) (th : Thread) : List Opd :=
  let rows := x.rows1.toNat + 1
  let one (k : Nat) (sp : Bool) (r : GReg) (kind : Nat) : List Opd :=
    if k = 1 then [rowOpd (spBit sp) x.fmt (th.reg r.toNat).toNat rows kind]
    else if k = 2 then [scalarOpd (spBit sp) (th.reg r.toNat).toNat rows kind]
    else []
  one v.d x.sd x.d (if v.d = 2 && x.op == 1 then 2 else 1) ++ one v.a x.sa x.a 0 ++ one v.b x.sb x.b 0 ++ one v.c x.sc x.c 0

def VShape.spans (v : VShape) (x : VecArgs) : List (Nat × Nat) :=
  let one (k : Nat) (r : GReg) : List (Nat × Nat) := if k = 0 then [] else [sp1 r]
  one v.d x.d ++ one v.a x.a ++ one v.b x.b ++ one v.c x.c

/-- VADD to VMOV at issue. -/
def vecIssue (x : VecArgs) (v : VShape) (fn : VFun) (s : State) : Out :=
  classL x.h (v.spans x) (fun fl =>
    needRole .vector (fun c t th s =>
      let r (g : GReg) := (th.reg g.toNat).toNat
      onOpds (v.opds x) (enqueueV fl engineAcc fun u h =>
        { uid := u, slot := t, bid := th.bid, half := h, fn := fn, fmt := x.fmt, rm := x.rm, sat := x.sat, sd := spBit x.sd,
          sa := spBit x.sa, sb := spBit x.sb, sc := spBit x.sc, d := r x.d, a := r x.a, b := r x.b, c := r x.c,
          rows := x.rows1.toNat + 1, done := 0, parts := [], row := none }) c t th s)) s

/-- Rows d, a and b. -/
def shape3 : VShape := { d := 1, a := 1, b := 1, c := 0 }

/-- VADD (R266). -/
def execVadd (x : VecArgs) (s : State) : Out := vecIssue x shape3 .add s

/-- VSUB (R266). -/
def execVsub (x : VecArgs) (s : State) : Out := vecIssue x shape3 .sub s

/-- VMUL (R266). -/
def execVmul (x : VecArgs) (s : State) : Out := vecIssue x shape3 .mul s

/-- VFMA (R266). -/
def execVfma (x : VecArgs) (s : State) : Out := vecIssue x { shape3 with c := 1 } .fma s

/-- VMIN (R266). -/
def execVmin (x : VecArgs) (s : State) : Out := vecIssue x shape3 .min s

/-- VMAX (R266). -/
def execVmax (x : VecArgs) (s : State) : Out := vecIssue x shape3 .max s

/-- VEXP2 (R266). -/
def execVexp2 (x : VecArgs) (s : State) : Out := vecIssue x { shape3 with b := 0 } .exp2 s

/-- VRMAX (R267). -/
def execVrmax (x : VecArgs) (s : State) : Out := vecIssue x { d := 2, a := 1, b := 0, c := 0 } (.rmax (x.op == 1)) s

/-- VRSUM (R267). -/
def execVrsum (x : VecArgs) (s : State) : Out := vecIssue x { d := 2, a := 1, b := 0, c := 0 } (.rsum (x.op == 1)) s

/-- VSCL (R266). -/
def execVscl (x : VecArgs) (s : State) : Out := vecIssue x { shape3 with b := 2 } (.scl x.op.toNat) s

/-- The condition that an OP field of VCMP names (R154). -/
def condOf : Nat → FCond
  | 0 => .eq | 1 => .ne | 2 => .lt | 3 => .le | 4 => .gt | 5 => .ge | 6 => .nan | _ => .num

/-- VCMP (R266). -/
def execVcmp (x : VecArgs) (s : State) : Out := vecIssue x shape3 (.cmp (condOf x.op.toNat)) s

/-- VMOV (R266). -/
def execVmov (x : VecArgs) (s : State) : Out :=
  if x.op == 0 then vecIssue x { shape3 with b := 0 } (.mov false) s
  else vecIssue x { d := 1, a := 0, b := 2, c := 0 } (.mov true) s

/-- The bytes of a dense activation record of 64 elements (R251). -/
def vcvtBytes (f : Fmt) (scaled : Bool) : Nat := actSize f false scaled false

/-- VCVT (R268). -/
def execVcvt (x : VcvtArgs) (s : State) : Out :=
  featureGate x.fmt x.scaled x.h.g (fun s => classL x.h [sp1 x.d, sp1 x.a] (fun fl =>
    needRole .vector (fun c t th s =>
      let rows := x.rows1.toNat + 1
      let d := (th.reg x.d.toNat).toNat
      let a := (th.reg x.a.toNat).toNat
      let n := vcvtBytes x.fmt x.scaled
      onOpds (fun _ => [Opd.rows .abuf d n rows n 64 1, rowOpd (spBit x.sa) .f32 a rows 0])
        (enqueueV fl engineAcc fun u h =>
          { uid := u, slot := t, bid := th.bid, half := h, fn := .cvt x.scaled, fmt := x.fmt, rm := x.rm, sat := x.sat,
            sd := .abuf, sa := spBit x.sa, sb := .abuf, sc := .abuf, d := d, a := a, b := 0, c := 0, rows := rows, done := 0, parts := [], row := none })
        c t th s)) s) s

/-! ## VST at issue (R269, R270) -/

/-- The access that a VST makes at an address. -/
def vstAcc (sc : Scope) (va : Dword) : Acc := { space := .glb, scope := sc, ea := va, size := 4, kind := 1 }

/-- The first bytes of a row in the pages that it touches. -/
def rowPages (a n : Nat) : List Nat :=
  if a / 65536 = (a + n - 1) / 65536 then [a] else [a, (a + n - 1) / 65536 * 65536]

/-- The outcome of translating the destination of a VST. -/
inductive VstXl
  | ok (pages : List (Nat × Tgt))
  | held (va : Dword)
  | miss (va : Dword) (entry : Nat)
  | divert (va : Dword)
  | fail (f : Flt)
  deriving DecidableEq, Repr

/-- Translates every page that a list of addresses names, once (R270). -/
def State.vstPages (s : State) (ctx : Nat) (sc : Scope) : List Nat → List (Nat × Tgt) → VstXl
  | [], acc => .ok acc
  | a :: as, acc =>
    if acc.any fun e => e.1 / 65536 = a / 65536 then State.vstPages s ctx sc as acc
    else
      let va : Dword := BitVec.ofNat 64 a
      match s.checkXlate ctx (vstAcc sc va) va with
      | .ok (.ok t) => State.vstPages s ctx sc as (acc ++ [(a, t)])
      | .ok (.held va) => .held va
      | .ok (.miss va _ e) => .miss va e
      | .ok (.divert va) => .divert va
      | .ok .aperture => .fail (Flt.acc fXlatePerm (vstAcc sc va))
      | .error f => .fail f

/-- VST (R269, R270). -/
def execVst (x : VstArgs) (s : State) : Out :=
  classL x.h [sp2 x.d, sp1 x.a, sp1 x.b] (fun fl =>
    needRole .vector (fun c t th s =>
      let rows := x.rows1.toNat + 1
      let d := th.pair x.d.toNat
      let stride := (th.reg x.b.toNat).toNat
      let a := (th.reg x.a.toNat).toNat
      let src := rowOpd (spBit x.sa) x.fmt a rows 0
      if d.toNat % 16 ≠ 0 then .error (Flt.acc fMisaligned (vstAcc x.scope d))
      else if stride % 16 ≠ 0 then .error (Flt.acc fMisaligned (vstAcc x.scope (d + BitVec.ofNat 64 stride)))
      else
        match s.checkOpds th.bid [src] with
        | some f => .error f
        | none =>
          let firsts := (List.range rows).flatMap fun r => rowPages (d.toNat + r * stride) (rowBytes x.fmt)
          match s.vstPages th.ctx x.scope firsts [] with
          | .fail f => .error f
          | .held va => .ok (s.noteWalk th.ctx va).stall
          | .miss va e => .ok (s.parkMiss c t th va 1 e (s.site c th))
          | .divert va => .ok (s.parkDivert c t th va 1 (s.site c th))
          | .ok pages =>
            enqueueV fl (vstAcc x.scope d) (fun u h =>
              { uid := u, slot := t, bid := th.bid, half := h, fn := .st stride pages, fmt := x.fmt, rm := x.rm, sat := x.sat,
                sd := .abuf, sa := spBit x.sa, sb := .abuf, sc := .abuf, d := d.toNat, a := a, b := 0, c := 0, rows := rows, done := 0, parts := [], row := none })
              c t th (firsts.foldl (fun s v => s.tlbFill c th.ctx (BitVec.ofNat 64 v)) s))) s

/-! ## Rows (R266 to R268, R271) -/

/-- An element of a row: its value and whether its word is poisoned. -/
structure Elem where
  v : XR
  bad : Bool
  deriving DecidableEq, Repr

/-- A row of 64 elements of a format at an address. -/
def readRow (m : Store) (f : Fmt) (a : Nat) : List Elem :=
  (unpackElems f 64 (m.readBytes a (rowBytes f))).mapIdx fun i x =>
    { v := toReal f x, bad := m.bad (a + i * (Fmt.n f / 8)) }

/-- A row scalar. -/
def readScalar (m : Store) (a : Nat) : Elem := { v := toReal .f32 (m.readNat a 4), bad := m.bad a }

/-- A value as the FP32 encoding that holds it exactly; NaN becomes the canonical NaN. -/
def asF32 (x : XR) : Nat := roundRne x .f32

/-- The exact value of an element for an elementwise operation (R266). -/
def vecVal (fn : VFun) (rm : Rm) (a b c : XR) : XR :=
  match fn with
  | .add => xadd rm a b
  | .sub => xadd rm a b.neg
  | .mul => xmul a b
  | .fma => xadd rm (xmul a b) c
  | .min => toReal .f32 (fMinMax .f32 false (asF32 a) (asF32 b))
  | .max => toReal .f32 (fMinMax .f32 true (asF32 a) (asF32 b))
  | .exp2 => toReal .f32 (fExp2 (BitVec.ofNat 32 (asF32 a)))
  | .scl o => if o = 0 then xmul a b else if o = 1 then xadd rm a b else xadd rm a b.neg
  | .cmp k => if fCond k .f32 (asF32 a) (asF32 b) then .fin false 1 0 else .fin false 0 0
  | .mov bc => if bc then b else a
  | .rmax _ | .rsum _ | .cvt _ | .st _ _ => a

/-- Whether an elementwise operation reads its operand b or c. -/
def usesB : VFun → Bool
  | .add | .sub | .mul | .fma | .min | .max | .scl _ | .cmp _ => true
  | .mov bc => bc
  | _ => false

def usesA : VFun → Bool
  | .mov bc => !bc
  | _ => true

def usesC : VFun → Bool
  | .fma => true
  | _ => false

/-- The greatest element of a row (R267). -/
def rowMax (xs : List Nat) : Nat :=
  match xs with
  | [] => canonicalNan .f32
  | x :: xs => xs.foldl (fMinMax .f32 true) x

/-- One level of the sum's tree: w sums of elements w apart. -/
def sumLevel (xs : List Nat) (w : Nat) : List Nat :=
  (List.range w).map fun i => fAdd .f32 .rn false (xs.getD i 0) (xs.getD (i + w) 0)

/-- The sum of a row (R267). -/
def rowSum (xs : List Nat) : Nat := ([32, 16, 8, 4, 2, 1].foldl sumLevel xs).getD 0 0

/-- A row of elements in a format, as bytes and the offsets of poisoned ones. -/
def packRow (f : Fmt) (rm : Rm) (sat : Bool) (xs : List Elem) : List Byte × List Nat :=
  (packElems f (xs.map fun e => round e.v f rm 0 sat),
   (List.range xs.length).filterMap fun i => if (xs.getD i { v := .nan, bad := false }).bad then some (i * (Fmt.n f / 8)) else none)

/-- A VCVT row: the record's bytes up to its padding, the offsets of poisoned ones, and whether a block held an infinity
(R268). -/
def cvtRow (f : Fmt) (scaled sat : Bool) (rm : Rm) (xs : List Elem) : List Byte × List Nat × Bool :=
  if scaled then
    let qs := (blocks32 xs 2).map fun b => (quantise f rm (b.map fun e => (e.v, 0)), b.any (·.bad))
    let bytes := packElems f (qs.flatMap fun q => q.1.codes) ++ qs.map fun q => BitVec.ofNat 8 q.1.scale
    let n := 32 * Fmt.n f / 8
    let bad := (List.range 2).flatMap fun j =>
      if (qs.getD j ({ scale := 0, codes := [], inf := false }, false)).2 then (List.range n).map (j * n + ·) ++ [2 * n + j] else []
    (bytes, bad, qs.any fun q => q.1.inf)
  else
    (packElems f (xs.map fun e => round e.v f rm 0 sat),
     (List.range xs.length).filter fun i => (xs.getD i { v := .nan, bad := false }).bad, false)

/-- The padding of a VCVT record, whose bytes nothing states: free values, the same whenever the operands are (R251, R274; log entry 5). -/
def padding (v : VOp) (scaled : Bool) (src : List Byte) (n : Nat) : List Byte :=
  (List.range n).map (Config.padByte v.fmt scaled v.sat v.rm src)

/-- Writes bytes to a buffer of an operation's block; reading poison sets MSTAT.VPOISON (R271). -/
def State.vecWrite (s : State) (c : Nat) (v : VOp) (sp : Space) (a : Nat) (bs : List Byte) (bad : List Nat) : State :=
  let s1 := s.setEngineBuf v.bid v.half sp ((s.engineBuf v.bid v.half sp).writeMarked a bs bad)
  if bad.isEmpty then s1 else s1.mstatSet c 5

/-- The pieces of a stored row, one for each page: where it goes, its offset in the row and its length. -/
def vstPieces (pages : List (Nat × Tgt)) (a n : Nat) : List (Tgt × Nat × Nat × Nat) :=
  let place (x len off : Nat) : List (Tgt × Nat × Nat × Nat) :=
    match pages.find? fun e => e.1 / 65536 = x / 65536 with
    | some (_, .dev pa) => [(.dev (pa / 65536 * 65536 + x % 65536), x, off, len)]
    | some (_, .host pa) => [(.host (pa / 65536 * 65536 + x % 65536), x, off, len)]
    | _ => []
  let first := min n (65536 - a % 65536)
  place a first 0 ++ (if first < n then place (a + first) (n - first) first else [])

/-- Whether the lines of a stored row may be written now: no earlier engine operation owns them, and no translation derived from them is
in use (R237, R270, R380). -/
def State.vstReady (s : State) (uid : Nat) (ps : List (Tgt × Nat × Nat × Nat)) : Bool :=
  ps.all fun p => !s.tgtHeld (engineSkip uid) (engineSkip uid) true p.1 p.2.2.2

/-- An engine's write to memory at a translated place. -/
def State.engineStore (s : State) (t : Tgt) (bs : List Byte) (bad : List Nat) : State :=
  match t with
  | .dev pa => s.devWrite pa bs bad false
  | .host pa => { s with hostMem := s.hostMem.writeMarked pa bs bad }
  | .buf _ _ => s

/-- The bytes that a VST writes for a row: rounded from `cbuf`, copied from `abuf` (R269). -/
def vstRow (v : VOp) (m : Store) (r : Nat) : List Byte × List Nat :=
  let sf := rowFmt v.sa v.fmt
  let a := v.a + r * rowBytes sf
  if v.sa == .cbuf then packRow v.fmt v.rm v.sat (readRow m sf a)
  else (m.readBytes a (rowBytes sf), m.badOffsets a (rowBytes sf))

/-- The next row of a VST: as it was read before its first part was written, or as it is read now (R266). -/
def State.vstOut (s : State) (v : VOp) (r : Nat) : List Byte × List Nat := v.row.getD (vstRow v (s.engineBuf v.bid v.half v.sa) r)

/-- Writes part `i` of a VST's row to its place. -/
def State.storePart (s : State) (ps : List (Tgt × Nat × Nat × Nat)) (out : List Byte × List Nat) (i : Nat) : State :=
  match ps.find? fun p => decide (p.2.2.1 ≤ 8 * i) && decide (8 * i < p.2.2.1 + p.2.2.2) with
  | some p => s.engineStore (p.1.add (8 * i - p.2.2.1)) (partAt out.1 out.2 i).1 (partAt out.1 out.2 i).2
  | none => s

/-- Writes what is left of a VST's row: whole pieces, or the parts that are not written yet (R228). -/
def State.storeRow (s : State) (ps : List (Tgt × Nat × Nat × Nat)) (out : List Byte × List Nat) (parts : List Nat) : State :=
  if parts.isEmpty then
    ps.foldl (fun s p =>
      s.engineStore p.1 ((out.1.drop p.2.2.1).take p.2.2.2)
        ((out.2.filter fun i => decide (p.2.2.1 ≤ i) && decide (i < p.2.2.1 + p.2.2.2)).map (· - p.2.2.1))) s
  else ((List.range ((out.1.length + 7) / 8)).filter fun i => !parts.contains i).foldl (fun s i => s.storePart ps out i) s

/-- Performs row `r` of a tile vector operation; none when a VST's row must still wait. -/
def State.vecRow (s : State) (c : Nat) (v : VOp) (r : Nat) : Option State :=
  let row (sp : Space) (a : Nat) : List Elem :=
    let f := rowFmt sp v.fmt
    readRow (s.engineBuf v.bid v.half sp) f (a + r * rowBytes f)
  let scalar (sp : Space) (a : Nat) : Elem := readScalar (s.engineBuf v.bid v.half sp) (a + 4 * r)
  match v.fn with
  | .rmax acc =>
    let xs := row v.sa v.a
    let old := scalar v.sd v.d
    let m := rowMax (xs.map fun e => asF32 e.v)
    let out := if acc then fMinMax .f32 true (asF32 old.v) m else m
    some (s.vecWrite c v v.sd (v.d + 4 * r) (leBytes 4 out) (if xs.any (·.bad) || (acc && old.bad) then [0] else []))
  | .rsum acc =>
    let xs := row v.sa v.a
    let old := scalar v.sd v.d
    let m := rowSum (xs.map fun e => asF32 e.v)
    let out := if acc then fAdd .f32 .rn false (asF32 old.v) m else m
    some (s.vecWrite c v v.sd (v.d + 4 * r) (leBytes 4 out) (if xs.any (·.bad) || (acc && old.bad) then [0] else []))
  | .cvt scaled =>
    let n := vcvtBytes v.fmt scaled
    let xs := readRow (s.engineBuf v.bid v.half v.sa) .f32 (v.a + 256 * r)
    let q := cvtRow v.fmt scaled v.sat v.rm xs
    let pad := padding v scaled ((s.engineBuf v.bid v.half v.sa).readBytes (v.a + 256 * r) 256) (n - q.1.length)
    let s1 := s.vecWrite c v .abuf (v.d + n * r) (q.1 ++ pad) q.2.1
    some (if q.2.2 then s1.mstatSet c 6 else s1)
  | .st stride pages =>
    let out := s.vstOut v r
    let ps := vstPieces pages (v.d + r * stride) (rowBytes v.fmt)
    if s.vstReady v.uid ps then
      let s1 := s.storeRow ps out v.parts
      some (if out.2.isEmpty then s1 else s1.mstatSet c 5)
    else none
  | fn =>
    let as := if usesA fn then row v.sa v.a else []
    let bs := if usesB fn then
        (match fn with | .scl _ | .mov _ => List.replicate 64 (scalar v.sb v.b) | _ => row v.sb v.b)
      else []
    let cs := if usesC fn then row v.sc v.c else []
    let zero : Elem := { v := .fin false 0 0, bad := false }
    let out := (List.range 64).map fun i =>
      let a := as.getD i zero
      let b := bs.getD i zero
      let e := cs.getD i zero
      ({ v := vecVal fn v.rm a.v b.v e.v, bad := a.bad || b.bad || e.bad } : Elem)
    let f := rowFmt v.sd v.fmt
    let p := packRow f v.rm v.sat out
    some (s.vecWrite c v v.sd (v.d + r * rowBytes f) p.1 p.2)

/-- A VST whose row has to wait, for a recall if another engine operation owns a line (R237, R416). -/
def State.vstWaits (s : State) (v : VOp) : State :=
  match v.fn with
  | .st stride pages =>
    (vstPieces pages (v.d + v.done * stride) (rowBytes v.fmt)).foldl (fun s p => s.noteTgt (engineSkip v.uid) p.1 p.2.2.2) s
  | _ => s

/-- Runs up to `n` rows of the head of the tile vector queue. -/
def State.vecRows (s : State) (c : Nat) (v : VOp) : Nat → State
  | 0 => s
  | n + 1 =>
    if v.rows ≤ v.done then s
    else
      match s.vecRow c v v.done with
      | none => s.vstWaits v
      | some s1 =>
        let v1 := { v with done := v.done + 1, parts := [], row := none }
        let k := (s1.core c).bump 7 1
        State.vecRows (s1.setCore c { k with vq := v1 :: k.vq.drop 1 }) c v1 n

/-- Writes part `i` of the next row of the VST at the head of a core's queue ahead of the others (R228). -/
def State.vecPart (s : State) (c i : Nat) : State :=
  match (s.core c).vq with
  | [] => s
  | v :: rest =>
    match v.fn with
    | .st stride pages =>
      let out := s.vstOut v v.done
      let ps := vstPieces pages (v.d + v.done * stride) (rowBytes v.fmt)
      if v.parts.contains i || out.1.length ≤ 8 * i || v.rows ≤ v.done || !s.enginesRun c ||
          !s.issuerClear c v.slot v.bid v.uid || !s.vstReady v.uid ps then s
      else
        let s1 := s.storePart ps out i
        let s2 := if (partAt out.1 out.2 i).2.isEmpty then s1 else s1.mstatSet c 5
        s2.setCore c { s2.core c with vq := { v with parts := i :: v.parts, row := some out } :: rest }
    | _ => s

/-- The scope at which a tile vector operation's flag acquires (R239). -/
def State.vecScope (s : State) (c : Nat) (v : VOp) : Scope :=
  match v.fn with
  | .st _ _ =>
    (((s.thread? c v.slot).bind fun th => th.ops.find? fun o => o.kind == .engine v.uid).map fun o => o.acc.scope).getD .dev
  | _ => .blk

/-- The rows that the tile vector engine may perform now, of `n`: a halted one ends the row that it has begun to write (R273). -/
def State.rowsNow (s : State) (c : Nat) (v : VOp) (n : Nat) : Nat := if s.enginesRun c then n else if v.parts.isEmpty then 0 else 1

/-- VECTOR_OP_EXECUTE (R266): up to `n` rows of the head of a core's tile vector queue; the last one completes it. -/
def execVectorOpExecute (c n : Nat) (s : State) : Out :=
  match (s.core c).vq with
  | [] => .next s
  | v :: _ =>
    if !s.issuerClear c v.slot v.bid v.uid || s.rowsNow c v n = 0 then .next s
    else
      let s1 := s.vecRows c v (s.rowsNow c v n)
      match (s1.core c).vq with
      | [] => .next s1
      | w :: rest =>
        if w.rows ≤ w.done then
          .next ((s1.setCore c { s1.core c with vq := rest }).engineDone c w.slot w.uid w.bid (s1.vecScope c w))
        else .next s1

end Sys2Proof.Machine
end

