-- ==== Sys2Proof/Machine/Agent.lean ====
section
/-! DEFINITION. Accesses to virtual memory by agents other than threads: Ladles, Lanterns, Carillon, the Belfry's Recast and remote
requests at their target (R237, R327, R348, R360, R369, R376 to R382, R434, R435). -/

namespace Sys2Proof.Machine

/-- Why an agent's access fails without replay. -/
inductive AFail
  | noncanon | aperture | perm | absent | poison
  deriving DecidableEq, Repr

/-- The outcome of an agent's access: done; held by an engine that owns a line or a translation in use, with the state in which it waits; a
replayable miss, with the
entry's address; a page to be diverted; a failure at an address. -/
inductive ARes (α : Type)
  | ok (a : α)
  | held (s : State)
  | miss (va : Dword) (entry : Nat)
  | divert (va : Dword)
  | fail (va : Dword) (e : AFail)
  deriving Repr

/-- A part of an access that lies in one page. -/
structure Piece where
  t : Tgt
  va : Nat
  off : Nat
  len : Nat
  deriving DecidableEq, Repr

/-- Translates the pages of `n` bytes at an address, `fuel` pages at most. -/
def State.pieces (s : State) (ctx kind : Nat) (va : Dword) (off n : Nat) : Nat → ARes (List Piece)
  | 0 => .ok []
  | fuel + 1 =>
    if n = 0 then .ok []
    else if s.walkHeld ctx va then .held (s.noteWalk ctx va)
    else
      match s.translate ctx va kind with
      | .noncanon => .fail va .noncanon
      | .aperture => .fail va .aperture
      | .perm => .fail va .perm
      | .absent => .fail va .absent
      | .poison => .fail va .poison
      | .replay e => .miss va e
      | .divert => .divert va
      | .ok t =>
        let len := min n (65536 - va.toNat % 65536)
        match State.pieces s ctx kind (va + BitVec.ofNat 64 len) (off + len) (n - len) fuel with
        | .ok ps => .ok ({ t := t, va := va.toNat, off := off, len := len } :: ps)
        | r => r

/-- Whether an engine owns a line of an access, or a write must wait for translations in use (R237, R380). -/
def State.piecesHeld (s : State) (skip : Skip) (write : Bool) (ps : List Piece) : Bool :=
  ps.any fun p => s.tgtHeld skip noSkip write p.t p.len

/-- An access that waits, for a recall where an engine owns a line (R237, R416). -/
def State.piecesWait (s : State) (skip : Skip) (ps : List Piece) : State := ps.foldl (fun s p => s.noteTgt skip p.t p.len) s

/-- Reads the pieces of an access: the bytes and the offsets of poisoned ones. -/
def State.readPieces (s : State) (ps : List Piece) : List Byte × List Nat × State :=
  ps.foldl (fun r p =>
    match p.t with
    | .dev pa =>
      (r.1 ++ r.2.2.mem.readBytes pa p.len, r.2.1 ++ (r.2.2.mem.badOffsets pa p.len).map (p.off + ·), r.2.2.l2Read pa p.len)
    | .host pa => (r.1 ++ r.2.2.hostMem.readBytes pa p.len, r.2.1 ++ (r.2.2.hostMem.badOffsets pa p.len).map (p.off + ·), r.2.2)
    | .buf _ _ => r) ([], [], s)

/-- The walks of the pieces of an access (R376). -/
def State.walkPieces (s : State) (ctx : Nat) (ps : List Piece) : State := ps.foldl (fun s p => s.walked ctx (BitVec.ofNat 64 p.va)) s

/-- Writes the pieces of an access. -/
def State.writePieces (s : State) (ps : List Piece) (bs : List Byte) (bad : List Nat) (privileged : Bool) : State :=
  ps.foldl (fun s p =>
    let part := (bs.drop p.off).take p.len
    let marks := (bad.filter fun i => decide (p.off ≤ i) && decide (i < p.off + p.len)).map (· - p.off)
    match p.t with
    | .dev pa => s.devWrite pa part marks privileged
    | .host pa => { s with hostMem := s.hostMem.writeMarked pa part marks }
    | .buf _ _ => s) s

/-- An agent's read at `.dev` or wider; an engine operation waits only for those of `skip` that it does not skip. -/
def State.readFor (s : State) (skip : Skip) (ctx : Nat) (va : Dword) (n : Nat) : ARes (List Byte × List Nat × State) :=
  match s.pieces ctx 0 va 0 n (n / 65536 + 2) with
  | .ok ps => if s.piecesHeld skip false ps then .held (s.piecesWait skip ps) else .ok ((s.walkPieces ctx ps).readPieces ps)
  | .held s1 => .held s1
  | .miss v e => .miss v e
  | .divert v => .divert v
  | .fail v e => .fail v e

def State.agentRead (s : State) (ctx : Nat) (va : Dword) (n : Nat) : ARes (List Byte × List Nat × State) := s.readFor noSkip ctx va n

/-- An agent's write at `.dev` or wider. -/
def State.writeFor (s : State) (skip : Skip) (ctx : Nat) (va : Dword) (bs : List Byte) (bad : List Nat) (privileged : Bool) : ARes State :=
  match s.pieces ctx 1 va 0 bs.length (bs.length / 65536 + 2) with
  | .ok ps => if s.piecesHeld skip true ps then .held (s.piecesWait skip ps) else .ok ((s.walkPieces ctx ps).writePieces ps bs bad privileged)
  | .held s1 => .held s1
  | .miss v e => .miss v e
  | .divert v => .divert v
  | .fail v e => .fail v e

def State.agentWrite (s : State) (ctx : Nat) (va : Dword) (bs : List Byte) (bad : List Nat) (privileged : Bool) : ARes State :=
  s.writeFor noSkip ctx va bs bad privileged

/-- An agent's read-modify-write of `n` bytes: none when the target holds poison (R210, R221). -/
def State.agentRmw (s : State) (ctx : Nat) (va : Dword) (n : Nat) (f : Nat → Nat) (privileged : Bool) : ARes (Option State) :=
  match s.pieces ctx 2 va 0 n 2 with
  | .ok ps =>
    if s.piecesHeld noSkip true ps then .held (s.piecesWait noSkip ps)
    else
      let (bs, bad, s1) := (s.walkPieces ctx ps).readPieces ps
      if bad.isEmpty then .ok (some (s1.writePieces ps (leBytes n (f (leNat bs))) [] privileged)) else .ok none
  | .held s1 => .held s1
  | .miss v e => .miss v e
  | .divert v => .divert v
  | .fail v e => .fail v e

/-- An agent's atomic add. -/
def State.agentAdd (s : State) (ctx : Nat) (va : Dword) (n v : Nat) (privileged : Bool) : ARes (Option State) :=
  s.agentRmw ctx va n (· + v) privileged

end Sys2Proof.Machine
end

