-- ==== Sys2Proof/Machine/Float.lean ====
section
/-! DEFINITION. The meanings of the floating-point, packed, conversion, special-function and random-number instructions
(R149 to R168). -/

namespace Sys2Proof.Machine

/-! ## Shapes -/

/-- d, a, b in a scalar format (R151, R152, R153). -/
def fltOp (x : Fp3Args) (f : Nat → Nat → Nat) (s : State) : Out :=
  aluExec x.g (spF x.f x.d :: spF x.f x.a :: spRI x.f x.b)
    (fun th => th.setFlt x.f x.d (f (th.flt x.f x.a) (th.fltRI x.f x.b))) s

/-- d, a, b on two 16-bit elements (R156). -/
def packedOp (x : Fp3Args) (f : Nat → Nat → Nat) (s : State) : Out :=
  aluExec x.g (sp1 x.d :: sp1 x.a :: spRI1 x.b)
    (fun th =>
      let a := th.reg x.a.toNat
      let b := th.ri x.b
      th.setReg x.d.toNat (pack16 (f (elem16 a 0) (elem16 b 0)) (f (elem16 a 1) (elem16 b 1)))) s

/-- d, a with a result in the same format (R161, R164). -/
def flt1 (x : F1Args) (f : Nat → Nat) (s : State) : Out :=
  aluExec x.g [spF x.f x.d, spF x.f x.a] (fun th => th.setFlt x.f x.d (f (th.flt x.f x.a))) s

/-- The random word of a conversion under `.rs` (R159). -/
def Thread.randomWord (th : Thread) (rm : Rm) (w : GReg) : Nat := if rm == .rs then (th.reg w.toNat).toNat else 0

def spRandom (rm : Rm) (w : GReg) : List (Nat × Nat) := if rm == .rs then [sp1 w] else []

/-- The format codes that a CVT type code holds. -/
def cvtFmts : CType → List Fmt
  | .int _ => []
  | .flt f => [f]

/-- The bits of an operand of a CVT type code. -/
def Thread.cvtBits (th : Thread) (t : CType) (r : GReg) : Nat :=
  match t with
  | .int t => th.bitsOf t r
  | .flt f => th.flt f r

/-- The four conversions of R159. -/
def cvtOf (dt st : CType) (rm : Rm) (w : Nat) (sat : Bool) (a : Nat) : Nat :=
  match dt, st with
  | .flt d, .flt f => round (toReal f a) d rm w sat
  | .int d, .flt f => wrap d.n (toInt (toReal f a) d rm)
  | .flt d, .int t => round (ofInteger (asInt t a)) d rm w sat
  | .int d, .int t => narrow d sat (asInt t a)

/-- The scaled conversion of R160. -/
def cvtsOf (div : Bool) (dt st : Fmt) (rm : Rm) (w : Nat) (sat : Bool) (a e : Nat) : Nat :=
  if e = 255 then (if Fmt.hasNan dt then canonicalNan dt else 0)
  else round (xscale (toReal st a) (if div then 127 - (e : Int) else (e : Int) - 127)) dt rm w sat

/-! ## RND (R167) -/

def rndConst (r : Nat) : Word :=
  match r with
  | 0 => 0x9E3779B9
  | 1 => 0x7F4A7C15
  | 2 => 0xF39CC060
  | _ => 0x5CEDC834

/-- The four state words of RND. -/
structure Mix where
  x0 : Word
  x1 : Word
  x2 : Word
  x3 : Word
  deriving DecidableEq, Repr

/-- One round. -/
def mixRound (k0 k1 : Word) (m : Mix) (r : Nat) : Mix :=
  let a := m.x0 + k0 + rndConst r
  let b := m.x1 + k1
  let a := a + b
  let d := (m.x3 ^^^ a).rotateLeft 13
  let c := m.x2 + d
  let b := (b ^^^ c).rotateLeft 19
  let a := a + b
  let d := (d ^^^ a).rotateLeft 7
  let c := c + d
  let b := (b ^^^ c).rotateLeft 24
  { x0 := b, x1 := c, x2 := d, x3 := a }

/-- The four output words of RND from a key and a counter. -/
def rndWords (k0 k1 : Word) (m : Mix) : Mix :=
  let z := [0, 1, 2, 3].foldl (mixRound k0 k1) m
  { x0 := z.x0 + k1, x1 := z.x1 ^^^ k0, x2 := z.x2 + k0, x3 := z.x3 ^^^ k1 }

def Thread.rnd (th : Thread) (x : RndArgs) : Mix :=
  rndWords (th.reg x.k.toNat) (th.reg (x.k.toNat + 1))
    { x0 := th.reg x.c.toNat, x1 := th.reg (x.c.toNat + 1), x2 := th.reg (x.c.toNat + 2), x3 := th.reg (x.c.toNat + 3) }

/-! ## Meanings -/

/-- FADD (R151). -/
def execFadd (x : Fp3Args) (s : State) : Out := fltOp x (fAdd x.f x.rm x.sat) s

/-- FSUB (R151). -/
def execFsub (x : Fp3Args) (s : State) : Out := fltOp x (fSub x.f x.rm x.sat) s

/-- FMUL (R151). -/
def execFmul (x : Fp3Args) (s : State) : Out := fltOp x (fMul x.f x.rm x.sat) s

/-- FMA (R151). -/
def execFma (x : FmaArgs) (s : State) : Out :=
  aluExec x.g (spF x.f x.d :: spF x.f x.a :: spF x.f x.b :: spRI x.f x.c)
    (fun th => th.setFlt x.f x.d (fFma x.f x.rm x.sat (th.flt x.f x.a) (th.flt x.f x.b) (th.fltRI x.f x.c))) s

/-- FDIV (R152). -/
def execFdiv (x : Fp3Args) (s : State) : Out := fltOp x (fDiv x.f x.rm) s

/-- FMIN (R153). -/
def execFmin (x : Fp3Args) (s : State) : Out := fltOp x (fMinMax x.f false) s

/-- FMAX (R153). -/
def execFmax (x : Fp3Args) (s : State) : Out := fltOp x (fMinMax x.f true) s

/-- FCMP (R154). -/
def execFcmp (x : FcmpArgs) (s : State) : Out :=
  aluExec x.g (spF x.f x.a :: spRI x.f x.b)
    (fun th => th.setPred x.pd.toNat (fCond x.c x.f (th.flt x.f x.a) (th.fltRI x.f x.b))) s

/-- FCLASS (R155). -/
def execFclass (x : F1Args) (s : State) : Out :=
  aluExec x.g [sp1 x.d, spF x.f x.a]
    (fun th => th.setReg x.d.toNat (BitVec.ofNat 32 (2 ^ fClass x.f (th.flt x.f x.a)))) s

/-- HADD2 (R156). -/
def execHadd2 (x : Fp3Args) (s : State) : Out := packedOp x (fAdd x.f x.rm x.sat) s

/-- HSUB2 (R156). -/
def execHsub2 (x : Fp3Args) (s : State) : Out := packedOp x (fSub x.f x.rm x.sat) s

/-- HMUL2 (R156). -/
def execHmul2 (x : Fp3Args) (s : State) : Out := packedOp x (fMul x.f x.rm x.sat) s

/-- HFMA2 (R156). -/
def execHfma2 (x : FmaArgs) (s : State) : Out :=
  aluExec x.g (sp1 x.d :: sp1 x.a :: sp1 x.b :: spRI1 x.c)
    (fun th =>
      let a := th.reg x.a.toNat
      let b := th.reg x.b.toNat
      let c := th.ri x.c
      let f (e : Nat) : Nat := fFma x.f x.rm x.sat (elem16 a e) (elem16 b e) (elem16 c e)
      th.setReg x.d.toNat (pack16 (f 0) (f 1))) s

/-- HMIN2 (R156). -/
def execHmin2 (x : Fp3Args) (s : State) : Out := packedOp x (fMinMax x.f false) s

/-- HMAX2 (R156). -/
def execHmax2 (x : Fp3Args) (s : State) : Out := packedOp x (fMinMax x.f true) s

/-- HCMP2 (R157): the conditions on elements 0 and 1 go to p(pd) and p(pd + 1). -/
def execHcmp2 (x : FcmpArgs) (s : State) : Out :=
  aluExec x.g (sp1 x.a :: spRI1 x.b)
    (fun th =>
      let a := th.reg x.a.toNat
      let b := th.ri x.b
      (th.setPred x.pd.toNat (fCond x.c x.f (elem16 a 0) (elem16 b 0))).setPred (x.pd.toNat + 1)
        (fCond x.c x.f (elem16 a 1) (elem16 b 1))) s

/-- CVT (R159). -/
def execCvt (x : CvtArgs) (s : State) : Out :=
  runThread x.g
    (needFormats (cvtFmts x.dt ++ cvtFmts x.st) (needFeature (x.rm == .rs) 12 fIllegalField
      (checked (spC x.dt x.d :: spC x.st x.a :: spRandom x.rm x.w) fun c t th s =>
        let v := cvtOf x.dt x.st x.rm (th.randomWord x.rm x.w) x.sat (th.cvtBits x.st x.a)
        .ok (s.setThread c t (match x.dt with | .int d => th.setInt d x.d v | .flt f => th.setFlt f x.d v))))) s

/-- CVTS (R160). -/
def execCvts (x : CvtsArgs) (s : State) : Out :=
  runThread x.g
    (needFormats [x.dt, x.st] (needFeature (x.rm == .rs) 12 fIllegalField
      (checked (spF x.dt x.d :: spF x.st x.a :: sp1 x.s :: spRandom x.rm x.w) fun c t th s =>
        .ok (s.setThread c t (th.setFlt x.dt x.d
          (cvtsOf x.div x.dt x.st x.rm (th.randomWord x.rm x.w) x.sat (th.flt x.st x.a)
            ((th.reg x.s.toNat).toNat % 256))))))) s

/-- FRINT (R161). -/
def execFrint (x : F1Args) (s : State) : Out := flt1 x (fRint x.f x.rm) s

/-- PACK (R162). -/
def execPack (x : Fp3Args) (s : State) : Out :=
  aluExec x.g (sp1 x.d :: sp1 x.a :: spRI1 x.b)
    (fun th => th.setReg x.d.toNat
      (pack16 (round (toReal .f32 (th.reg x.a.toNat).toNat) x.f x.rm 0 x.sat)
        (round (toReal .f32 (th.ri x.b).toNat) x.f x.rm 0 x.sat))) s

/-- UNPK (R163): two elements of a 16-bit format into a pair, or four of an 8-bit format into a quad. -/
def execUnpk (x : F1Args) (s : State) : Out :=
  let n := if Fmt.n x.f = 16 then 2 else 4
  aluExec x.g [(x.d.toNat, n), sp1 x.a]
    (fun th =>
      let a := (th.reg x.a.toNat).toNat
      (List.range n).foldl (fun th' e =>
        th'.setReg (x.d.toNat + e)
          (BitVec.ofNat 32 (roundRne (toReal x.f (a / 2 ^ (Fmt.n x.f * e) % 2 ^ Fmt.n x.f)) .f32))) th) s

/-- RND (R167). -/
def execRnd (x : RndArgs) (s : State) : Out :=
  aluExec x.g [sp4 x.d, sp2 x.k, sp4 x.c]
    (fun th =>
      let y := th.rnd x
      (((th.setReg x.d.toNat y.x0).setReg (x.d.toNat + 1) y.x1).setReg (x.d.toNat + 2) y.x2).setReg (x.d.toNat + 3) y.x3) s

/-- RND.lo (R167). -/
def execRndLo (x : RndArgs) (s : State) : Out :=
  aluExec x.g [sp1 x.d, sp2 x.k, sp4 x.c] (fun th => th.setReg x.d.toNat (th.rnd x).x0) s

/-- FEXP2 (R164, R165). -/
def execFexp2 (x : F1Args) (s : State) : Out := flt1 x (fun a => fExp2 (BitVec.ofNat 32 a)) s

/-- FLOG2 (R164, R165). -/
def execFlog2 (x : F1Args) (s : State) : Out := flt1 x (fun a => fLog2 (BitVec.ofNat 32 a)) s

/-- FRCP (R164, R165). -/
def execFrcp (x : F1Args) (s : State) : Out := flt1 x (fRcp x.f x.rm) s

/-- FRSQ (R164, R165). -/
def execFrsq (x : F1Args) (s : State) : Out := flt1 x (fun a => fRsq (BitVec.ofNat 32 a)) s

/-- FSQRT (R164, R165). -/
def execFsqrt (x : F1Args) (s : State) : Out := flt1 x (fSqrt x.f x.rm) s

/-- FSIN (R164, R165). -/
def execFsin (x : F1Args) (s : State) : Out := flt1 x (fun a => fSin (BitVec.ofNat 32 a)) s

/-- FCOS (R164, R165). -/
def execFcos (x : F1Args) (s : State) : Out := flt1 x (fun a => fCos (BitVec.ofNat 32 a)) s

/-- FTANH (R164, R165). -/
def execFtanh (x : F1Args) (s : State) : Out := flt1 x (fun a => fTanh (BitVec.ofNat 32 a)) s

end Sys2Proof.Machine
end

