-- ==== Sys2Proof/Machine/Ladle.lean ====
section
/-! DEFINITION. Ladle streams: their commands, the rows they deliver into arrival channels, reading ahead, and the thread
instructions of family 0xC (R307 to R334). -/

namespace Sys2Proof.Machine

/-! ## Errors and ends (R310, R326, R327, R329) -/

def errBadOp : Nat := 0x01
def errBadField : Nat := 0x02
def errXlate : Nat := 0x03
def errBounds : Nat := 0x04
def errChan : Nat := 0x05
def errTimeout : Nat := 0x06
def errDepth : Nat := 0x07
def errSlot : Nat := 0x08
def errStage : Nat := 0x09
def errPoisonCmd : Nat := 0x0A

/-- The cores of a cluster. -/
def clusterCores (l : Nat) : List Nat := (List.range 16).map (16 * l + ·)

/-- Ends a stream's ownership of its channels, and sets CH_ERR on them where the stream ends in error (R310, R326). -/
def State.disown (s : State) (l k : Nat) (err : Bool) : State :=
  (clusterCores l).foldl (fun s c =>
    (s.core c).chans.foldl (fun s e =>
      if e.2.owner = some (l, k) then
        let s1 := s.setChan c e.1 { e.2 with owner := none, err := e.2.err || err }
        if err then s1.testChan c e.1 else s1
      else s) s) s

/-- Whether a copy of the stream with a handle has not ended (R336). -/
def State.lives (s : State) (ctx : Nat) (h : Word) : Bool :=
  let on (y : Stream) : Bool := y.live && y.ctx == ctx && y.handle == h
  s.streams.any (fun e => on e.2) || s.unplaced.any fun u => on u.y

/-- The flag of the LDL.START that began a stream clears when every copy has ended; a handle that has not landed lands by itself
(R329, R336). -/
def State.startDone (s : State) (x : Stream) : State :=
  match s.thread? x.core x.slot with
  | none => s
  | some th =>
    if th.bid != x.bid || s.lives x.ctx x.handle then s
    else
      let mine (o : Op) : Bool := match o.kind with | .streamEnd h _ => h == x.handle | _ => false
      match th.ops.find? mine with
      | none => s
      | some o =>
        match o.kind with
        | .streamEnd h (some d) =>
          s.setThread x.core x.slot
            { th with ops := th.ops.map fun y => if y.uid = o.uid then { o with kind := .land d .n32 h.toNat } else y }
        | _ => (s.setThread x.core x.slot (th.retire o)).after x.core [x.slot]

/-- A stream gives up its conversion staging, or its place among those that wait for it (R319). -/
def State.unstage (s : State) (l k : Nat) : State :=
  { s with staging := FMap.put s.staging l ((FMap.getD s.staging l []).filter fun e => e.1 ≠ k) }

/-- Ends a stream in a state: run-ahead is discarded, ownership ends, the flag of its LDL.START clears (R326, R329, R330). -/
def State.endStream (s : State) (l k : Nat) (st : StreamSt) (err : Nat) : State :=
  let x := s.stream l k
  let y := { x with st := st, err := err, emit := none, waitm := none, stalled := none, ahead := [] }
  (((s.unstage l k).setStream l k y).disown l k (st == .error)).startDone y

/-- A stream error (R326). -/
def State.streamErr (s : State) (l k code : Nat) : State := s.endStream l k .error code

/-- A failed translation: ERR XLATE, with the escalation of XLATE_ENGINE (R327). -/
def State.streamXlate (s : State) (l k : Nat) (va : Dword) : State :=
  let x := s.stream l k
  ((s.walked x.ctx va).recordFault x.ctx fXlateEngine x.core x.slot false va).streamErr l k errXlate

/-- The stream stalls until a translation is supplied, and accesses again (R327). -/
def State.streamStall (s : State) (l k : Nat) (va : Dword) (kind : Nat) (entry : Option Nat) : State :=
  let x := s.stream l k
  let s1 := (s.walked x.ctx va).setStream l k { x with stalled := some va }
  match entry with
  | some e => s1.requestReplay (s.lanternOf x.bid) false kind x.ctx va e
  | none => s1.noteDivert (s.lanternOf x.bid) kind x.ctx va

/-- Continues with the outcome of an access of a stream; `s0` is the state in which the access is made again. -/
def streamRes {α : Type} (s0 : State) (l k kind : Nat) (r : ARes α) (f : α → State) : State :=
  match r with
  | .ok a => f a
  | .held s1 => s0.withRecalls s1
  | .miss va e => s0.streamStall l k va kind (some e)
  | .divert va => s0.streamStall l k va kind none
  | .fail va _ => s0.streamXlate l k va

/-! ## Commands (R311 to R325) -/

/-- Runs a command of the stream in turn, whose LPC is already that of the next command. -/
def runStream (body : Nat → Nat → Stream → State → State) (s : State) : Out :=
  match s.cur with
  | .stream l k => if (s.stream l k).live then .next (body l k (s.stream l k) s) else .next s
  | _ => .refused .noAgent

/-- The stream back at a one-word command, to execute it again. -/
def Stream.back (x : Stream) : Stream := { x with lpc := x.lpc - 16 }

/-- Whether a format or scaling of a Ladle command needs an absent feature (R392). -/
def State.ladleLacks (s : State) (f : Fmt) (scaled : Bool) : Bool :=
  (f == .lns6 && s.lacksFeature 1) || ((isMx f || (scaled && isFp8 f)) && s.lacksFeature 2)

/-- SRC (R313). -/
def execLadleSrc (x : LSrc) (s : State) : Out :=
  runStream (fun l k y s =>
    if s.ladleLacks x.fmt x.scaled then s.streamErr l k errBadField
    else s.setStream l k { y with src := some x, quant := none, cursor := [0, 0, 0, 0, 0] }) s

/-- QUANT (R314). -/
def execLadleQuant (x : LQuant) (s : State) : Out :=
  runStream (fun l k y s =>
    if s.ladleLacks x.tfmt x.scaled || (x.rm == .rs && s.lacksFeature 12) then s.streamErr l k errBadField
    else s.setStream l k { y with quant := if x.off then none else some x }) s

/-- The receivers that an RMASK names. -/
def receivers (l : Nat) (mask : Half) : List Nat := ((List.range 16).filter fun i => mask.getLsbD i).map (16 * l + ·)

end Sys2Proof.Machine

namespace Sys2Proof
open Sys2Proof.Machine

/-- The buffer that a DST fills. -/
def LDst.space (d : LDst) : Space := if d.abuf then .abuf else .wbuf

/-- The bytes of a slot and of a ring, and the pitch. -/
def LDst.slotBytes (d : LDst) : Nat := 64 * d.slotsz.toNat

def LDst.nslot (d : LDst) : Nat := 2 ^ d.logn.toNat

def LDst.pitchBytes (d : LDst) : Nat := 16 * d.pitch.toNat

end Sys2Proof

namespace Sys2Proof.Machine

/-- Whether a channel admits a stream (R310). -/
def State.chanOk (s : State) (x : Stream) (l k : Nat) (c ch : Nat) : Bool :=
  let y := s.chan c ch
  (match y.block with | some b => ((s.block? b).map fun z => z.ctx == x.ctx).getD false | none => false) &&
    (y.owner == none || y.owner == some (l, k))

/-- DST (R310, R315). -/
def execLadleDst (x : LDst) (s : State) : Out :=
  runStream (fun l k y s =>
    let ch := x.ch.toNat
    let cs := receivers l x.rmask
    let fits (c : Nat) : Bool :=
      let z := s.chan c ch
      decide (z.base.toNat + x.land.toNat + x.nslot * x.slotBytes ≤ (z.block.map fun b => s.alloc b x.space).getD 0)
    if !cs.all (fun c => s.chanOk y l k c ch) then s.streamErr l k errChan
    else if !cs.all fits then s.streamErr l k errBounds
    else
      let s1 := s.disown l k false
      let s2 := cs.foldl (fun s c => s.setChan c ch { s.chan c ch with owner := some (l, k) }) s1
      s2.setStream l k { y with dst := some x, lost := false }) s

/-! ### Tiles to emit (R314, R316, R317, R319) -/

def Emit.tc (e : Emit) : Nat := (match e.gather with | some g => g.tc1.toNat | none => e.walk.tc1.toNat) + 1
def Emit.tr (e : Emit) : Nat := (match e.gather with | some g => g.tr1.toNat | none => e.walk.tr1.toNat) + 1
def Emit.count (e : Emit) : Nat := (match e.gather with | some g => g.ntile1.toNat | none => e.walk.count1.toNat) + 1

end Sys2Proof.Machine

namespace Sys2Proof
open Sys2Proof.Machine

/-- Bits of a source element. -/
def LSrc.bits (x : LSrc) : Nat := if x.raw then 8 else Fmt.n x.fmt

/-- Size of dimension j; a dimension left out has size 1. -/
def LSrc.size (x : LSrc) (j : Nat) : Nat := ((x.dims[j]?).map fun d => d.1.toNat).getD 1

def LSrc.stride (x : LSrc) (j : Nat) : Int := ((x.dims[j]?).map fun d => d.2.toInt).getD 0

end Sys2Proof

namespace Sys2Proof.Machine

/-- Whether R314 admits a conversion of a source. -/
def convOk (x : LSrc) (q : LQuant) : Bool :=
  if x.raw then false
  else if x.scaled then isMx x.fmt && q.scaled && q.tfmt == .e4m3 && q.rm == .rn
  else
    let rmOk := q.rm == .rn || q.rm == .rz || q.rm == .rs
    if q.scaled then (q.tfmt == .e4m3 || q.tfmt == .e5m2 || (q.tfmt == .lns6 && q.rm != .rs)) && (q.tfmt == .lns6 || isFp8 q.tfmt) && rmOk
    else (q.tfmt == .f32 || q.tfmt == .f16 || q.tfmt == .bf16 || isFp8 q.tfmt) && rmOk

/-- Bits of a delivered element, and whether the delivered format is scaled (R316). -/
def delivered (x : LSrc) (q : Option LQuant) : Nat × Bool :=
  match q with
  | some c => (Fmt.n c.tfmt, c.scaled)
  | none => (x.bits, x.scaled)

/-- The error of a WALK or GATHER with TC and TR, if it has one. Where the delivered format has no scales, SPLIT adds nothing to the tile extent,
for which R316 states no condition (DESIGN CHOICE, log entry 100). The source bytes of a converting tile count its scale bytes, and its elements
outside the tensor's extent too, which R319 does not say (DESIGN CHOICE, log entry 101). Where R314, R316 and R319 are broken at once, they are
tested in this order (DESIGN CHOICE, log entry 107). -/
def emitErr (y : Stream) (tc tr : Nat) : Option Nat :=
  match y.src, y.dst with
  | some x, some d =>
    if !((y.quant.map (convOk x)).getD true) then some errBadField
    else
      let f := delivered x y.quant
      let ns := if f.2 then tc / 32 else 0
      let eb := tc * f.1 / 8
      if (f.2 && tc % 32 != 0) || tc * f.1 % 8 != 0 then some errSlot
      else if d.pitchBytes < eb + (if d.split then 0 else ns) then some errSlot
      else if d.slotBytes < tr * d.pitchBytes + (if d.split then tr * ns else 0) then some errSlot
      else if y.quant.isSome && Config.stagingTile < tr * ((tc * x.bits + 7) / 8 + (if x.scaled then tc / 32 else 0)) then some errStage
      else none
  | _, _ => some errBadField

/-- WALK and GATHER begin: their tiles are delivered by TILE_DELIVERY. -/
def startEmit (e : Emit) (s : State) : Out :=
  runStream (fun l k y s =>
    match emitErr y e.tc e.tr with
    | some c => s.streamErr l k c
    | none => s.setStream l k { y with emit := some e }) s

def Emit.fresh (g : Option LGather) (w : LWalk) : Emit :=
  { gather := g, walk := w, tile := 0, row := 0, begun := false, recv := 0, bytes := [], bad := [], sbytes := [], sbad := [],
    chunks := [], staged := [], parts := [] }

/-- WALK (R317). -/
def execLadleWalk (x : LWalk) (s : State) : Out := startEmit (Emit.fresh none x) s

/-- GATHER (R318). -/
def execLadleGather (x : LGather) (s : State) : Out :=
  startEmit (Emit.fresh (some x) { tc1 := 0, tr1 := 0, adim := 0, amt := 0, count1 := 0 }) s

/-! ### Flow (R325) -/

/-- LOOP. -/
def execLadleLoop (n : Word) (s : State) : Out :=
  runStream (fun l k y s =>
    if 4 ≤ y.loops.length then s.streamErr l k errDepth
    else s.setStream l k { y with loops := (y.lpc, n.toNat) :: y.loops }) s

/-- The levels of the loop stack that belong to callers' lists. -/
def Stream.outer (y : Stream) : Nat := ((y.calls.head?).map Prod.snd).getD 0

/-- ENDL. -/
def execEndl (s : State) : Out :=
  runStream (fun l k y s =>
    if y.loops.length ≤ y.outer then s.streamErr l k errBadField
    else
      match y.loops with
      | [] => s.streamErr l k errBadField
      | (a, n) :: rest =>
        if n ≤ 1 then s.setStream l k { y with loops := rest }
        else s.setStream l k { y with loops := (a, n - 1) :: rest, lpc := a }) s

/-- CALL. -/
def execLadleCall (addr : Dword) (s : State) : Out :=
  runStream (fun l k y s =>
    if 4 ≤ y.calls.length then s.streamErr l k errDepth
    else s.setStream l k { y with calls := (y.lpc, y.loops.length) :: y.calls, lpc := addr }) s

/-- RET. -/
def execLadleRet (s : State) : Out :=
  runStream (fun l k y s =>
    match y.calls with
    | [] => s.streamErr l k errBadField
    | (a, n) :: rest =>
      if n < y.loops.length then s.streamErr l k errBadField
      else s.setStream l k { y with calls := rest, lpc := a, ahead := [] }) s

/-- Reads the word of a BR or WAITM; `s0` is the state in which the command is executed again. -/
def streamWord (s0 s : State) (l k : Nat) (y : Stream) (addr : Dword) (f : Nat → State → State) : State :=
  streamRes s0 l k 0 (s.agentRead y.ctx addr 4) fun r =>
    if r.2.1.isEmpty then f (leNat r.1) r.2.2 else r.2.2.streamErr l k errPoisonCmd

/-- BR: lines read ahead the other way are discarded (R324). -/
def execLadleBr (x : LBr) (s : State) : Out :=
  runStream (fun l k y s =>
    streamWord (s.setStream l k y.back) s l k y x.addr fun w s =>
      let here := y.lpc - 16
      let took := wordCond x.cond 32 w x.value.toNat
      let kept := if FMap.getD y.brs here.toNat false == took then y.ahead else []
      s.setStream l k { y with
        brs := FMap.put y.brs here.toNat took, ahead := kept,
        lpc := if took then here + 16 * x.off.signExtend 64 else y.lpc }) s

/-- WAITM: the word is read again until the condition holds; run-ahead starts afresh behind it. -/
def execWaitm (x : LWaitm) (s : State) : Out :=
  runStream (fun l k y s =>
    let held := s.setStream l k { y with waitm := some x }
    streamWord held s l k y x.addr fun w s =>
      if wordCond x.cond 32 w x.value.toNat then s.setStream l k { y with waitm := none, ahead := [] }
      else s.setStream l k { y with waitm := some x }) s

/-- WAITM_TIMEOUT: the deadline of a waiting WAITM passes (R325, R326). -/
def execWaitmTimeout (l k : Nat) (s : State) : Out :=
  let y := s.stream l k
  match y.waitm with
  | some x => if y.live && !y.halted && x.deadline != 0 then .next (s.streamErr l k errTimeout) else .next s
  | none => .next s

/-- Runs a SIGNAL: only the first copy of a stream performs it (R336). -/
def runSignal (body : Nat → Nat → Stream → State → State) (s : State) : Out :=
  runStream (fun l k y s => if y.copy then s.setStream l k { y with ahead := [] } else body l k y s) s

/-- SIGNAL store32. -/
def execLadleSignalStore32 (x : LSignal) (s : State) : Out :=
  runSignal (fun l k y s =>
    streamRes (s.setStream l k y.back) l k 1 (s.agentWrite y.ctx x.addr (leBytes 4 x.value.toNat) [] false) fun s =>
      s.setStream l k { s.stream l k with ahead := [] }) s

/-- SIGNAL add32. -/
def execLadleSignalAdd32 (x : LSignal) (s : State) : Out :=
  runSignal (fun l k y s =>
    streamRes (s.setStream l k y.back) l k 2 (s.agentAdd y.ctx x.addr 4 x.value.toNat false) fun r =>
      match r with
      | some s => s.setStream l k { s.stream l k with ahead := [] }
      | none => s.streamErr l k errPoisonCmd) s

/-- SIGNAL token. -/
def execLadleSignalToken (x : LSignal) (s : State) : Out :=
  runSignal (fun l k y s => (s.setStream l k { y with ahead := [] }).tokenAdd y.ctx (x.value.toNat % 4096)) s

/-- FENCE: the stream's deliveries and SIGNALs are performed already. -/
def execLadleFence (s : State) : Out := runStream (fun l k y s => s.setStream l k { y with ahead := [] }) s

/-- HALT. -/
def execHalt (s : State) : Out := runStream (fun l k _ s => s.endStream l k .done 0) s

/-! ## Reading sources (R323, R324, R327) -/

/-- Reads `n` bytes of a stream's sources, 64-byte line by line; a line read ahead serves its bytes. -/
def State.streamRead (s : State) (y : Stream) (va : Dword) (off n : Nat) : Nat → ARes (List Byte × List Nat × State)
  | 0 => .ok ([], [], s)
  | fuel + 1 =>
    if n = 0 then .ok ([], [], s)
    else
      let o := va.toNat % 64
      let len := min n (64 - o)
      let now : ARes (List Byte × List Nat × State) :=
        match FMap.find? y.ahead (va.toNat / 64) with
        | some l => .ok ((l.bytes.drop o).take len, (List.range len).filter fun i => l.poison.contains (o + i), s)
        | none => s.agentRead y.ctx va len
      match now with
      | .ok (bs, bad, s1) =>
        match State.streamRead s1 y (va + BitVec.ofNat 64 len) (off + len) (n - len) fuel with
        | .ok (bs2, bad2, s2) => .ok (bs ++ bs2, bad.map (off + ·) ++ bad2, s2)
        | r => r
      | r => r

/-- The bytes of all lines that a Ladle's streams have read ahead. -/
def State.aheadBytes (s : State) (l : Nat) : Nat :=
  ((List.range Config.nStreams).map fun k => 64 * (s.stream l k).ahead.length).foldl (· + ·) 0

end Sys2Proof.Machine

namespace Sys2Proof
open Sys2Proof.Machine

/-- The address of index n of a list. -/
def LGather.addr (g : LGather) (n : Nat) : Nat := (g.list.toNat + n * (if g.w64 then 8 else 4)) % 2 ^ 64

end Sys2Proof

namespace Sys2Proof.Machine

/-- Whether an address lies in the index list of the GATHER in emission. -/
def Emit.listed (e : Emit) (va : Dword) : Bool :=
  match e.gather with
  | some g => (List.range (e.count * e.tr)).any fun n => g.addr n / 256 == va.toNat / 256
  | none => false

/-- Reads a 256-byte chunk of the index list at one moment, unless it has been read. -/
def State.chunkFor (s : State) (y : Stream) (e : Emit) (va : Nat) : ARes (Emit × State) :=
  if (FMap.find? e.chunks (va / 256)).isSome then .ok (e, s)
  else
    match s.agentRead y.ctx (BitVec.ofNat 64 (va / 256 * 256)) 256 with
    | .ok (bs, bad, s1) => .ok ({ e with chunks := FMap.put e.chunks (va / 256) { bytes := bs, poison := bad } }, s1)
    | .held s1 => .held s1
    | .miss a i => .miss a i
    | .divert a => .divert a
    | .fail a i => .fail a i

/-- Reads a line ahead. -/
def State.readAhead (s : State) (l k : Nat) (y : Stream) (base : Dword) : Out :=
  match s.agentRead y.ctx base 64 with
  | .ok (bs, bad, s1) => .next (s1.setStream l k { y with ahead := FMap.put y.ahead (base.toNat / 64) { bytes := bs, poison := bad } })
  | _ => .next s

/-- The issuer of a stream has performed what comes before its LDL.START (R238, R329). -/
def State.streamClear (s : State) (y : Stream) : Bool := s.issuerClear y.core y.slot y.bid y.after

/-- RUN_AHEAD_READ (R238, R324): once its issuer has performed what comes before its LDL.START, a stream reads the line of an address ahead,
or the chunk of its index list there (R318), within its Ladle's pool; a miss or failure stops it. -/
def execRunAheadRead (l k : Nat) (va : Dword) (s : State) : Out :=
  let y := s.stream l k
  let base : Dword := va &&& ~~~(63 : Dword)
  if !y.live || y.halted || y.waitm.isSome || y.stalled.isSome || !s.streamClear y || Config.runAheadBytes < s.aheadBytes l + 64 then .next s
  else
    match y.emit with
    | some e =>
      if e.listed va then
        match s.chunkFor y e va.toNat with
        | .ok (e1, s1) => .next (s1.setStream l k { y with emit := some e1 })
        | _ => .next s
      else s.readAhead l k y base
    | none => s.readAhead l k y base

/-! ## Rows (R317, R318, R320) -/

/-- A converted row: elements' bytes, their poisoned offsets, scales' bytes and poisoned offsets, and a SAT_INF event. -/
structure DRow where
  bytes : List Byte
  bad : List Nat
  sbytes : List Byte
  sbad : List Nat
  inf : Bool
  deriving DecidableEq, Repr

end Sys2Proof.Machine

namespace Sys2Proof
open Sys2Proof.Machine

/-- The linear index of element (0, i1, …, i4) of a tensor (R320). -/
def LSrc.linear (x : LSrc) (idx : List Nat) : Nat :=
  x.size 0 * (idx.getD 1 0 + x.size 1 * (idx.getD 2 0 + x.size 2 * (idx.getD 3 0 + x.size 3 * idx.getD 4 0)))

end Sys2Proof

namespace Sys2Proof.Machine

/-- The random word of an element (R320). -/
def randomWord (q : LQuant) (e : Nat) : Nat :=
  (rndWords (q.key.extractLsb' 0 32) (q.key.extractLsb' 32 32)
    { x0 := BitVec.ofNat 32 e, x1 := BitVec.ofNat 32 (e / 2 ^ 32), x2 := q.salt, x3 := 0 }).x0.toNat

end Sys2Proof.Machine

namespace Sys2Proof
open Sys2Proof.Machine

/-- Elements that lie in the tensor, from the first on, of a row of TC elements at index (c0, i1, …, i4). -/
def LSrc.inside (x : LSrc) (tc : Nat) (idx : List Nat) : Nat :=
  if [1, 2, 3, 4].all fun j => decide (idx.getD j 0 < x.size j) then min tc (x.size 0 - idx.getD 0 0) else 0

/-- The address of the row's first element. -/
def LSrc.rowAddr (x : LSrc) (idx : List Nat) : Dword :=
  x.base + BitVec.ofInt 64 ([1, 2, 3, 4].foldl (fun (a : Int) j => a + (idx.getD j 0 : Nat) * x.stride j) 0) +
    BitVec.ofNat 64 (idx.getD 0 0 * x.bits / 8)

/-- The address of the scale of the row's first block (R313). -/
def LSrc.scaleAddr (x : LSrc) (idx : List Nat) : Dword :=
  x.sbase + BitVec.ofNat 64 (x.linear idx / 32 + idx.getD 0 0 / 32)

end Sys2Proof

namespace Sys2Proof.Machine

/-- Reads a row at an index. -/
def State.sourceRow (s : State) (y : Stream) (x : LSrc) (tc : Nat) (idx : List Nat) : ARes (SRow × State) :=
  let n := x.inside tc idx
  let nb := n * x.bits / 8
  match s.streamRead y (x.rowAddr idx) 0 nb (nb / 64 + 2) with
  | .ok (bs, bad, s1) =>
    let v := leNat bs
    let e0 := x.linear idx + idx.getD 0 0
    let elem (i : Nat) : SElem :=
      if i < n then
        { code := bitsAt v (i * x.bits) x.bits,
          bad := bad.contains (i * x.bits / 8) || bad.contains ((i * x.bits + x.bits - 1) / 8),
          w := match y.quant with | some q => if q.rm == .rs then randomWord q ((e0 + i) % 2 ^ 64) else 0 | none => 0 }
      else { code := 0, bad := false, w := 0 }
    let es := (List.range tc).map elem
    if !x.scaled then .ok ({ es := es, scales := [] }, s1)
    else
      match s1.streamRead y (x.scaleAddr idx) 0 (n / 32) (n / 2048 + 2) with
      | .ok (sb, sbad, s2) =>
        .ok ({ es := es,
               scales := (List.range (tc / 32)).map fun j => if j < n / 32 then ((sb.getD j 0).toNat, sbad.contains j) else (127, false) }, s2)
      | .held s1 => .held s1
      | .miss a e => .miss a e
      | .divert a => .divert a
      | .fail a e => .fail a e
  | .held s1 => .held s1
  | .miss a e => .miss a e
  | .divert a => .divert a
  | .fail a e => .fail a e

/-- Offsets of the bytes that hold the poisoned ones of packed elements. -/
def badBytes (bits : Nat) (bads : List Bool) : List Nat :=
  ((List.range bads.length).filter fun i => bads.getD i false).flatMap fun i =>
    (List.range ((i * bits + bits - 1) / 8 - i * bits / 8 + 1)).map (i * bits / 8 + ·)

/-- Packs element codes of any width. -/
def packBits (bits : Nat) (xs : List Nat) : List Byte :=
  leBytes (xs.length * bits / 8) (xs.foldr (fun x acc => x % 2 ^ bits + 2 ^ bits * acc) 0)

/-- Converts a row (R320). Poison reaches what depends on it: a widened element does not depend on its block's scale (R327). -/
def convRow (x : LSrc) (q : Option LQuant) (r : SRow) : DRow :=
  let nb := r.es.length / 32
  let scaleBytes (ss : List (Nat × Bool)) : List Byte × List Nat :=
    (ss.map fun e => BitVec.ofNat 8 e.1, (List.range ss.length).filter fun j => (ss.getD j (0, false)).2)
  match q with
  | none =>
    let sb := scaleBytes r.scales
    { bytes := packBits x.bits (r.es.map (·.code)), bad := badBytes x.bits (r.es.map (·.bad)), sbytes := sb.1, sbad := sb.2, inf := false }
  | some c =>
    if x.scaled then
      let sb := scaleBytes r.scales
      { bytes := packElems .e4m3 (r.es.map fun e => roundRne (toReal x.fmt e.code) .e4m3), bad := badBytes 8 (r.es.map (·.bad)),
        sbytes := sb.1, sbad := sb.2, inf := false }
    else if c.scaled then
      let qs := (blocks32 r.es nb).map fun b => (quantise c.tfmt c.rm (b.map fun e => (toReal x.fmt e.code, e.w)), b.any (·.bad))
      let sb := scaleBytes (qs.map fun e => (e.1.scale, e.2))
      { bytes := packElems c.tfmt (qs.flatMap fun e => e.1.codes),
        bad := badBytes (Fmt.n c.tfmt) (qs.flatMap fun e => e.1.codes.map fun _ => e.2), sbytes := sb.1, sbad := sb.2,
        inf := qs.any fun e => e.1.inf }
    else
      { bytes := packElems c.tfmt (r.es.map fun e => round (toReal x.fmt e.code) c.tfmt c.rm e.w c.sat),
        bad := badBytes (Fmt.n c.tfmt) (r.es.map (·.bad)), sbytes := [], sbad := [], inf := false }

/-! ### Index lists (R318) -/

/-- The index of row n: its value, or none when it is poisoned. The next chunk is read before the last row that uses
this one is delivered. -/
def State.indexAt (s : State) (y : Stream) (e : Emit) (g : LGather) (n : Nat) : ARes (Option Int × Emit × State) :=
  let w := if g.w64 then 8 else 4
  match s.chunkFor y e (g.addr n) with
  | .ok (e1, s1) =>
    let next : ARes (Emit × State) :=
      if n + 1 < e.count * e.tr && g.addr (n + 1) / 256 != g.addr n / 256 then s1.chunkFor y e1 (g.addr (n + 1)) else .ok (e1, s1)
    match next with
    | .ok (e2, s2) =>
      let l := FMap.getD e2.chunks (g.addr n / 256) { bytes := [], poison := [] }
      let o := g.addr n % 256
      let v := leNat ((l.bytes.drop o).take w)
      let x : Int := if g.signed && decide (2 ^ (8 * w - 1) ≤ v) then (v : Int) - 2 ^ (8 * w) else v
      .ok (if (List.range w).any fun i => l.poison.contains (o + i) then none else some x, e2, s2)
    | .held s1 => .held s1
    | .miss a i => .miss a i
    | .divert a => .divert a
    | .fail a i => .fail a i
  | .held s1 => .held s1
  | .miss a i => .miss a i
  | .divert a => .divert a
  | .fail a i => .fail a i

/-- A row of zeros, poisoned or not. -/
def zeroRow (x : LSrc) (tc : Nat) (bad : Bool) : SRow :=
  { es := List.replicate tc { code := 0, bad := bad, w := 0 },
    scales := if x.scaled then List.replicate (tc / 32) (127, bad) else [] }

/-- The row that a stream delivers next, with its emission and whether its index lay out of range. -/
def State.nextRow (s : State) (y : Stream) (x : LSrc) (e : Emit) : ARes (SRow × Bool × Emit × State) :=
  let c (j : Nat) := y.cursor.getD j 0
  match e.gather with
  | none =>
    match s.sourceRow y x e.tc [c 0, c 1 + e.row, c 2, c 3, c 4] with
    | .ok (r, s1) => .ok (r, false, e, s1)
    | .held s1 => .held s1
    | .miss a i => .miss a i
    | .divert a => .divert a
    | .fail a i => .fail a i
  | some g =>
    match s.indexAt y e g (e.tile * e.tr + e.row) with
    | .ok (none, e1, s1) => .ok (zeroRow x e.tc true, false, e1, s1)
    | .ok (some i, e1, s1) =>
      if i < 0 || (x.size 1 : Int) ≤ i then .ok (zeroRow x e.tc false, true, e1, s1)
      else
        match s1.sourceRow y x e.tc [c 0, i.toNat, c 2, c 3, c 4] with
        | .ok (r, s2) => .ok (r, false, e1, s2)
        | .held s1 => .held s1
        | .miss a i => .miss a i
        | .divert a => .divert a
        | .fail a i => .fail a i
    | .held s1 => .held s1
    | .miss a i => .miss a i
    | .divert a => .divert a
    | .fail a i => .fail a i

/-! ## Delivery (R321, R322) -/

/-- The cursor after a tile of WALK (R317); its five values are of 32 bits each (R307). -/
def carry (x : LSrc) : Nat → Nat → List Nat → List Nat
  | 0, _, c => c
  | n + 1, j, c =>
    if j < 4 && x.size j ≤ c.getD j 0 then
      carry x n (j + 1) ((c.set j (c.getD j 0 - x.size j)).set (j + 1) ((c.getD (j + 1) 0 + 1) % 2 ^ 32))
    else c

def advanceCursor (x : LSrc) (w : LWalk) (c : List Nat) : List Nat :=
  let a := w.adim.toNat
  let c1 := carry x 5 a (c.set a ((c.getD a 0 + w.amt.toNat) % 2 ^ 32))
  if x.size 4 ≤ c1.getD 4 0 then c1.set 4 (c1.getD 4 0 % x.size 4) else c1

/-- Whether a receiver's window admits another tile (R321). -/
def windowOpen (d : LDst) (x : Chan) : Bool := decide ((x.slots - x.rel).toNat < d.nslot)

/-- Where a receiver's present slot begins. -/
def slotAddr (d : LDst) (x : Chan) : Nat := x.base.toNat + d.land.toNat + x.slots.toNat % d.nslot * d.slotBytes

/-- Writes the parts of bytes that are not written yet into a receiver's buffer. -/
def State.deliver (s : State) (c : Nat) (b : Bid) (sp : Space) (a : Nat) (bs : List Byte) (bad parts : List Nat) : State :=
  s.setEngineBuf b (s.halfOf c b) sp ((s.engineBuf b (s.halfOf c b) sp).writeParts a bs bad parts)

/-- Whether a receiver's channel is still the stream's. -/
def State.owns (s : State) (l k c ch : Nat) : Bool := (s.chan c ch).owner == some (l, k) && (s.chan c ch).block.isSome

/-- What a stream writes next to a receiver whose slot begins at an address: the row in hand, or after the last row the scale area. -/
def Emit.piece (e : Emit) (d : LDst) (slot : Nat) : Nat × List Byte × List Nat :=
  if e.row < e.tr then (slot + e.row * d.pitchBytes, e.bytes, e.bad) else (slot + e.tr * d.pitchBytes, e.sbytes, e.sbad)

/-- Whether what a stream writes next ends a tile: its last row, or under SPLIT its scale area (R321). -/
def Emit.ends (e : Emit) (d : LDst) : Bool := if d.split then decide (e.tr ≤ e.row) else decide (e.tr ≤ e.row + 1)

/-- Writes the row in hand, or the scale area, to receiver `c`, and advances its counters. -/
def State.deliverTo (s : State) (x : Stream) (d : LDst) (e : Emit) (c : Nat) : State :=
  let ch := d.ch.toNat
  let z := s.chan c ch
  let w := e.piece d (slotAddr d z)
  let s1 := s.deliver c (z.block.getD x.bid) d.space w.1 w.2.1 w.2.2 e.parts
  let z1 := if e.ends d then
      { z with wp := z.wp + BitVec.ofNat 32 (d.slotBytes - min e.row e.tr * d.pitchBytes), slots := z.slots + 1 }
    else { z with wp := z.wp + BitVec.ofNat 32 d.pitchBytes }
  (s1.setChan c ch z1).testChan c ch

/-- A stream begins its next tile when every receiver's window admits it, else waits (R321). -/
def State.beginTile (s : State) (l k : Nat) (y : Stream) (x : LSrc) (d : LDst) (e : Emit) : State :=
  if (delivered x y.quant).2 && y.cursor.getD 0 0 % 32 != 0 then s.streamErr l k errSlot
  else if y.lost || (receivers l d.rmask).all fun c => windowOpen d (s.chan c d.ch.toNat) then
    s.setStream l k { y with
      st := .run, emit := some { e with begun := true, row := 0, recv := 0, sbytes := [], sbad := [] } }
  else s.setStream l k { y with st := .wait }

/-- Converts a row that has been read and takes it in hand. -/
def State.takeRow (s : State) (l k : Nat) (y : Stream) (x : LSrc) (d : LDst) (e : Emit) (r : SRow) (out : Bool) : State :=
  let row := convRow x y.quant r
  let n := row.bytes.length
  let m := e.sbytes.length
  let e1 : Emit :=
    if d.split then
      { e with bytes := row.bytes, bad := row.bad, recv := 1, parts := [], sbytes := e.sbytes ++ row.sbytes,
               sbad := e.sbad ++ row.sbad.map (m + ·) }
    else { e with bytes := row.bytes ++ row.sbytes, bad := row.bad ++ row.sbad.map (n + ·), recv := 1, parts := [] }
  s.setStream l k { y with
    emit := some e1, satInf := y.satInf || row.inf, poison := y.poison || !row.bad.isEmpty || !row.sbad.isEmpty,
    oor := if out then min (y.oor + 1) 0xFFFFFFFF else y.oor }

/-- Reads the row that comes next, of a stream that does not convert. -/
def State.loadRow (s : State) (l k : Nat) (y : Stream) (x : LSrc) (d : LDst) (e : Emit) : State :=
  streamRes s l k 0 (s.nextRow y x e) fun r => r.2.2.2.takeRow l k y x d r.2.2.1 r.1 r.2.1

/-- The source bytes of a tile (R319). -/
def tileBytes (x : LSrc) (e : Emit) : Nat := e.tr * ((e.tc * x.bits + 7) / 8 + (if x.scaled then e.tc / 32 else 0))

/-- Whether a stream's request for conversion staging is met: those that asked before it and it fit together (R307, R319). -/
def State.stageHeld (s : State) (l k : Nat) : Bool :=
  let q := FMap.getD s.staging l []
  match q.findIdx? fun e => e.1 = k with
  | some i => decide (((q.take (i + 1)).map Prod.snd).foldl (· + ·) 0 ≤ Config.stagingBytes)
  | none => false

/-- A converting stream asks for staging, and once it has it reads the rows of its tile that are still to come into it (R319). -/
def State.stageRow (s : State) (l k : Nat) (y : Stream) (x : LSrc) (e : Emit) : State :=
  let q := FMap.getD s.staging l []
  if q.all fun r => r.1 ≠ k then { s with staging := FMap.put s.staging l (q ++ [(k, tileBytes x e)]) }
  else if !s.stageHeld l k then s
  else
    streamRes s l k 0 (s.nextRow y x { e with row := e.row + e.staged.length }) fun r =>
      r.2.2.2.setStream l k { y with emit := some { r.2.2.1 with row := e.row, staged := e.staged ++ [(r.1, r.2.1)] } }

/-- The emission after every receiver has been written; none when the command is done. -/
def Emit.step (e : Emit) (d : LDst) : Option Emit :=
  if !e.ends d then some { e with row := e.row + 1, recv := 0, parts := [] }
  else if e.tile + 1 < e.count then some { e with tile := e.tile + 1, row := 0, recv := 0, begun := false, parts := [] }
  else none

/-- Writes to the next receiver, and moves on after the last; a tile that is written gives up its staging. A receiver that is gone ends the
stream (R335); one that was lost by a restored stream comes first (log entry 102). -/
def State.writeNext (s : State) (l k : Nat) (y : Stream) (x : LSrc) (d : LDst) (e : Emit) (i : Nat) : State :=
  let rs := receivers l d.rmask
  match rs[i]? with
  | none => s
  | some c =>
    if y.lost || !s.owns l k c d.ch.toNat then s.streamErr l k errChan
    else
      let s1 := s.deliverTo y d e c
      if i + 1 < rs.length then s1.setStream l k { y with emit := some { e with recv := i + 2, parts := [] } }
      else
        let cursor := if e.ends d && e.gather.isNone then advanceCursor x e.walk y.cursor else y.cursor
        (if e.ends d then s1.unstage l k else s1).setStream l k { y with emit := e.step d, cursor := cursor }

/-- TILE_DELIVERY (R321): one step of a stream that emits tiles: it begins a tile, reads a row into staging or in hand, or writes the
row, and under SPLIT at the end of the tile the scale area, to one receiver. A stream that is halted ends the row in hand (R336). -/
def execTileDelivery (l k : Nat) (s : State) : Out :=
  let y := s.stream l k
  match y.emit, y.src, y.dst with
  | some e, some x, some d =>
    if !y.live || (y.halted && e.recv = 0 && e.parts.isEmpty) || y.stalled.isSome then .next s
    else if !e.begun then .next (s.beginTile l k y x d e)
    else if e.row < e.tr && e.recv = 0 then
      if y.quant.isNone then .next (s.loadRow l k y x d e)
      else if e.row + e.staged.length < e.tr then .next (s.stageRow l k y x e)
      else
        match e.staged with
        | r :: rs => .next (s.takeRow l k y x d { e with staged := rs } r.1 r.2)
        | [] => .next s
    else .next (s.writeNext l k y x d e (e.recv - 1))
  | _, _, _ => .next s

/-- Writes an 8-byte part of the row in hand to the receiver in turn, ahead of the others (R228). -/
def State.streamPart (s : State) (l k i : Nat) : State :=
  let y := s.stream l k
  match y.emit, y.dst with
  | some e, some d =>
    match (receivers l d.rmask)[e.recv - 1]? with
    | some c =>
      let z := s.chan c d.ch.toNat
      let w := e.piece d (slotAddr d z)
      if !y.live || (e.recv = 0 && (decide (e.row < e.tr) || y.halted)) || e.parts.contains i || w.2.1.length ≤ 8 * i || y.lost || !s.owns l k c d.ch.toNat then s
      else
        let p := partAt w.2.1 w.2.2 i
        (s.deliver c (z.block.getD y.bid) d.space (w.1 + 8 * i) p.1 p.2 []).setStream l k { y with emit := some { e with parts := i :: e.parts } }
    | none => s
  | _, _ => s

/-- A row that some receivers have, and others have not, is written to the others: a stream stops between rows (R330). -/
def State.finishRow (s : State) (l k : Nat) : Nat → State
  | 0 => s
  | n + 1 =>
    let y := s.stream l k
    match y.emit, y.src, y.dst with
    | some e, some x, some d =>
      if y.live && (decide (2 ≤ e.recv) || !e.parts.isEmpty) then State.finishRow (s.writeNext l k y x d e (e.recv - 1)) l k n else s
    | _, _, _ => s

/-- A stream stops between rows (R330, R335). -/
def State.stopStream (s : State) (l k : Nat) : State :=
  let s1 := s.finishRow l k 16
  if (s1.stream l k).live then s1.endStream l k .stopped 0 else s1

/-! ## Thread instructions (R328 to R334) -/

/-- A stream handle (R328). -/
def handleOf (l k seq : Nat) : Word := BitVec.ofNat 32 (l + 128 * k + 2048 * seq)

/-- NONE. -/
def handleNone : Word := 0xFFFFFFFF

/-- The next sequence number (R307). -/
def seqNext (n : Nat) : Nat := if n = 0x1FFFFE then 0 else n + 1

/-- The access that LDL.START's list address names (R436). -/
def listAcc (a : Dword) : Acc := { space := .glb, scope := .dev, ea := a, size := 4, kind := 0 }

/-- LDL.START in the Ladle of a cluster (R329). -/
def startStream (l : Nat) (h : LHdr) (d a : GReg) (s : State) : Out :=
  classL h [sp1 d, sp2 a] (fun fl =>
    needRole .feed (fun c t th s =>
      let list := th.pair a.toNat
      if list.toNat % 16 ≠ 0 then .error (Flt.acc fMisaligned (listAcc list))
      else
        match (List.range Config.nStreams).find? fun k => (s.stream l k).st == .free with
        | none => .ok (s.issueOp c t th fl (.land d.toNat .n32 handleNone.toNat) (listAcc list))
        | some k =>
          let seq := seqNext (s.stream l k).seq
          let hd := handleOf l k seq
          let kind : OpKind := match fl with
            | some _ => .streamEnd hd (some d.toNat)
            | none => .land d.toNat .n32 hd.toNat
          let s1 := s.issueOp c t th fl kind (listAcc list)
          .ok (s1.setStream l k { Stream.free with
            handle := hd, st := .run, seq := seq, lpc := list, core := c, slot := t, bid := th.bid, after := s.uid, ctx := th.ctx }))) s

/-- LDL.START (R329): the Ladle of the issuing core's cluster. -/
def execLdlStart (x : LdlStartArgs) (s : State) : Out :=
  startStream (match s.cur with | .thread c _ => c / 16 | _ => 0) x.h x.d x.a s

/-- LDL.START.at (R329). -/
def execLdlStartAt (x : LdlStartAtArgs) (s : State) : Out :=
  gated x.h.g true 15 fIllegalField s fun s => startStream x.n.toNat x.h x.d x.a s

/-- Whether a stream has a handle in a context. -/
def Stream.has (y : Stream) (ctx : Nat) (h : Word) : Bool := y.st != .free && y.ctx == ctx && y.handle == h

/-- The slots that a handle names in a context, copies among them (R331, R336). -/
def State.slotsOf (s : State) (ctx : Nat) (h : Word) : List (Nat × Nat) :=
  (s.streams.filter fun e => e.2.has ctx h).map fun e => (e.1 / 16, e.1 % 16)

/-- The stream that a handle names in a context: the first copy, which may still wait for its slot (R331, R336). -/
def State.streamOf (s : State) (ctx : Nat) (h : Word) : Option Stream :=
  match List.find? (fun (e : Nat × Stream) => e.2.has ctx h && !e.2.copy) s.streams with
  | some e => some e.2
  | none => (s.unplaced.find? fun u => u.y.has ctx h && !u.y.copy).map fun u => u.y

/-- The channels of a stream that waits to be placed have no owner any longer (R336). -/
def State.disownWaiting (s : State) (u : SavedStream) : State :=
  u.recvs.foldl (fun s r =>
    match s.block? r.bid with
    | none => s
    | some b => s.setChan (b.core + r.half) r.ch { s.chan (b.core + r.half) r.ch with owner := none }) s

/-- A waiting stream with its issuer's place, once the issuer's block is in a core again (R336). -/
def State.atIssuer (s : State) (u : SavedStream) : Stream :=
  match (s.block? u.y.bid).bind fun b => b.threads[u.issuer]? with
  | some (c, t) => { u.y with core := c, slot := t }
  | none => u.y

/-- Stops the streams of a handle, in their slots and waiting for one (R330). -/
def State.stopHandle (s : State) (ctx : Nat) (h : Word) : State :=
  let s1 := (s.slotsOf ctx h).foldl (fun s e => if (s.stream e.1 e.2).live then s.stopStream e.1 e.2 else s) s
  let mine := s1.unplaced.filter fun u => u.y.has ctx h && u.y.live
  let s2 := mine.foldl State.disownWaiting s1
  let stop (u : SavedStream) : SavedStream :=
    if u.y.has ctx h && u.y.live then
      { u with y := { u.y with st := .stopped, emit := none, waitm := none, stalled := none, ahead := [] }, recvs := [] }
    else u
  mine.foldl (fun s u => s.startDone (s.atIssuer u)) { s2 with unplaced := s2.unplaced.map stop }

/-- LDL.STOP (R330). -/
def execLdlStop (x : AArgs) (s : State) : Out :=
  runThread x.g (checked [sp1 x.a] (needRole .feed fun _ _ th s => .ok (s.stopHandle th.ctx (th.reg x.a.toNat)))) s

/-- The STATE code of LDL.STAT. -/
def streamCode : StreamSt → Nat
  | .free => 0 | .run => 1 | .wait => 2 | .done => 3 | .stopped => 4 | .error => 5

/-- A stream's status words (R331). -/
def Stream.status (y : Stream) : Dword :=
  BitVec.ofNat 32 y.oor ++
    BitVec.ofNat 32 (2 ^ 18 + 2 ^ 17 * y.poison.toNat + 2 ^ 16 * y.satInf.toNat + 256 * y.err + streamCode y.st)

/-- Whether a stream has ended and keeps its slot. -/
def Stream.over (y : Stream) : Bool := y.st == .done || y.st == .stopped || y.st == .error

/-- Returns a stream slot to FREE; its sequence number stays. -/
def State.freeStream (s : State) (l k : Nat) : State := (s.unstage l k).setStream l k { Stream.free with seq := (s.stream l k).seq }

/-- Frees the streams of a handle that have ended. -/
def State.freeHandle (s : State) (ctx : Nat) (h : Word) : State :=
  let s1 := (s.slotsOf ctx h).foldl (fun s e => if (s.stream e.1 e.2).over then s.freeStream e.1 e.2 else s) s
  { s1 with unplaced := s1.unplaced.filter fun u => !(u.y.has ctx h && u.y.over) }

/-- LDL.STAT, with or without `.free`. -/
def ldlStat (x : DAArgs) (free : Bool) (s : State) : Out :=
  runThread x.g (checked [sp2 x.d, sp1 x.a] fun c t th s =>
    match s.streamOf th.ctx (th.reg x.a.toNat) with
    | none => .ok (s.setThread c t (th.setPair x.d.toNat 0))
    | some y =>
      let s1 := s.setThread c t (th.setPair x.d.toNat y.status)
      .ok (if free && y.over then s1.freeHandle th.ctx (th.reg x.a.toNat) else s1)) s

/-- LDL.STAT (R331). -/
def execLdlStat (x : DAArgs) (s : State) : Out := ldlStat x false s

/-- LDL.STAT.free (R331). -/
def execLdlStatFree (x : DAArgs) (s : State) : Out := ldlStat x true s

/-- Whether LDL.BASE may act on a channel for a block (R332). -/
def State.baseOk (s : State) (c ch : Nat) (b : Bid) : Bool :=
  let z := s.chan c ch
  (match z.owner with | some (l, k) => decide (l < 128) && !(s.stream l k).live | none => true) && (z.block == none || z.block == some b)

/-- LDL.BASE.bind (R332). -/
def execLdlBaseBind (x : LdlBaseArgs) (s : State) : Out :=
  runThread x.g (checked (spRI1 x.v) fun c t th s =>
    let ch := x.ch.toNat
    let ok := s.baseOk c ch th.bid
    let s1 := s.setThread c t (th.setPred x.pd.toNat ok)
    .ok (if ok then
        (s1.setChan c ch { s1.chan c ch with
          block := some th.bid, base := th.ri x.v &&& ~~~(15 : Word), wp := 0, slots := 0, rel := 0, err := false }).testChan c ch
      else s1)) s

/-- LDL.BASE.free (R332). -/
def execLdlBaseFree (x : LdlFreeArgs) (s : State) : Out :=
  runThread x.g (checked [] fun c t th s =>
    let ch := x.ch.toNat
    let ok := s.baseOk c ch th.bid
    let s1 := s.setThread c t (th.setPred x.pd.toNat ok)
    .ok (if ok then s1.setChan c ch { s1.chan c ch with block := none } else s1)) s

/-- A body that raises ILLEGAL_FIELD unless a channel is bound to the thread's block (R333, R334). -/
def onChan (ch : Nat) (body : Body) : Body := fun c t th s =>
  if (s.chan c ch).block == some th.bid then body c t th s else .error (Flt.plain fIllegalField)

/-- AWAIT (R333). -/
def execAwait (x : LdlBaseArgs) (s : State) : Out :=
  runThread x.g (onChan x.ch.toNat (checked (spRI1 x.v) fun c t th s =>
    .ok ((s.setThread c t { th with
      wsite := s.site c th, status := .blocked (.await x.ch.toNat (th.ri x.v) x.pd.toNat) }).testChan c x.ch.toNat))) s

/-- ARELS (R334): a release at `.blk`. -/
def execArels (x : ArelsArgs) (s : State) : Out :=
  runThread x.g (onChan x.ch.toNat (checked (spRI1 x.b) fun c t th s =>
    let n := (th.ri x.b).toNat
    holdOr (.arels x.ch.toNat n) (fun s => s.relSlots c x.ch.toNat n) c t th s)) s

end Sys2Proof.Machine
end

