-- ==== Sys2Proof/Machine/Fabric.lean ====
section
/-! DEFINITION. Remote loads, stores and atomics of threads, their service at the target, their responses (R343 to R351), the
forwarding of packets (R340), and the links of the ports (R338 to R342). -/

namespace Sys2Proof.Machine

/-! ## Thread instructions (R347, R348) -/

/-- The effective address of a remote operation (R201, R348). -/
def Thread.remoteEa (th : Thread) (a : GReg) (off : Int) : Dword := BitVec.ofInt 64 (effAddr .glb (th.baseOf .glb a) off)

/-- A remote operation of a thread: GENERAL only, and the read-modify-writes raise DET_SCOPE in deterministic mode (R347,
R349). -/
def remoteBody (ea : Thread → Dword) (det : Bool) (r : Thread → RemReq) (fl : Option Nat) (park : Bool) : Body :=
  needRole .general fun c t th s =>
    if det && s.det th then .error (Flt.acc fDetScope (remAcc (ea th) (r th).n (r th).kind))
    else remoteIssue (ea th) (r th) fl park c t th s

/-- RLD (R348, R349): the thread parks until the response. -/
def execRld (x : RldArgs) (s : State) : Out :=
  gated x.g true 6 fIllegalOp s fun s =>
    runThread x.g (checked [spT x.t x.d, sp2 x.a]
      (remoteBody (fun th => th.remoteEa x.a (Off.val x.off)) false
        (fun _ => { op := oRead, aop := 0, ty := x.t.code, order := if x.acq then .acq else .plain, opb := 0, opc := 0,
                    n := x.t.n / 8, kind := 0, dest := some (x.d.toNat, x.t) }) none true)) s

/-- RST (R348, R349). -/
def execRst (x : RstArgs) (s : State) : Out :=
  gated x.h.g true 6 fIllegalOp s fun s =>
    classL x.h [sp2 x.a, spT x.t x.b] (fun fl =>
      remoteBody (fun th => th.remoteEa x.a (Off.val x.off)) false
        (fun th => { op := oWrite, aop := 0, ty := x.t.code, order := if x.rel then .rel else .plain, opb := th.stData x.t x.b,
                     opc := 0, n := x.t.n / 8, kind := 1, dest := none }) fl false) s

/-- RATOM (R348, R349). -/
def execRatom (x : RatomArgs) (s : State) : Out :=
  gated x.h.g true 6 fIllegalOp s fun s =>
    classL x.h [spAtom x.op x.d, sp2 x.a, spAtom x.op x.b] (fun fl =>
      remoteBody (fun th => th.remoteEa x.a (Off.val x.off)) true
        (fun th => { op := oAtomic, aop := x.op.op, ty := x.op.ty, order := x.ord, opb := th.atomData x.op x.b, opc := 0,
                     n := x.op.n / 8, kind := 2, dest := some (x.d.toNat, atomType x.op) }) fl false) s

/-- RATOM.cas (R347, R348). -/
def execRatomCas (x : RatomCasArgs) (s : State) : Out :=
  gated x.h.g true 6 fIllegalOp s fun s =>
    classL x.h [spT x.t x.d, sp2 x.a, spT x.t x.b, spT x.t x.c] (fun fl =>
      remoteBody (fun th => th.remoteEa x.a 0) true
        (fun th => { op := oCas, aop := 0, ty := x.t.code, order := x.ord, opb := th.stData x.t x.b, opc := th.stData x.t x.c,
                     n := x.t.n / 8, kind := 2, dest := some (x.d.toNat, x.t) }) fl false) s

/-- RRED (R348, R349). -/
def execRred (x : RredArgs) (s : State) : Out :=
  gated x.h.g true 6 fIllegalOp s fun s =>
    classL x.h [sp2 x.a, spAtom x.op x.b] (fun fl =>
      remoteBody (fun th => th.remoteEa x.a (Off.val x.off)) true
        (fun th => { op := oReduce, aop := x.op.op, ty := x.op.ty, order := if x.rel then .rel else .plain,
                     opb := th.atomData x.op x.b, opc := 0, n := x.op.n / 8, kind := 2, dest := none }) fl false) s

/-- FLOWSEL.ord (R351). -/
def execFlowselOrd (x : Bare) (s : State) : Out :=
  runThread x.g (checked [] (needRole .general fun c t th s => .ok (s.setThread c t { th with unord := false }))) s

/-- FLOWSEL.unord (R351). -/
def execFlowselUnord (x : Bare) (s : State) : Out :=
  runThread x.g (needFeature true 11 fIllegalOp
    (checked [] (needRole .general fun c t th s => .ok (s.setThread c t { th with unord := true })))) s

/-! ## Packets that arrive (R340, R341) -/

/-- Counts an event of a packet that arrives at its port; a packet of the device itself arrives at none. -/
def State.countAtPort (s : State) (p : Packet) (i n : Nat) : State := if p.port.toNat < Config.nPorts then s.portBump p.port.toNat i n else s

/-- Sends a packet on from this device to another, or drops it where no route leads on (R340, R387). -/
def State.forward (s : State) (p : Packet) : State :=
  match s.choosePort p.dstdev with
  | none => s.countAtPort p 2 1
  | some n =>
    if (s.port n).fits p && s.fab.heldBack.all (fun e => !(e.1 == n && e.2.chan == p.chan)) then s.transmit n p
    else { s with fab := { s.fab with heldBack := s.fab.heldBack ++ [(n, p)] } }

/-- Sends a control flit on a port (R339, R416). -/
def State.sendCtl (s : State) (n : Nat) (f : Ctl) : State :=
  { s.portBump n 0 1 with fab := { s.fab with control := s.fab.control ++ [(n, f)] } }

/-- Whether a packet comes before the replay that its port has asked for. -/
def Port.early (x : Port) (p : Packet) : Bool :=
  match x.rxReplayOf with
  | some l => l != p.lseq
  | none => false

/-- A packet's flits come in at a port (R342, R416). -/
def State.countIn (s : State) (n : Nat) (p : Packet) : State :=
  let x := s.port n
  let c := p.chan.toNat
  (s.setPort n { x with rxFlits := x.rxFlits.set c (x.rxFlits.getD c 0 + p.flits) }).portBump n 1 p.flits

/-- A packet has arrived at a port (R341, R342): its flits are counted, and its LSEQ is acknowledged in a control flit. The sender replays from
the packet that failed, in order, so that one which comes before that replay is discarded: its copy follows (DEDUCED, log entry 92). -/
def State.arriveAt (s : State) (n : Nat) (p : Packet) : State :=
  let s1 := s.countIn n p
  if (s.port n).early p then s1
  else (s1.setPort n { s1.port n with rxSeq := p.lseq + 1, rxReplays := 0, rxReplayOf := none }).sendCtl n (.ack p.lseq)

/-- A packet arrives: from the device itself, or at a port, whose link sequence and counters move; an unsound one is dropped and
counted, one for another device is sent on, and `k` acts on the rest. A device without a FABID acts on heartbeats and notices
alone (R394); membership traffic waits for LOCK (R112; log entry 80). -/
def State.takeIn (s : State) (p : Packet) (k : State → State) : State :=
  let own := s.fab.loopback.contains p
  let port := decide (p.port.toNat < Config.nPorts)
  let s1 : State :=
    if own then { s with fab := { s.fab with loopback := s.fab.loopback.erase p } }
    else if port then s.arriveAt p.port.toNat p
    else s
  if !own && port && (s.port p.port.toNat).early p then s1
  else if !p.sound then s1.countAtPort p 2 1
  else if !s1.mayTalk p.kind then s1
  else if p.dstdev != s.tables.fabid then s1.forward p
  else if p.fcls == 3 && !s.dev.featLock then s1
  else k s1

/-- PACKET_FORWARD (R340). -/
def execPacketForward (p : Packet) (s : State) : Out := .next (s.takeIn p id)

/-! ## Service at the target (R344 to R349, R388) -/

end Sys2Proof.Machine

namespace Sys2Proof
open Sys2Proof.Machine

/-- The operation of a request. -/
def Packet.oper (p : Packet) : Nat := p.opcode.toNat % 256

def Packet.aop (p : Packet) : Nat := p.opcode.toNat / 256 % 16

def Packet.tcode (p : Packet) : Nat := p.opcode.toNat / 4096 % 16

/-- The bytes that a request accesses; 0 for a request that no instruction of R347 sends. -/
def Packet.size (p : Packet) : Nat :=
  let o := AtomOp.ofCodes p.aop p.tcode
  if p.oper = oRead || p.oper = oWrite then (if p.tcode < 8 then (IType.ofCode p.tcode).n / 8 else 0)
  else if p.oper = oAtomic then (if decide (p.aop ≤ 9) && atomOpWf true o then o.n / 8 else 0)
  else if p.oper = oReduce then (if decide (p.aop ≤ 9) && atomOpWf false o then o.n / 8 else 0)
  else if p.oper = oCas then (if decide (p.tcode < 8) && is3264 (IType.ofCode p.tcode) then (IType.ofCode p.tcode).n / 8 else 0)
  else 0

/-- The access kind of a request. -/
def Packet.accKind (p : Packet) : Nat := if p.oper = oRead then 0 else if p.oper = oWrite then 1 else 2

/-- The response to a request (R340). -/
def Packet.answer (p : Packet) (status v : Nat) : Packet :=
  { Packet.blank with
    kind := kResponse, chan := 1, fcls := p.fcls, dstdev := p.srcdev, srcdev := p.dstdev, pkey := p.pkey, seq := p.seq,
    srcctx := p.srcctx, tag := p.tag, opcode := BitVec.ofNat 32 status, opb := BitVec.ofNat 64 v }

end Sys2Proof

namespace Sys2Proof.Machine

/-- What serving a request gives: the status and value of its response; half `k` of a two-wide atomic with its old value; a wait; a
replayable miss; a page to be diverted. -/
inductive Served
  | answer (status v : Nat) (s : State)
  | half (k v : Nat) (s : State)
  | waits (s : State)
  | miss (ctx : Nat) (va : Dword) (entry : Nat)
  | divert (ctx : Nat) (va : Dword)

/-- The atomic that a request makes. -/
def reqAtom (p : Packet) : AtomOp := AtomOp.ofCodes p.aop p.tcode

/-- Performs a request on `n` bytes of device memory at its home slice (R349), of a two-wide atomic one half (R214); a target that holds
poison answers POISON (R221). -/
def State.performRequest (s : State) (e : Arrived) (pa n : Nat) : Served :=
  let p := e.pkt
  let rmw := p.oper == oAtomic || p.oper == oReduce
  let h := if rmw then nextHalf s.hiFirst (reqAtom p) (e.half.map Prod.fst) else none
  let a := pa + 2 * h.getD 0
  let m := if h.isSome then 2 else n
  let old := leNat (s.mem.readBytes a m)
  let s1 := s.l2Read a m
  let put (v : Nat) : State := s1.devWrite a (leBytes m v) [] false
  if p.oper = oWrite then .answer stOk 0 (s.devWrite pa (leBytes n p.opb.toNat) [] false)
  else if !(s.mem.badOffsets a m).isEmpty then .answer stPoison 0 s1
  else if p.oper = oRead then .answer stOk old s1
  else if p.oper = oCas then .answer stOk old (if old = p.opb.toNat % 2 ^ (8 * n) then put p.opc.toNat else s1)
  else
    let s2 := put (partNew (reqAtom p) h old (partVal h (p.opb.toNat % 2 ^ (8 * n))))
    match h, e.half with
    | some k, none => .half k old s2
    | some k, some d => .answer stOk (if p.oper = oAtomic then joinHalves k old d.2 else 0) s2
    | none, _ => .answer stOk (if p.oper = oAtomic then old else 0) s2

/-- The engine operations that a request does not wait for: one of the device's own thread those that the thread's operation does not (R237; log
entry 26). -/
def State.requestSkip (s : State) (p : Packet) : Skip :=
  if p.srcdev != s.tables.fabid then noSkip
  else
    match s.fab.pending.find? fun q => q.tag == p.tag.toNat with
    | none => noSkip
    | some q =>
      match (s.thread? q.core q.slot).bind fun th => th.ops.find? fun o => match o.kind with | .remote g _ _ _ => g == q.tag | _ => false with
      | some o => s.accessSkip q.core q.slot o
      | none => noSkip

/-- Serves a request (R346, R349, R378, R388): the key selects the context, and the leaf must hold EXP. -/
def State.serve (s : State) (e : Arrived) : Served :=
  let p := e.pkt
  match s.ingressOf p.pkey with
  | none => .answer stPerm 0 s
  | some i =>
    let n := p.size
    let va : Dword := i.exb + (p.offset.extractLsb' 0 38).setWidth 64
    let ctx := i.ctx
    if n = 0 || va.toNat % n ≠ 0 then .answer stPerm 0 s
    else if s.walkHeld ctx va then .waits (s.noteWalk ctx va)
    else
      match s.walk ctx va.toNat with
      | .poison _ => .answer stPoison 0 (s.walked ctx va)
      | .absent rpl ea => if rpl then .miss ctx va ea else .answer stAbsent 0 (s.walked ctx va)
      | .leaf l =>
        if !pteExp l.entry || !leafAdmits l.entry p.accKind then .answer stPerm 0 (s.walked ctx va)
        else if pteSnap l.entry && pteDiv l.entry == 0 && p.accKind != 0 then .divert ctx va
        else
          match leafTgt l va.toNat with
          | .dev pa =>
            if s.accessHeld (s.requestSkip p) noSkip (p.accKind != 0) pa n then .waits (s.noteRecall (s.requestSkip p) pa n)
            else (s.walked ctx va).performRequest e pa n
          | _ => .answer stPerm 0 (s.walked ctx va)

/-- Writes a notice's record at the next slot of the ring that its packet names, in the window of the context that its key selects
(R366; log entry 41). -/
def State.landNotice (s : State) (p : Packet) : Served :=
  match s.ingressOf p.pkey with
  | none => .answer stPerm 0 s
  | some e =>
    let slots := 2 ^ (p.opb.toNat % 32)
    let n := FMap.getD s.fab.mbxNext p.pkey.toNat 0
    let va : Dword := e.exb + (p.offset.extractLsb' 0 38).setWidth 64 + BitVec.ofNat 64 (32 * (n % slots))
    if s.walkHeld e.ctx va then .waits (s.noteWalk e.ctx va)
    else
    match s.walk e.ctx va.toNat with
    | .poison _ => .answer stPoison 0 (s.walked e.ctx va)
    | .absent rpl ea => if rpl then .miss e.ctx va ea else .answer stAbsent 0 (s.walked e.ctx va)
    | .leaf l =>
      if !pteExp l.entry || !leafAdmits l.entry 1 then .answer stPerm 0 (s.walked e.ctx va)
      else if pteSnap l.entry && pteDiv l.entry == 0 then .divert e.ctx va
      else
        match leafTgt l va.toNat with
        | .dev pa =>
          if s.agentHeld true pa 32 then .waits (s.noteRecall noSkip pa 32)
          else
            .answer stOk 0
              ({ s.walked e.ctx va with fab := { s.fab with mbxNext := FMap.put s.fab.mbxNext p.pkey.toNat (n + 1) } }.devWrite pa (p.data.take 32) [] false)
        | _ => .answer stPerm 0 s

/-- A notice that has landed, or that has failed and is counted (R366). -/
def State.endNotice (s : State) (p : Packet) (status : Nat) : State :=
  let s1 := { s with fab := { s.fab with reorder := s.fab.reorder.filter fun (e : Arrived) => e.pkt != p } }
  if status = stOk then s1 else s1.countAtPort p 2 1

/-- The sequence number that an ordered flow expects. -/
def State.expected (s : State) (p : Packet) : BitVec 24 :=
  ((s.fab.expect.find? fun e => e.1 == (p.srcdev, p.srcctx)).map Prod.snd).getD 0

/-- Whether a request may be acted on now: unordered flows at once, ordered flows in sequence (R344). -/
def State.inTurn (s : State) (p : Packet) : Bool := p.fcls != 0 || p.seq == s.expected p

/-- Whether a request belongs to the flow and sequence number of an answer. -/
def Answered.of (a : Answered) (p : Packet) : Bool :=
  a.src == p.srcdev && a.sctx == p.srcctx && a.fcls == p.fcls && a.seq == p.seq

/-- Answers a request, keeps the answer for repeats, and lets an ordered flow go on; answers half a sequence space old are
forgotten (R345). -/
def State.answerRequest (s : State) (p : Packet) (status v : Nat) : State :=
  let r := p.answer status v
  let old (a : Answered) : Bool :=
    a.src == p.srcdev && a.sctx == p.srcctx && a.fcls == p.fcls && decide (2 ^ 23 ≤ (p.seq - a.seq).toNat)
  let kept := s.fab.answered.filter fun a => !old a
  let ex :=
    if p.fcls = 0 then ((p.srcdev, p.srcctx), p.seq + 1) :: s.fab.expect.filter (fun e => e.1 != (p.srcdev, p.srcctx))
    else s.fab.expect
  let f : Fabric :=
    { s.fab with
      reorder := s.fab.reorder.filter (fun (e : Arrived) => e.pkt != p), expect := ex,
      answered := { src := p.srcdev, sctx := p.srcctx, fcls := p.fcls, seq := p.seq, resp := r } :: kept }
  ({ s with fab := f } : State).sendPacket r

/-- Changes the record of a request or notice that has arrived. -/
def State.mapArrived (s : State) (p : Packet) (f : Arrived → Arrived) : State :=
  { s with fab := { s.fab with reorder := s.fab.reorder.map fun x => if x.pkt == p then f x else x } }

/-- Tries one request, or notice, that has arrived: none when it must still wait; the flag says that a half of a two-wide atomic has been
performed, after which other operations may come (R214). A replayable miss sends its request to Lantern 0 once (R379). -/
def State.tryRequest (s : State) (e : Arrived) : Option (Bool × State) :=
  if !s.inTurn e.pkt then none
  else
    match if e.pkt.kind == kNotice then s.landNotice e.pkt else s.serve e with
    | .answer st v s1 => some (false, if e.pkt.kind == kNotice then s1.endNotice e.pkt st else s1.answerRequest e.pkt st v)
    | .half k v s1 => some (true, s1.mapArrived e.pkt fun x => { x with half := some (k, v) })
    | .waits s1 => if s1.recalls == s.recalls then none else some (false, s1)
    | .divert ctx va =>
      let s1 := (s.walked ctx va).noteDivert 0 (if e.pkt.kind == kNotice then 1 else e.pkt.accKind) ctx va
      if s1.tables.diverts == s.tables.diverts then none else some (false, s1)
    | .miss ctx va ea =>
      if e.missed then none
      else
        some (false, ((s.walked ctx va).mapArrived e.pkt fun x => { x with missed := true }).requestReplay 0 false
          (if e.pkt.kind == kNotice then 1 else e.pkt.accKind) ctx va ea)

/-- Tries the requests that have arrived until none makes progress, or one has performed its first half. -/
def State.serveRequests (s : State) : Nat → State
  | 0 => s
  | n + 1 =>
    match s.fab.reorder.findSome? s.tryRequest with
    | some (true, s1) => s1
    | some (false, s1) => State.serveRequests s1 n
    | none => s

/-- A request or notice waits to be performed, and is tried. -/
def State.takeRequest (s : State) (p : Packet) : State :=
  let e : Arrived := { pkt := p, missed := false, half := none }
  let s1 : State := { s with fab := { s.fab with reorder := s.fab.reorder ++ [e] } }
  s1.serveRequests (3 * s1.fab.reorder.length)

/-- REMOTE_REQUEST (R345, R349): a request is acted on once for each sequence number, and a repeat gets the first response. -/
def execRemoteRequest (p : Packet) (s : State) : Out :=
  .next (s.takeIn p fun s =>
    if p.kind != kRequest || decide (1 < p.fcls.toNat) then s
    else
      match s.fab.answered.find? fun a => a.of p with
      | some a => s.sendPacket a.resp
      | none =>
        if p.fcls = 0 && decide (2 ^ 23 ≤ (p.seq - s.expected p).toNat) then s
        else if s.fab.reorder.any (fun e => e.pkt.srcdev == p.srcdev && e.pkt.srcctx == p.srcctx && e.pkt.fcls == p.fcls && e.pkt.seq == p.seq) then s
        else s.takeRequest p)

/-! ## Responses (R345, R350) -/

/-- The fault code of a failed remote operation (R350); none for OK and DUP. -/
def failCode (status : Nat) : Option Nat :=
  if status = stOk || status = stDup then none
  else if status = stPerm then some fXlatePerm
  else if status = stAbsent then some fXlateAbsent
  else some fDataPoison

/-- A copy that a core's L1 holds of a line that a remote access of it has met is dropped: a later read must not be older (R227). -/
def State.dropMet (s : State) (c : Nat) : Option (Tgt × Nat) → State
  | some (.dev pa, _) => s.setCore c { s.core c with l1 := FMap.del (s.core c).l1 (pa / 64) }
  | _ => s

/-- A response, or the timeout, ends the remote operation with a tag (R349, R350). -/
def State.endRemote (s : State) (tag status : Nat) (v : Nat) : State :=
  match s.fab.pending.find? fun q => q.tag == tag with
  | none => s
  | some q =>
    let s1 := { s with fab := { s.fab with pending := s.fab.pending.filter fun x => x.tag != tag } }
    match s1.thread? q.core q.slot with
    | none => s1
    | some th =>
      match th.ops.find? (fun o => match o.kind with | .remote g _ _ _ => g == tag | _ => false) with
      | none => s1
      | some o =>
        let acq : State := if o.kind.acquire then s1.l1Invalidate q.core else s1.dropMet q.core o.kind.place
        if th.status == .parked (.rld tag) then
          match failCode status with
          | none =>
            let th1 := (th.retire o).setInt o.kind.landType (BitVec.ofNat 8 (o.kind.dest.getD 0)) v
            ((acq.setThread q.core q.slot th1).wake q.core q.slot).after q.core [q.slot]
          | some code =>
            ((s1.setThread q.core q.slot { th.retire o with status := .ready }).takeFault q.core q.slot
              (Flt.acc code o.acc) th.wsite).after q.core [q.slot]
        else
          match failCode status with
          | none => (acq.setThread q.core q.slot (th.finishOp o (some v))).after q.core [q.slot]
          | some code => (s1.setThread q.core q.slot (th.failOp o code 0)).after q.core [q.slot]

/-- REMOTE_RESPONSE (R350). -/
def execRemoteResponse (p : Packet) (s : State) : Out :=
  .next (s.takeIn p fun s =>
    if p.kind != kResponse || decide (1 < p.fcls.toNat) then s
    else s.endRemote p.tag.toNat (p.opcode.toNat % 256) p.opb.toNat)

/-- REQUEST_RESEND (R345): the same SEQ and TAG, on any path, against the key's entry and rate (R346, R388). -/
def execRequestResend (tag : Word) (s : State) : Out :=
  match s.fab.pending.find? fun q => q.tag == tag.toNat with
  | some q => .next (if s.egressOk q.pkt.srcctx.toNat q.pkt.dstdev then s.sendRated q.pkt.srcctx.toNat q.pkt else s)
  | none => .next s

/-! ## Links (R338, R341, R342) -/

/-- Whether a port number exists. -/
def portOk (n : Nat) : Bool := decide (n < Config.nPorts)

/-- LINK_ACK (R341): packets up to one are acknowledged, their flits are credited, and increases of R342 may take effect. -/
def Port.ack (x : Port) (lseq : BitVec 12) : Port :=
  match x.unacked.findIdx? fun p => p.lseq == lseq with
  | none => x
  | some i =>
    let done := x.unacked.take (i + 1)
    let used := done.foldl (fun u p => u.set p.chan.toNat (u.getD p.chan.toNat 0 - p.flits)) x.inUse
    let again := done.any fun p => x.replayOf == some p.lseq
    { x with unacked := x.unacked.drop (i + 1), inUse := used, replays := if again then 0 else x.replays,
             replayOf := if again then none else x.replayOf }

/-- Whether the flits of every channel whose limit an announcement decreased stand at or below it. -/
def Port.settled (x : Port) : Bool :=
  (List.range 3).all fun c => decide (x.limits.getD c 0 < x.target.getD c 0) || decide (x.inUse.getD c 0 ≤ x.target.getD c 0)

/-- Applies the announced limits: decreases at once, increases once the decreased channels stand at or below theirs (R342). -/
def Port.applyLimits (x : Port) : Port :=
  if x.settled then { x with limits := x.target }
  else { x with limits := (List.range 3).map fun c => min (x.limits.getD c 0) (x.target.getD c 0) }

def execLinkAck (n : Nat) (lseq : BitVec 12) (s : State) : Out :=
  if !portOk n then .next s else .next ((s.setPort n ((s.port n).ack lseq).applyLimits).portBump n 1 1).flushHeld

/-- A link is lost (R341): its packets in flight are lost. -/
def State.loseLink (s : State) (n : Nat) : State :=
  let x := s.port n
  if x.trained then s.setPort n { Port.reset with lost := true } else s

/-- LINK_LOSS (R341). -/
def execLinkLoss (n : Nat) (s : State) : Out := if portOk n then .next (s.loseLink n) else .next s

/-- Counts a replay of a packet: the count of consecutive replays of the same packet before it. -/
def replayCount (of_ : Option (BitVec 12)) (n : Nat) (lseq : BitVec 12) : Nat := if of_ = some lseq then n + 1 else 0

/-- The receiver of a port discards a packet and requests a replay from its LSEQ in a control flit (R341). -/
def State.askReplay (s : State) (n : Nat) (lseq : BitVec 12) : State :=
  let x := s.port n
  let k := replayCount x.rxReplayOf x.rxReplays lseq
  if lseq != x.rxSeq then s
  else if 8 ≤ k then s.loseLink n
  else
    ((s.setPort n { x with rxReplayOf := some lseq, rxReplays := k }).portBump n 4 1).sendCtl n (.replay lseq)

/-- The sender of a port replays from a packet in order (R341). -/
def State.sendReplay (s : State) (n : Nat) (lseq : BitVec 12) : State :=
  let x := s.port n
  let k := replayCount x.replayOf x.replays lseq
  if 8 ≤ k then s.loseLink n
  else
    let s1 := s.setPort n { x with replayOf := some lseq, replays := k }
    match x.unacked.findIdx? fun p => p.lseq == lseq with
    | none => s1
    | some i =>
      let again := x.unacked.drop i
      ({ s1 with fab := { s1.fab with outbox := s1.fab.outbox ++ again } } : State).portBump n 0 ((again.map Packet.flits).foldl (· + ·) 0)

/-- LINK_REPLAY (R341): a packet that fails 8 consecutive replays loses the link. -/
def execLinkReplay (n : Nat) (lseq : BitVec 12) (sender : Bool) (s : State) : Out :=
  if !portOk n || !(s.port n).trained then .next s
  else .next (if sender then (s.sendReplay n lseq).portBump n 1 1 else s.askReplay n lseq)

/-- The limits that R342 gives for the flits received. -/
def lendLimits (u0 u1 u2 : Nat) : List Nat :=
  let sum := u0 + u1 + u2
  if sum = 0 then [166, 165, 165]
  else
    let f (u : Nat) := 400 * u / sum
    [32 + f u0 + (400 - (f u0 + f u1 + f u2)), 32 + f u1, 32 + f u2]

/-- LEND_INTERVAL (R342): the receiver divides its buffer by the flits received in the interval, which the event names, and announces it
in a control flit under the next EPOCH; an event that names other counts is none. -/
def execLendInterval (n u0 u1 u2 : Nat) (s : State) : Out :=
  let x := s.port n
  if !portOk n || !x.trained || x.rxFlits != [u0, u1, u2] then .next s
  else
    let l := lendLimits u0 u1 u2
    .next (((s.setPort n { x with annc := l, rxEpoch := x.rxEpoch + 1, rxFlits := [0, 0, 0] }).portBump n 5 1).sendCtl n
      (.lend (x.rxEpoch + 1) l))

/-- LEND_ANNOUNCEMENT (R342): a later EPOCH is applied, any other ignored. -/
def execLendAnnouncement (n : Nat) (epoch l0 l1 l2 : Half) (s : State) : Out :=
  let x := s.port n
  let d := (epoch - x.txEpoch).toNat
  if !portOk n || !x.trained then .next s
  else
    let s1 := s.portBump n 1 1
    if d = 0 || decide (2 ^ 15 ≤ d) then .next s1
    else .next (s1.setPort n ({ x with txEpoch := epoch, target := [l0.toNat, l1.toNat, l2.toNat] } : Port).applyLimits).flushHeld

/-- EGRESS_RATE_RELEASE (R388): the bucket of a context allows traffic again, and what was held at issue tries again. -/
def State.rateFree (s : State) (ctx : Nat) : State :=
  let s0 := s.refill ctx
  s0.cores.foldl (fun s e =>
    e.2.threads.foldl (fun s t => if t.2.ctx = ctx ∧ t.2.status = .parked .rate then s.wake e.1 t.1 else s) s) s0

end Sys2Proof.Machine
end

