-- ==== Sys2Proof/Machine/Integer.lean ====
section
/-! DEFINITION. The meanings of the integer, address, compare, move, logic, shift and bit-field instructions (R122 to R140)
and of NOP (R89). -/

namespace Sys2Proof.Machine

/-! ## Shapes -/

/-- d, a, b with an exact integer result narrowed to the type (R126). -/
def intOp (x : Alu3Args) (f : Int → Int → Int) (s : State) : Out :=
  aluExec x.g (spT x.t x.d :: spT x.t x.a :: spSrc x.t x.b)
    (fun th => th.setInt x.t x.d (narrow x.t x.sat (f (th.int x.t x.a) (th.srcInt x.t x.b)))) s

/-- d, a, b with a bitwise result (R134). -/
def bitOp (x : Alu3Args) (f : Nat → Nat → Nat) (s : State) : Out :=
  aluExec x.g (spT x.t x.d :: spT x.t x.a :: spSrc x.t x.b)
    (fun th => th.setInt x.t x.d (f (th.bitsOf x.t x.a) (wrap x.t.n (th.srcInt x.t x.b)))) s

/-- d, a and an amount (R137). -/
def shiftOp (g : BitVec 4) (t : IType) (d a : GReg) (b : Src) (f : Nat → Nat → Nat) (s : State) : Out :=
  aluExec g (spT t d :: spT t a :: spAmount b) (fun th => th.setInt t d (f (th.bitsOf t a) (th.amount b))) s

/-- d, a with a result of the type (R126, R139). -/
def unOp (x : UnArgs) (f : Thread → Nat) (s : State) : Out :=
  aluExec x.g [spT x.t x.d, spT x.t x.a] (fun th => th.setInt x.t x.d (f th)) s

/-- d, a with a one-register result (R139). -/
def countOp (x : UnArgs) (f : Nat → Nat) (s : State) : Out :=
  aluExec x.g [sp1 x.d, spT x.t x.a] (fun th => th.setReg x.d.toNat (BitVec.ofNat 32 (f (th.bitsOf x.t x.a)))) s

/-! ## Values -/

/-- The quotient of R128. -/
def divOf (t : IType) (a b : Int) : Int :=
  if b = 0 then 2 ^ t.n - 1 else a.tdiv b

/-- The remainder of R128. -/
def remOf (a b : Int) : Int := if b = 0 then a else a.tmod b

/-- A ÷ 2^s rounded down; a signed A fills from its sign bit (R137). -/
def shrOf (t : IType) (a s : Nat) : Nat := wrap t.n (asInt t a / 2 ^ (min s 64))

/-- Rotation left by s places (R137). -/
def rotlOf (n a s : Nat) : Nat := (a * 2 ^ (s % n) + a / 2 ^ (n - s % n)) % 2 ^ n

def popcOf (a : Nat) : Nat → Nat
  | 0 => 0
  | n + 1 => popcOf a n + (a.testBit n).toNat

/-- Zeros above the highest one, from bit n − 1 down (R139). -/
def clzOf (a : Nat) : Nat → Nat
  | 0 => 0
  | n + 1 => if a.testBit n then 0 else clzOf a n + 1

/-- Bit i of the result is bit w − 1 − i, for the lowest n bits (R139). -/
def brevOf (a w : Nat) : Nat → Nat
  | 0 => 0
  | n + 1 => brevOf a w n + (if a.testBit (w - 1 - n) then 2 ^ n else 0)

/-- The field of BFE, extended by the type's signedness (R138). -/
def bfeOf (t : IType) (a p len : Nat) : Nat :=
  let f := a / 2 ^ p % 2 ^ len
  if t.signed && f.testBit (len - 1) then f + 2 ^ t.n - 2 ^ len else f

/-- The result of BFI (R138). -/
def bfiOf (a b p len : Nat) : Nat := a - a / 2 ^ p % 2 ^ len * 2 ^ p + b % 2 ^ len * 2 ^ p

/-- One result byte of BSEL from its selector (R140). -/
def bselByte (src : Dword) (sel : Byte) : Byte :=
  let b : Byte := BitVec.ofNat 8 (src.toNat / 2 ^ (8 * (sel.toNat % 8)))
  match (sel.extractLsb' 3 2).toNat with
  | 0 => b
  | 1 => 0
  | 2 => 0xFF
  | _ => if b.getLsbD 7 then 0xFF else 0

def bselOf (a b c : Word) : Word :=
  bselByte (b ++ a) (c.extractLsb' 24 8) ++ (bselByte (b ++ a) (c.extractLsb' 16 8) ++
    (bselByte (b ++ a) (c.extractLsb' 8 8) ++ bselByte (b ++ a) (c.extractLsb' 0 8)))

/-- The device's rank in the active bank, or all ones (R98, R386). -/
def State.rank (s : State) : Word :=
  if s.tables.fabid = 0xFFFF then 0xFFFFFFFF
  else
    match List.find? (fun e => e.2 == s.tables.fabid) s.tables.rankAct with
    | some e => BitVec.ofNat 32 e.1
    | none => 0xFFFFFFFF

/-- A special register's value (R98, R133). -/
def State.special (s : State) (c : Nat) (th : Thread) : SReg → Word
  | .tid => BitVec.ofNat 32 th.tid
  | .lane => BitVec.ofNat 32 th.lane
  | .crew => BitVec.ofNat 32 th.crew
  | .blkx => th.blkx
  | .blky => th.blky
  | .blkz => th.blkz
  | .core => BitVec.ofNat 32 c
  | .clu => BitVec.ofNat 32 (c / 16)
  | .twin => BitVec.ofNat 32 (c / 2)
  | .ctx => BitVec.ofNat 32 th.ctx
  | .rank => s.rank
  | .gen => s.tables.gen.setWidth 32

/-! ## Meanings -/

/-- NOP (R89). -/
def execNop (x : NopArgs) (s : State) : Out := aluExec x.g [] id s

/-- IADD (R126). -/
def execIadd (x : Alu3Args) (s : State) : Out := intOp x (fun a b => a + b) s

/-- ISUB (R126). -/
def execIsub (x : Alu3Args) (s : State) : Out := intOp x (fun a b => a - b) s

/-- IMUL (R126). -/
def execImul (x : Alu3Args) (s : State) : Out := intOp x (fun a b => a * b) s

/-- IMULH (R127): the high half of the exact product. -/
def execImulh (x : Alu3Args) (s : State) : Out := intOp x (fun a b => a * b / 2 ^ x.t.n) s

/-- IMAD (R126). -/
def execImad (x : ImadArgs) (s : State) : Out :=
  aluExec x.g (spT x.t x.d :: spT x.t x.a :: spT x.t x.b :: spSrc x.t x.c)
    (fun th => th.setInt x.t x.d (narrow x.t x.sat (th.int x.t x.a * th.int x.t x.b + th.srcInt x.t x.c))) s

/-- IDIV (R128). -/
def execIdiv (x : Alu3Args) (s : State) : Out := intOp x (divOf x.t) s

/-- IREM (R128). -/
def execIrem (x : Alu3Args) (s : State) : Out := intOp x remOf s

/-- IMIN (R126). -/
def execImin (x : Alu3Args) (s : State) : Out := intOp x (fun a b => if a ≤ b then a else b) s

/-- IMAX (R126). -/
def execImax (x : Alu3Args) (s : State) : Out := intOp x (fun a b => if a ≤ b then b else a) s

/-- IABS (R126). -/
def execIabs (x : UnArgs) (s : State) : Out :=
  unOp x (fun th => narrow x.t x.sat ((th.int x.t x.a).natAbs : Int)) s

/-- LEA (R129). -/
def execLea (x : LeaArgs) (s : State) : Out :=
  aluExec x.g (sp2 x.d :: sp2 x.a :: spSrc x.t x.b)
    (fun th => th.setPair x.d.toNat
      (BitVec.ofInt 64 (((th.pair x.a.toNat).toNat : Int) + th.srcInt x.t x.b * 2 ^ x.k.toNat))) s

/-- ICMP (R130). -/
def execIcmp (x : IcmpArgs) (s : State) : Out :=
  aluExec x.g (spT x.t x.a :: spSrc x.t x.b)
    (fun th => th.setPred x.pd.toNat (iCond x.c (th.int x.t x.a) (th.srcInt x.t x.b))) s

/-- ISEL (R131). -/
def execIsel (x : IselArgs) (s : State) : Out :=
  aluExec x.g [spT x.t x.d, spT x.t x.a, spT x.t x.b]
    (fun th => th.setInt x.t x.d (if th.psrc x.p then th.bitsOf x.t x.a else th.bitsOf x.t x.b)) s

/-- MOV (R132). -/
def execMov (x : UnArgs) (s : State) : Out := unOp x (fun th => th.bitsOf x.t x.a) s

/-- MOVI (R132). -/
def execMovi (x : MoviArgs) (s : State) : Out :=
  aluExec x.g [match x.v with | .n32 _ => sp1 x.d | _ => sp2 x.d]
    (fun th => match x.v with
      | .n32 v => th.setReg x.d.toNat v
      | .n64 v => th.setPair x.d.toNat (v.setWidth 64)
      | .i64 v => th.setPair x.d.toNat (v.signExtend 64)
      | .n64w v => th.setPair x.d.toNat v
      | .i64w v => th.setPair x.d.toNat v) s

/-- MOVS (R133). -/
def execMovs (x : MovsArgs) (s : State) : Out :=
  runThread x.g (checked [sp1 x.d] fun c t th s => .ok (s.setThread c t (th.setReg x.d.toNat (s.special c th x.r)))) s

/-- AND (R134). -/
def execAnd (x : Alu3Args) (s : State) : Out := bitOp x (fun a b => a &&& b) s

/-- OR (R134). -/
def execOr (x : Alu3Args) (s : State) : Out := bitOp x (fun a b => a ||| b) s

/-- XOR (R134). -/
def execXor (x : Alu3Args) (s : State) : Out := bitOp x (fun a b => a ^^^ b) s

/-- LUT3 (R135). -/
def execLut3 (x : Lut3Args) (s : State) : Out :=
  let t : IType := if x.wide then .n64 else .n32
  aluExec x.g [spT t x.d, spT t x.a, spT t x.b, spT t x.c]
    (fun th => th.setInt t x.d (lutBits x.table (th.bitsOf t x.a) (th.bitsOf t x.b) (th.bitsOf t x.c) t.n)) s

/-- PLUT (R136). -/
def execPlut (x : PlutArgs) (s : State) : Out :=
  aluExec x.g []
    (fun th => th.setPred x.pd.toNat (tableBit x.table (th.psrc x.p1) (th.psrc x.p2) (th.psrc x.p3))) s

/-- SHL (R137). -/
def execShl (x : Alu3Args) (s : State) : Out :=
  shiftOp x.g x.t x.d x.a x.b (fun a k => if x.t.n ≤ k then 0 else a * 2 ^ k % 2 ^ x.t.n) s

/-- SHR (R137). -/
def execShr (x : Alu3Args) (s : State) : Out := shiftOp x.g x.t x.d x.a x.b (shrOf x.t) s

/-- ROT (R137). -/
def execRot (x : RotArgs) (s : State) : Out :=
  shiftOp x.g x.t x.d x.a x.b
    (fun a k => rotlOf x.t.n a (if x.right then x.t.n - k % x.t.n else k)) s

/-- BFE (R138). -/
def execBfe (x : BfeArgs) (s : State) : Out :=
  aluExec x.g [spT x.t x.d, spT x.t x.a]
    (fun th => th.setInt x.t x.d (bfeOf x.t (th.bitsOf x.t x.a) x.p.toNat (x.len1.toNat + 1))) s

/-- BFI (R138). -/
def execBfi (x : BfiArgs) (s : State) : Out :=
  aluExec x.g [spT x.t x.d, spT x.t x.a, spT x.t x.b]
    (fun th => th.setInt x.t x.d (bfiOf (th.bitsOf x.t x.a) (th.bitsOf x.t x.b) x.p.toNat (x.len1.toNat + 1))) s

/-- POPC (R139). -/
def execPopc (x : UnArgs) (s : State) : Out := countOp x (fun a => popcOf a x.t.n) s

/-- CLZ (R139). -/
def execClz (x : UnArgs) (s : State) : Out := countOp x (fun a => clzOf a x.t.n) s

/-- BREV (R139). -/
def execBrev (x : UnArgs) (s : State) : Out := unOp x (fun th => brevOf (th.bitsOf x.t x.a) x.t.n x.t.n) s

/-- BSEL (R140). -/
def execBsel (x : BselArgs) (s : State) : Out :=
  aluExec x.g [sp1 x.d, sp1 x.a, sp1 x.b, sp1 x.c]
    (fun th => th.setReg x.d.toNat (bselOf (th.reg x.a.toNat) (th.reg x.b.toNat) (th.reg x.c.toNat))) s

end Sys2Proof.Machine
end

