-- ==== Sys2Proof/Machine/Carillon.lean ====
section
/-! DEFINITION. Carillon collectives and membership fences (R352 to R364): COLL and MFENCE, the exchange of chunks, their fold, the
completion and the abort of operations; and CLASS_L_COMPLETION (R401). -/

namespace Sys2Proof.Machine

/-! ## Descriptors (R353, R355) -/

/-- Little-endian fields of a block of bytes. -/
def fieldAt (bs : List Byte) (off n : Nat) : Nat := leNat ((bs.drop off).take n)

def cdescOf (bs : List Byte) : CDesc :=
  let w := fieldAt bs 0x10 8
  { src := BitVec.ofNat 64 (fieldAt bs 0 8), dst := BitVec.ofNat 64 (fieldAt bs 8 8), outtok := w % 65536, etype := w / 2 ^ 16 % 16,
    rop := w / 2 ^ 20 % 4, window := w / 2 ^ 24 % 64 + 1, chunk := w / 2 ^ 32 % 65536, groupid := w / 2 ^ 48,
    axes := (List.range 4).map fun i => fieldAt bs (0x18 + 2 * i) 2, group := BitVec.ofNat 64 (fieldAt bs 0x20 8),
    shape := (List.range 4).map fun i => fieldAt bs (0x28 + 4 * i) 4,
    sshard := (List.range 4).map fun d => fieldAt bs 0x38 8 / 2 ^ (4 * d) % 16, spart := fieldAt bs 0x38 8 / 2 ^ 16 % 16,
    dshard := (List.range 4).map fun d => fieldAt bs 0x40 8 / 2 ^ (4 * d) % 16, dpart := fieldAt bs 0x40 8 / 2 ^ 16 % 16,
    rperm := BitVec.ofNat 64 (fieldAt bs 0x48 8) }

def prod (l : List Nat) : Nat := l.foldl (· * ·) 1

/-- The number of members. -/
def CDesc.n (d : CDesc) : Nat := prod d.axes

def CDesc.axis (d : CDesc) (x : Nat) : Nat := d.axes.getD x 1

/-- Bytes of an element. -/
def CDesc.es (d : CDesc) : Nat := if d.etype = 1 ∨ d.etype = 2 then 2 else 4

/-- The product of the sizes of the axes in a mask. -/
def CDesc.split (d : CDesc) (mask : Nat) : Nat := prod (((List.range 4).filter fun x => mask.testBit x).map d.axis)

/-- The sizes of a shard under a layout. -/
def CDesc.local (d : CDesc) (shard : List Nat) : List Nat := (List.range 4).map fun k => d.shape.getD k 1 / d.split (shard.getD k 0)

/-- Where an axis stands in a layout: partial, the dimensions that it shards, or neither. -/
inductive Stand
  | part | shard (k : Nat) | free | twice
  deriving DecidableEq, Repr

def standOf (shard : List Nat) (part x : Nat) : Stand :=
  match (List.range 4).filter (fun k => (shard.getD k 0).testBit x), part.testBit x with
  | [], true => .part
  | [], false => .free
  | [k], false => .shard k
  | _, _ => .twice

/-- The exchange of R355 along an axis. -/
def exchangeOf (d : CDesc) (x : Nat) : Option Exch :=
  match standOf d.sshard d.spart x, standOf d.dshard d.dpart x with
  | .twice, _ | _, .twice => none
  | .part, .part => some .keep
  | .part, .free => some .allReduce
  | .part, .shard k => some (.reduceScatter k)
  | .shard k, .free => some (.allGather k)
  | .shard k, .shard e => some (if k = e then .keep else .allToAll k e)
  | .free, .shard k => some (.slice k)
  | .free, .free => some .keep
  | _, .part => none

/-- The phases in ascending axis number, axes without an exchange left out; none where an axis fits no row. -/
def phasesOf (d : CDesc) : Option (List Phase) :=
  match (List.range 4).mapM (exchangeOf d) with
  | none => none
  | some es =>
    let ps := (es.mapIdx fun x e => ({ axis := x, ex := e } : Phase)).filter fun p => p.ex != .keep
    if d.rperm = 0 then some ps else if ps.isEmpty then some [{ axis := 0, ex := .permute }] else none

/-- The fields of a descriptor in range (step 2 of R354). -/
def descOk (d : CDesc) (bs : List Byte) : Bool :=
  let w := fieldAt bs 0x10 8
  let one (lo hi v : Nat) := decide (lo ≤ v) && decide (v ≤ hi)
  (decide (d.outtok < 4096) || d.outtok == 0xFFFF) && [0, 1, 2, 8, 9].contains d.etype && decide (d.rop ≤ 2) && one 1 256 d.chunk &&
    w / 2 ^ 22 % 4 == 0 && w / 2 ^ 30 % 4 == 0 && d.axes.all (one 1 8192) && one 1 8192 d.n && d.shape.all (fun v => decide (1 ≤ v)) &&
    fieldAt bs 0x38 8 / 2 ^ 20 == 0 && fieldAt bs 0x40 8 / 2 ^ 20 == 0 && (bs.drop 0x50).all (· == 0) &&
    (List.range 4).all (fun k => d.shape.getD k 1 % d.split (d.sshard.getD k 0) == 0 && d.shape.getD k 1 % d.split (d.dshard.getD k 0) == 0)

/-- The coordinate of a mesh position on an axis, and the position with another coordinate there. -/
def CDesc.stride (d : CDesc) (x : Nat) : Nat := prod ((List.range x).map d.axis)
def CDesc.coord (d : CDesc) (pos x : Nat) : Nat := pos / d.stride x % d.axis x
def CDesc.with (d : CDesc) (pos x j : Nat) : Nat := pos - d.coord pos x * d.stride x + j * d.stride x

/-! ## The elements that a position holds (R353, R355) -/

/-- The size of the blocks into which axis `y` splits dimension `k` under a layout: an axis splits major-first in ascending axis
number. -/
def CDesc.unit (d : CDesc) (shard : List Nat) (k y : Nat) : Nat := d.shape.getD k 1 / d.split (shard.getD k 0 % 2 ^ (y + 1))

/-- Whether a position holds index `i` of dimension `k` when the exchanges along the axes below `x` are done and the others are not:
an axis that only the source layout gives the dimension cuts it until its exchange, one that only the destination layout
gives it cuts it from its exchange on, and one that both give it cuts it as in the source. -/
def CDesc.keeps (d : CDesc) (x pos k i : Nat) : Bool :=
  (List.range 4).all fun y =>
    let s := (d.sshard.getD k 0).testBit y
    let t := (d.dshard.getD k 0).testBit y
    if s && (t || decide (x ≤ y)) then i / d.unit d.sshard k y % d.axis y == d.coord pos y
    else if t && !s && decide (y < x) then i / d.unit d.dshard k y % d.axis y == d.coord pos y
    else true

/-- The elements that a position then holds, as numbers in the global array, in address order. -/
def CDesc.held (d : CDesc) (x pos : Nat) : List Nat :=
  let size (k : Nat) := d.shape.getD k 1
  let ix (k : Nat) := (List.range (size k)).filter (d.keeps x pos k)
  let i0 := ix 0
  let i1 := ix 1
  let i2 := ix 2
  (ix 3).flatMap fun l3 => i2.flatMap fun l2 => i1.flatMap fun l1 => i0.map fun l0 => ((l3 * size 2 + l2) * size 1 + l1) * size 0 + l0

/-- Whether a position holds the element of a number. -/
def CDesc.has (d : CDesc) (x pos e : Nat) : Bool :=
  let size (k : Nat) := d.shape.getD k 1
  d.keeps x pos 0 (e % size 0) && d.keeps x pos 1 (e / size 0 % size 1) && d.keeps x pos 2 (e / (size 0 * size 1) % size 2) &&
    d.keeps x pos 3 (e / (size 0 * size 1 * size 2))

/-- A block cut into `n` elements of `es` bytes. -/
def elems (es : Nat) : Nat → Shard → List Shard
  | 0, _ => []
  | n + 1, bs => bs.take es :: elems es n (bs.drop es)

/-- A block with the number of each of its elements. -/
def CDesc.named (d : CDesc) (ns : List Nat) (bs : Shard) : List (Nat × Shard) := ns.zip (elems d.es ns.length bs)

/-- The bytes of named elements. -/
def shardOf (l : List (Nat × Shard)) : Shard := l.flatMap Prod.snd

/-- Two lists of named elements in rising number made one. -/
def mergeNamed : Nat → List (Nat × Shard) → List (Nat × Shard) → List (Nat × Shard)
  | 0, _, _ => []
  | _ + 1, [], l => l
  | _ + 1, l, [] => l
  | n + 1, a :: as, b :: bs => if a.1 ≤ b.1 then a :: mergeNamed n as (b :: bs) else b :: mergeNamed n (a :: as) bs

/-- Whether an axis of more than one position that shards a dimension in both layouts has other blocks there in the destination, because an
axis of lower number enters or leaves the dimension: R355 gives that axis no exchange, and no exchange along the other axis brings the
members their shards, so the values of DST are free (log entry 81). -/
def CDesc.moved (d : CDesc) : Bool :=
  (List.range 4).any fun k => (List.range 4).any fun y =>
    (d.sshard.getD k 0).testBit y && (d.dshard.getD k 0).testBit y && d.axis y != 1 && d.unit d.sshard k y != d.unit d.dshard k y

/-! ## Chunks (R357) -/

/-- Bytes of a chunk. -/
def CDesc.cbytes (d : CDesc) : Nat := 256 * d.chunk

def nChunks (len c : Nat) : Nat := (len + c - 1) / c

/-- The chunk index: the phase in [31:30], whether it is a root's result in [29], the number in the phase's data below. -/
def chunkId (phase : Nat) (result : Bool) (c : Nat) : Nat := phase * 2 ^ 30 + result.toNat * 2 ^ 29 + c

def idPhase (id : Nat) : Nat := id / 2 ^ 30
def idResult (id : Nat) : Bool := id.testBit 29
def idNum (id : Nat) : Nat := id % 2 ^ 29

/-- Chunk `c` of a block. -/
def chunkOf (bs : Shard) (size c : Nat) : Shard := (bs.drop (c * size)).take size

/-- The length of chunk `c` of `len` bytes. -/
def chunkLen (len size c : Nat) : Nat := min size (len - c * size)

def Coll.devAt (o : Coll) (pos : Nat) : Half := o.devs.getD pos noFabid

/-- The device at a coordinate of the phase's axis. -/
def Coll.peer (o : Coll) (p : Phase) (j : Nat) : Half := o.devAt (o.desc.with o.pos p.axis j)

def Coll.me (o : Coll) (p : Phase) : Nat := o.desc.coord o.pos p.axis

/-- The mesh position at a coordinate of the phase's axis. -/
def Coll.posOf (o : Coll) (p : Phase) (j : Nat) : Nat := o.desc.with o.pos p.axis j

/-- What coordinate `j` of a phase holds before it, of what coordinate `i` holds after it. -/
def Coll.passed (o : Coll) (p : Phase) (j i : Nat) : List Nat :=
  (o.desc.held p.axis (o.posOf p j)).filter (o.desc.has (p.axis + 1) (o.posOf p i))

/-- The part of this member's data that coordinate `i` holds after the phase. -/
def Coll.part (o : Coll) (p : Phase) (i : Nat) : Shard :=
  shardOf ((o.desc.named (o.desc.held p.axis o.pos) o.data).filter fun e => o.desc.has (p.axis + 1) (o.posOf p i) e.1)

/-- The position that sends to a position under RPERM. -/
def Coll.from (o : Coll) : Nat := (o.perm.findIdx? (· == o.pos)).getD o.pos

/-- The chunks that a member must receive in phase `k`: sending device, index, length. -/
def Coll.expects (o : Coll) (k : Nat) : List (Half × Nat × Nat) :=
  match o.phases[k]? with
  | none => []
  | some p =>
    let m := o.desc.axis p.axis
    let i := o.me p
    let size := o.desc.cbytes
    let len := o.desc.es * (o.desc.held p.axis o.pos).length
    let others := (List.range m).filter (· ≠ i)
    let block (j : Nat) : List (Half × Nat × Nat) :=
      let n := o.desc.es * (o.passed p j i).length
      (List.range (nChunks n size)).map fun c => (o.peer p j, chunkId k false c, chunkLen n size c)
    match p.ex with
    | .allReduce =>
      (List.range (nChunks len size)).flatMap fun c =>
        if c % m = i then others.map fun j => (o.peer p j, chunkId k false c, chunkLen len size c)
        else [(o.peer p (c % m), chunkId k true c, chunkLen len size c)]
    | .reduceScatter _ | .allToAll _ _ | .allGather _ => others.flatMap block
    | .permute => if o.from = o.pos then [] else (List.range (nChunks len size)).map fun c =>
        (o.devAt o.from, chunkId k false c, chunkLen len size c)
    | .slice _ | .keep => []

/-- The chunks that a member sends as a phase begins. -/
def Coll.sends (o : Coll) : List SentChunk :=
  match o.phases[o.phase]? with
  | none => []
  | some p =>
    let m := o.desc.axis p.axis
    let i := o.me p
    let size := o.desc.cbytes
    let others := (List.range m).filter (· ≠ i)
    let chunks (bs : Shard) (dev : Half) : List SentChunk :=
      (List.range (nChunks bs.length size)).map fun c =>
        { dev := dev, id := chunkId o.phase false c, bytes := chunkOf bs size c, acked := false }
    match p.ex with
    | .allReduce => (chunks o.data 0).filterMap fun x =>
        if idNum x.id % m = i then none else some { x with dev := o.peer p (idNum x.id % m) }
    | .reduceScatter _ | .allGather _ | .allToAll _ _ => others.flatMap fun j => chunks (o.part p j) (o.peer p j)
    | .permute => if o.perm.getD o.pos o.pos = o.pos then [] else chunks o.data (o.devAt (o.perm.getD o.pos o.pos))
    | .slice _ | .keep => []

/-- Bytes of a packet's data at most (R339). -/
def pieceBytes : Nat := 512

/-- A chunk received whole: its bytes. -/
def Coll.whole (o : Coll) (dev : Half) (id len : Nat) : Option Shard :=
  ((List.range (nChunks len pieceBytes)).mapM fun i =>
    (o.got.find? fun g => g.dev == dev && g.id == id && g.off == i * pieceBytes).map fun g => g.bytes).map fun l => l.flatten.take len

/-! ## The fold (R358) -/

/-- One step of the fold of two elements. -/
def foldElem (etype rop a b : Nat) : Nat :=
  let signed := etype = 8
  let t : IType := if signed then .i32 else .n32
  let f : Fmt := if etype = 0 then .f32 else if etype = 1 then .f16 else .bf16
  if etype = 8 ∨ etype = 9 then
    if rop = 0 then (a + b) % 2 ^ 32
    else if rop = 1 then (if asInt t a ≤ asInt t b then b else a)
    else (if asInt t a ≤ asInt t b then a else b)
  else if rop = 0 then fAdd .f32 .rn false a b
  else fMinMax f (rop == 1) a b

/-- The fold of the values of one element in ascending position: sums of 16-bit formats are widened first and rounded at the end. -/
def foldValues (etype rop : Nat) (vs : List Nat) : Nat :=
  let f : Fmt := if etype = 1 then .f16 else .bf16
  if rop = 0 ∧ (etype = 1 ∨ etype = 2) then
    match vs.map fun v => roundRne (toReal f v) .f32 with
    | [] => 0
    | w :: ws => roundRne (toReal .f32 (ws.foldl (foldElem 0 0) w)) f
  else
    match vs with
    | [] => 0
    | w :: ws => ws.foldl (foldElem etype rop) w

/-- The fold of equal-length contributions; an element is poisoned when one of its contributions is (R220). -/
def foldShards (d : CDesc) (parts : List Shard) : Shard :=
  let len := (parts.map List.length).foldl max 0
  (List.range (len / d.es)).flatMap fun e =>
    let col := parts.map fun p => (p.drop (e * d.es)).take d.es
    let bad := col.any fun c => c.any Prod.snd
    (leBytes d.es (foldValues d.etype d.rop (col.map fun c => leNat (c.map Prod.fst)))).map fun b => (b, bad)

/-! ## The progress of an operation (R357) -/

/-- The contributions of every coordinate to chunk `c` of a reduction, this member's own among them; none while one is
missing. -/
def Coll.contributions (o : Coll) (p : Phase) (own : Shard) (c len : Nat) : Option (List Shard) :=
  (List.range (o.desc.axis p.axis)).mapM fun j =>
    if j = o.me p then some (chunkOf own o.desc.cbytes c) else o.whole (o.peer p j) (chunkId o.phase false c) len

/-- Folds the chunks of an all-reduce whose root is here and whose contributions have arrived, and queues the results. -/
def Coll.foldRoots (o : Coll) (p : Phase) (me : Half) : Coll :=
  let m := o.desc.axis p.axis
  let len := o.data.length
  (List.range (nChunks len o.desc.cbytes)).foldl (fun o c =>
    if c % m ≠ o.me p ∨ (o.whole me (chunkId o.phase true c) (chunkLen len o.desc.cbytes c)).isSome then o
    else
      match o.contributions p o.data c (chunkLen len o.desc.cbytes c) with
      | none => o
      | some parts =>
        let r := foldShards o.desc parts
        let id := chunkId o.phase true c
        let pieces : List GotChunk := (List.range (nChunks r.length pieceBytes)).map fun i =>
          { dev := me, id := id, off := i * pieceBytes, bytes := chunkOf r pieceBytes i }
        let out : List SentChunk := ((List.range m).filter (· ≠ o.me p)).map fun j =>
          { dev := o.peer p j, id := id, bytes := r, acked := false }
        { o with got := o.got ++ pieces, unsent := o.unsent ++ out }) o

/-- The data after a phase, when everything that it needs has arrived. -/
def Coll.result (o : Coll) (p : Phase) (me : Half) : Option Shard :=
  let m := o.desc.axis p.axis
  let i := o.me p
  let size := o.desc.cbytes
  let len := o.data.length
  let gather : Option Shard :=
    ((List.range m).mapM fun j =>
      let ns := o.passed p j i
      if j = i then some (o.desc.named ns (o.part p i))
      else
        let n := o.desc.es * ns.length
        ((List.range (nChunks n size)).mapM fun c => o.whole (o.peer p j) (chunkId o.phase false c) (chunkLen n size c)).map fun l =>
          o.desc.named ns l.flatten).map fun parts =>
      shardOf (parts.foldl (fun acc l => mergeNamed (acc.length + l.length) acc l) [])
  match p.ex with
  | .keep => some o.data
  | .slice _ => some (o.part p i)
  | .allReduce =>
    ((List.range (nChunks len size)).mapM fun c =>
      o.whole (if c % m = i then me else o.peer p (c % m)) (chunkId o.phase true c) (chunkLen len size c)).map List.flatten
  | .reduceScatter _ =>
    let own := o.part p i
    ((List.range (nChunks own.length size)).mapM fun c =>
      (o.contributions p own c (chunkLen own.length size c)).map (foldShards o.desc)).map List.flatten
  | .allGather _ | .allToAll _ _ => gather
  | .permute =>
    if o.from = o.pos then some o.data
    else ((List.range (nChunks len size)).mapM fun c =>
      o.whole (o.devAt o.from) (chunkId o.phase false c) (chunkLen len size c)).map List.flatten

/-- A phase begins: its chunks are queued. -/
def Coll.begin (o : Coll) : Coll := { o with unsent := o.unsent ++ o.sends }

/-- Carries an operation through every phase that it can complete, `fuel` phases at most. -/
def Coll.advance (o : Coll) (me : Half) : Nat → Coll
  | 0 => o
  | n + 1 =>
    match o.phases[o.phase]? with
    | none => o
    | some p =>
      let o1 := if p.ex = .allReduce then o.foldRoots p me else o
      match o1.result p me with
      | none => o1
      | some r =>
        let kept := o1.got.filter fun g => decide (o.phase < idPhase g.id)
        Coll.advance ({ o1 with
          data := r, phase := o.phase + 1, got := kept } : Coll).begin me n

/-- Whether every phase is done. -/
def Coll.ready (o : Coll) : Bool := o.fired && decide (o.phases.length ≤ o.phase)

/-! ## Sending chunks (R357) -/

def State.coll? (s : State) (k : Nat) : Option Coll := FMap.find? s.fab.colls k

def State.setColl (s : State) (k : Nat) (o : Coll) : State := { s with fab := { s.fab with colls := FMap.put s.fab.colls k o } }

/-- Frees an operation slot. -/
def State.freeColl (s : State) (k : Nat) : State := { s with fab := { s.fab with colls := FMap.del s.fab.colls k } }

/-- The poison of a piece, one bit for each 4 bytes. -/
def poisonMask (bs : Shard) : Nat :=
  ((List.range (nChunks bs.length 4)).map fun i => if (chunkOf bs 4 i).any Prod.snd then 2 ^ i else 0).foldl (· + ·) 0

/-- The packets of a chunk. -/
def State.chunkPackets (s : State) (o : Coll) (x : SentChunk) : List Packet :=
  (List.range (nChunks x.bytes.length pieceBytes)).map fun i =>
    let bs := chunkOf x.bytes pieceBytes i
    let data := bs.map Prod.fst
    let flits := (data.length + 63) / 64
    { Packet.blank with
      kind := kChunk, dcount := BitVec.ofNat 4 flits, chan := 2, fcls := 2, dstdev := x.dev, srcdev := s.tables.fabid,
      pkey := (s.egress o.ctx).pkey, gen := o.gen, srcctx := BitVec.ofNat 6 o.ctx, offset := BitVec.ofNat 64 (i * pieceBytes),
      opb := BitVec.ofNat 64 (poisonMask bs), opc := BitVec.ofNat 64 (poisonMask bs / 2 ^ 64), opnum := BitVec.ofNat 32 o.opnum,
      chunk := BitVec.ofNat 32 x.id, groupid := BitVec.ofNat 16 o.desc.groupid,
      data := data ++ List.replicate (64 * flits - data.length) 0 }

/-- Sends a request of a flow with its next sequence number (R343). -/
def State.sendFlow (s : State) (ctx cls : Nat) (p : Packet) : State :=
  let f := s.flowNext p.dstdev ctx cls
  (f.2.charge ctx (64 * p.flits)).sendPacket { p with seq := f.1 }

/-- Sends a chunk. -/
def State.sendChunk (s : State) (o : Coll) (x : SentChunk) : State :=
  (s.chunkPackets o x).foldl (fun s p => s.sendFlow o.ctx 2 p) s

/-- The packets' bytes of a chunk. -/
def chunkCost (x : SentChunk) : Nat := ((List.range (nChunks x.bytes.length pieceBytes)).map fun i =>
  64 + 64 * (((chunkOf x.bytes pieceBytes i).length + 63) / 64)).foldl (· + ·) 0

/-- Whether a context's operations are stopped by a pre-emption or a kill (R361). -/
def State.stopped (s : State) (ctx : Nat) : Bool := !s.runs ctx

/-- Sends the chunks that the window and the egress bucket of the context admit; a stopped context sends none (R32, R361). -/
def State.sendChunks (s : State) (k : Nat) : Nat → State
  | 0 => s
  | n + 1 =>
    match s.coll? k with
    | none => s
    | some o =>
      match o.unsent with
      | [] => s
      | x :: xs =>
        let out := (o.sent.filter fun y => !y.acked && idPhase y.id == idPhase x.id).length
        if s.stopped o.ctx || o.desc.window ≤ out || !s.egressOk o.ctx x.dev || s.rateHolds o.ctx (chunkCost x) then s
        else State.sendChunks ((s.setColl k { o with unsent := xs, sent := o.sent ++ [x] }).sendChunk o x) k n

/-- Advances an operation and sends what it may. -/
def State.pumpColl (s : State) (k : Nat) : State :=
  match s.coll? k with
  | none => s
  | some o =>
    if !o.fired || s.stopped o.ctx then s
    else
      let o1 := o.advance s.tables.fabid (o.phases.length + 1)
      (s.setColl k o1).sendChunks k (o1.unsent.length + 1)

/-- Frees the slot of an operation that has completed and has nothing left unacknowledged (R357). -/
def State.reapColl (s : State) (k : Nat) : State :=
  match s.coll? k with
  | some o => if o.finished && o.unsent.isEmpty && o.sent.all (·.acked) then s.freeColl k else s
  | none => s

/-! ## The issuer's flag (R354, R360) -/

/-- The operation in flight of a thread that stands for a collective. -/
def Thread.collOp (th : Thread) (k id : Nat) : Option Op :=
  th.ops.find? fun o => match o.kind with | .coll a b _ => a == k && b == id | _ => false

/-- Clears the flag in a thread's record, of a completed operation with the acquire of R239 for the join of a clause that waits on it; a
status that has not landed lands by itself. -/
def Thread.collDone (th : Thread) (k id : Nat) (acquire : Bool) : Thread :=
  match th.collOp k id with
  | none => th
  | some o =>
    match o.kind with
    | .coll _ _ (some d) => (th.mapOp o.uid fun _ => .land d .n32 0).flagAcq o.flag acquire
    | _ => (th.retire o).flagAcq o.flag acquire

/-- Changes the threads of saved blocks, in save areas, after a discard, or ahead in their launches. -/
def State.mapSaved (s : State) (f : Saved → Saved) : State :=
  { s with
    saves := FMap.mapVal s.saves (fun (a : SaveArea) => { a with blocks := a.blocks.map f }),
    discards := FMap.mapVal s.discards (fun (vs : List Saved) => vs.map f),
    launches := s.launches.map fun l => { l with again := l.again.map fun a => (a.1, a.2.map f) } }

/-- Whether some saved block satisfies `p`. -/
def State.anySaved (s : State) (p : Saved → Bool) : Bool :=
  s.saves.any (fun e => e.2.blocks.any p) || s.discards.any (fun e => e.2.any p) || s.launches.any fun l => l.again.any fun a => a.2.any p

/-- Clears the flag of an operation's COLL wherever its thread stands, in a core or in a save. -/
def State.collClear (s : State) (k : Nat) (o : Coll) (acquire : Bool) : State :=
  let s1 : State :=
    s.cores.foldl (fun s e =>
      e.2.threads.foldl (fun s t =>
        if (t.2.collOp k o.opId).isSome then (s.setThread e.1 t.1 (t.2.collDone k o.opId acquire)).after e.1 [t.1] else s) s) s
  s1.mapSaved fun v => { v with threads := v.threads.map fun t => (t.1, t.2.1, t.2.2.collDone k o.opId acquire) }

/-! ## Free bytes for what is undefined (R360, R363) -/

/-- The bytes of DST are undefined: those of its pages that a write reaches take free values (log entry 5). -/
def State.scramble (s : State) (ctx : Nat) (va : Dword) (n : Nat) : Nat → State
  | 0 => s
  | fuel + 1 =>
    if n = 0 then s
    else
      let len := min n (65536 - va.toNat % 65536)
      let s1 : State :=
        match s.translate ctx va 1 with
        | .ok (.dev pa) => { s.devWrite pa ((List.range len).map fun i => Config.freeByte (s.fresh + i)) [] false with fresh := s.fresh + len }
        | .ok (.host pa) =>
          { s with hostMem := s.hostMem.write pa ((List.range len).map fun i => Config.freeByte (s.fresh + i)), fresh := s.fresh + len }
        | _ => s
      State.scramble s1 ctx (va + BitVec.ofNat 64 len) (n - len) fuel

/-- An operation ends at this member without completing: its flag clears, its DST bytes are undefined, its slot is free, and chunks for
it are no more acknowledged. -/
def State.endColl (s : State) (k : Nat) (o : Coll) : State :=
  let s1 := (s.freeColl k).collClear k o false
  let x := s1.ctx o.ctx
  let s2 := s1.setCtx o.ctx
    { x with tokq := x.tokq.filter (fun e => e.2 != .coll k), failed := (o.desc.groupid, o.opnum) :: x.failed }
  s2.scramble o.ctx o.desc.dst o.dstLen (o.dstLen / 65536 + 2)

/-! ## COLL (R352 to R356, R363) -/

/-- What an agent's outcome means for a read of COLL at issue: a value, a wait, a miss, or status 0x8000_0001. -/
inductive CollRes
  | status (v : Word) (s : State)
  | wait (s : State)
  | miss (va : Dword) (entry : Nat)

def collErr (n : Nat) : Word := 0x80000000 + BitVec.ofNat 32 n

/-- A read of `n` bytes at issue: poison and failures give status 0x8000_0001. -/
def State.collRead (s : State) (ctx : Nat) (va : Dword) (n : Nat) (f : List Byte → State → CollRes) : CollRes :=
  match s.agentRead ctx va n with
  | .ok (bs, bad, s1) => if bad.isEmpty then f bs s1 else .status (collErr 1) s1
  | .held s1 => .wait s1
  | .miss v e => .miss v e
  | .divert v | .fail v _ => .status (collErr 1) (s.walked ctx v)

/-- The 32-bit words of a byte string. -/
def words32 (bs : List Byte) : List Nat := (List.range (bs.length / 4)).map fun i => fieldAt bs (4 * i) 4

/-- Whether every position is named once. -/
def isPerm (n : Nat) (l : List Nat) : Bool := l.all (fun v => decide (v < n)) && (List.range n).all fun i => l.contains i

/-- Takes a slot for an accepted operation, and its input tokens where each has a count (steps 6 and 7 of R354, R356, R359). -/
def State.takeColl (s : State) (c t : Nat) (th : Thread) (uid : Nat) (toks : List Nat) (d : CDesc) (ranks perm : List Nat)
    (ps : List Phase) : CollRes :=
  let devs := ranks.map s.deviceAt
  match ranks.findIdx? (· == s.rank.toNat) with
  | none => .status (collErr 4) s
  | some pos =>
    if !devs.all (fun v => (v.map (s.egressOk th.ctx)).getD false) then .status (collErr 4) s
    else
      match (List.range Config.collSlots).find? fun k => (s.coll? k).isNone with
      | none => .status (collErr 5) s
      | some k =>
        let x := s.ctx th.ctx
        let num := FMap.getD x.opnum d.groupid 0
        let o : Coll :=
          { opId := uid, ctx := th.ctx, core := c, slot := t, bid := th.bid, gen := s.tables.gen, opnum := num, desc := d,
            srcLen := d.es * prod (d.local d.sshard), dstLen := d.es * prod (d.local d.dshard), devs := devs.map (·.getD noFabid),
            perm := perm, pos := pos, toks := toks, phases := ps, phase := 0, data := [], parts := [], unsent := [], sent := [],
            got := [], fired := false, finished := false, stalled := none }
        let q := match toks with | [] => x.tokq | a :: _ => x.tokq ++ [(a, .coll k)]
        .status 0 (((s.setColl k o).setCtx th.ctx
          { x with opnum := FMap.put x.opnum d.groupid ((num + 1) % 2 ^ 32), tokq := q }).serveTokens th.ctx (q.length + 1))

/-- The acceptance of a COLL, step by step (R354). -/
def State.acceptColl (s : State) (c t : Nat) (th : Thread) (uid : Nat) (a : Dword) (toks : List Nat) : CollRes :=
  s.collRead th.ctx a 128 fun bs s =>
    let d := cdescOf bs
    let ok (v : Dword) : Bool := canonical v && !inAperture v
    if !ok d.src || !ok d.dst then .status (collErr 1) s
    else if !descOk d bs then .status (collErr 2) s
    else
      s.collRead th.ctx d.group (4 * d.n) fun gs s =>
        let rest (perm : List Nat) (s : State) : CollRes :=
          if !(perm.isEmpty || isPerm d.n perm) then .status (collErr 2) s
          else
            match phasesOf d with
            | none => .status (collErr 3) s
            | some ps => s.takeColl c t th uid toks d (words32 gs) perm ps
        if d.rperm = 0 then rest [] s else s.collRead th.ctx d.rperm (4 * d.n) fun ps s => rest (words32 ps) s

/-- The input tokens of a COLL. -/
def collToks (x : CollArgs) : List Half := [x.t0, x.t1, x.t2, x.t3]

def tokNats (l : List Half) : List Nat := (l.filter (· != 0xFFFF)).map BitVec.toNat

/-- The slot that the collective with a number took. -/
def State.collSlotOf (s : State) (uid : Nat) : Nat := ((List.find? (fun (e : Nat × Coll) => e.2.opId == uid) s.fab.colls).map Prod.fst).getD 0

/-- What stands for a COLL in its thread once its status is known: the operation of a flagged COLL that was accepted, else the
status alone. -/
def State.collKind (s : State) (uid : Nat) (flag : Option Nat) (d : Nat) (v : Word) : OpKind :=
  if v = 0 && flag.isSome then .coll (s.collSlotOf uid) uid (some d) else .land d .n32 v.toNat

/-- COLL (R352, R354): a descriptor that is not aligned to 64 bytes raises MISALIGNED (R436); while a membership fence is pending
the COLL waits (R363). -/
def execColl (x : CollArgs) (s : State) : Out :=
  gated x.h.g true 7 fIllegalOp s fun s =>
    classL x.h [sp1 x.d, sp2 x.a] (fun fl =>
      needRole .general (fun c t th s =>
        let a := th.pair x.a.toNat
        let acc : Acc := { space := .glb, scope := .dev, ea := a, size := 6, kind := 0 }
        let wait : OpKind := .collWait x.d.toNat a (collToks x) none
        if a.toNat % 64 ≠ 0 then .error (Flt.acc fMisaligned acc)
        else if s.fab.fence.isSome then .ok (s.issueOp c t th fl wait acc)
        else
          match s.acceptColl c t th s.uid a (tokNats (collToks x)) with
          | .status v s1 => .ok (s1.issueOp c t th fl (s1.collKind s.uid fl x.d.toNat v) acc)
          | .wait s1 => .ok ((s.withRecalls s1).issueOp c t th fl wait acc)
          | .miss va e => .ok (s.parkMiss c t th va 0 e (s.site c th)))) s

/-- A COLL that waits at Carillon misses a replayable translation: the request is sent once, and the issuing thread parks where it stands
at a clause header (R354). -/
def State.collMiss (s : State) (c t : Nat) (th : Thread) (o : Op) (va : Dword) (entry : Nat) : State :=
  match o.kind with
  | .collWait d a toks missed =>
    let s1 := if missed = some va then s else (s.walked th.ctx va).requestReplay (s.lanternOf th.bid) false 0 th.ctx va entry
    let th1 := th.mapOp o.uid fun _ => .collWait d a toks (some va)
    if th.status = .ready && th.crun.isNone then s1.parkAt c t th1 (.xlate va 0) (s.site c th) else s1.setThread c t th1
  | _ => s

/-- A COLL that waits at Carillon is accepted (R363). -/
def State.retryColl (s : State) (c t : Nat) (th : Thread) (o : Op) : State :=
  match o.kind with
  | .collWait d a toks _ =>
    if s.fab.fence.isSome then s
    else
      match s.acceptColl c t th o.uid a (tokNats toks) with
      | .status v s1 => (s1.mapThread c t fun th => th.mapOp o.uid fun _ => s1.collKind o.uid o.flag d v).after c [t]
      | .wait s1 => s.withRecalls s1
      | .miss va e => s.collMiss c t th o va e
  | _ => s

/-- The same for an operation of a thread, if both still stand. -/
def State.retryAt (s : State) (c t uid : Nat) : State :=
  match s.thread? c t with
  | some th => (match th.ops.find? fun o => o.uid == uid with | some o => s.retryColl c t th o | none => s)
  | none => s

/-! ## The start and the completion (R359, R360) -/

/-- An access of an operation: a miss or a page to be diverted stalls it, a failure ends it with XLATE_ENGINE (R360). -/
def State.collAccess {α : Type} (s : State) (k : Nat) (o : Coll) (kind : Nat) (r : ARes α) (f : α → State) : State :=
  match r with
  | .ok a => f a
  | .held s1 => s.withRecalls s1
  | .miss va e => ((s.walked o.ctx va).setColl k { o with stalled := some va }).requestReplay (s.lanternOf o.bid) false kind o.ctx va e
  | .divert va => ((s.walked o.ctx va).setColl k { o with stalled := some va }).noteDivert (s.lanternOf o.bid) kind o.ctx va
  | .fail va _ => ((s.walked o.ctx va).recordFault o.ctx fXlateEngine o.core o.slot false va).endColl k o

/-- Whether an operation's input tokens have been taken, as the counts were served (R359), and its issuer has performed what comes
before it (R238). -/
def State.canFire (s : State) (o : Coll) : Bool := o.toks.isEmpty && s.issuerClear o.core o.slot o.bid o.opId

/-- COLL_FIRE (R359, R360): SRC is read at its home slices, and the first phase begins. -/
def execCollFire (k : Nat) (s : State) : Out :=
  match s.coll? k with
  | none => .next s
  | some o =>
    if o.fired || o.stalled.isSome || s.stopped o.ctx || !s.canFire o then .next s
    else
      .next (s.collAccess k o 0 (s.readFor (engineSkip o.opId) o.ctx o.desc.src o.srcLen) fun r =>
        let data : Shard := r.1.mapIdx fun i b => (b, r.2.1.contains i)
        (r.2.2.setColl k ({ o with fired := true, data := data } : Coll).begin).pumpColl k)

/-- What an operation writes to DST: its data, or free values where R355 leads to no shard (log entry 81). -/
def State.collData (s : State) (o : Coll) : Shard :=
  if o.desc.moved then (List.range o.dstLen).map fun i => (Config.freeByte (s.fresh + i), false) else o.data.take o.dstLen

/-- Writes `n` bytes of what an operation writes to DST, from an offset on. -/
def State.collStore (s : State) (o : Coll) (data : Shard) (off n : Nat) : ARes State :=
  let w := (data.drop off).take n
  let bad := (List.range w.length).filter fun i => ((w[i]?).map Prod.snd).getD false
  s.writeFor (engineSkip o.opId) o.ctx (o.desc.dst + BitVec.ofNat 64 off) (w.map Prod.fst) bad false

/-- The aligned 8-byte part `k` of DST: its offset and its length (R228). -/
def Coll.partAt (o : Coll) (k : Nat) : Nat × Nat :=
  let a := o.desc.dst.toNat % 8
  (8 * k - a, min (8 * (k + 1) - a) o.dstLen - (8 * k - a))

/-- Writes those of some parts that are not written yet. -/
def State.collRest (s : State) (o : Coll) (data : Shard) : List Nat → ARes State
  | [] => .ok s
  | k :: ks =>
    let p := o.partAt k
    if o.parts.contains k || p.2 = 0 then State.collRest s o data ks
    else
      match s.collStore o data p.1 p.2 with
      | .ok s1 => State.collRest s1 o data ks
      | r => r

/-- Writes what is left of DST. -/
def State.collWrite (s : State) (o : Coll) (data : Shard) : ARes State :=
  if o.parts.isEmpty then s.collStore o data 0 o.dstLen else s.collRest o data (List.range (o.dstLen / 8 + 2))

/-- Whether an operation may write DST. -/
def State.collWrites (s : State) (o : Coll) : Bool := o.ready && !o.finished && o.stalled.isNone && !s.stopped o.ctx

/-- Writes a part of DST ahead of the others (R228). -/
def State.collPartTurn (s0 : State) (k i : Nat) : State :=
  let s := s0.pumpColl k
  match s.coll? k with
  | none => s
  | some o =>
    let p := o.partAt i
    if !s.collWrites o || o.parts.contains i || p.2 = 0 then s
    else
      s.collAccess k o 1 (s.collStore o (s.collData o) p.1 p.2) fun s1 =>
        { s1 with fresh := s1.fresh + o.dstLen }.setColl k { o with parts := i :: o.parts }

/-- COLL_COMPLETION (R360): DST is written at `.dev`, then OUTTOK is emitted and the flag clears. -/
def execCollCompletion (k : Nat) (s0 : State) : Out :=
  let s := s0.pumpColl k
  match s.coll? k with
  | none => .next s
  | some o =>
    if !s.collWrites o then .next s
    else
      .next (s.collAccess k o 1 (s.collWrite o (s.collData o)) fun s1 =>
        let s2 := { s1 with fresh := s1.fresh + o.dstLen }.setColl k { o with finished := true, data := [], got := [] }
        let s3 := if o.desc.outtok = 0xFFFF then s2 else s2.tokenAdd o.ctx o.desc.outtok
        ((s3.collClear k o true).reapColl k))

/-! ## Chunks and acknowledgements (R357, R362) -/

/-- The live operation that a packet's key, group and number select. -/
def State.collOf (s : State) (ctx : Nat) (p : Packet) : Option (Nat × Coll) :=
  List.find? (fun (e : Nat × Coll) => e.2.ctx == ctx && e.2.desc.groupid == p.groupid.toNat && e.2.opnum == p.opnum.toNat) s.fab.colls

/-- Acknowledges a chunk under the context's key, against its rate (R346, R357). -/
def State.ackChunk (s : State) (ctx : Nat) (p : Packet) : State :=
  if !s.egressOk ctx p.srcdev then s
  else
    s.sendRated ctx
      { Packet.blank with
        kind := kResponse, chan := 1, fcls := 2, dstdev := p.srcdev, srcdev := s.tables.fabid, pkey := (s.egress ctx).pkey,
        gen := p.gen, srcctx := BitVec.ofNat 6 ctx, opcode := BitVec.ofNat 32 stOk, opnum := p.opnum, chunk := p.chunk,
        groupid := p.groupid }

/-- A piece of a chunk as it arrives. -/
def pieceOf (p : Packet) (n : Nat) : Shard :=
  let mask := p.opb.toNat + 2 ^ 64 * p.opc.toNat
  (p.data.take n).mapIdx fun i b => (b, mask.testBit (i / 4))

/-- CHUNK_RECEIVE (R357, R362): a chunk is dropped where its key selects no context or its generation differs; else it is staged once,
acknowledged when it is whole, and the operation goes on. A chunk of an operation that has completed here is acknowledged again; one of an
operation that ended without completing is not (R360). -/
def execChunkReceive (p : Packet) (s : State) : Out :=
  .next (s.takeIn p fun s =>
    if p.kind != kChunk then s
    else
      match s.ingressOf p.pkey with
      | none => s.countAtPort p 2 1
      | some e =>
        if p.gen != s.tables.gen then s.countAtPort p 3 1
        else
          match s.collOf e.ctx p with
          | none =>
            let begun := FMap.getD (s.ctx e.ctx).opnum p.groupid.toNat 0
            if p.opnum.toNat < begun && !(s.ctx e.ctx).failed.contains (p.groupid.toNat, p.opnum.toNat) then s.ackChunk e.ctx p else s
          | some (k, o) =>
            let id := p.chunk.toNat
            let off := p.offset.toNat
            match (o.expects (idPhase id)).find? fun x => x.1 == p.srcdev && x.2.1 == id with
            | none => s
            | some (_, _, len) =>
              if o.finished || decide (idPhase id < o.phase) then s.ackChunk e.ctx p
              else if off % pieceBytes ≠ 0 || len ≤ off then s
              else
                let have_ := o.got.any fun g => g.dev == p.srcdev && g.id == id && g.off == off
                let piece : GotChunk := { dev := p.srcdev, id := id, off := off, bytes := pieceOf p (min pieceBytes (len - off)) }
                let o1 := if have_ then o else { o with got := o.got ++ [piece] }
                let s1 := s.setColl k o1
                if (o1.whole p.srcdev id len).isSome then (s1.ackChunk e.ctx p).pumpColl k else s1)

/-- CHUNK_ACK (R357, R362): an acknowledgement retires a chunk, and the window moves. -/
def execChunkAck (p : Packet) (s : State) : Out :=
  .next (s.takeIn p fun s =>
    if p.kind != kResponse || p.fcls != 2 then s
    else
      match s.ingressOf p.pkey with
      | none => s.countAtPort p 2 1
      | some e =>
        if p.gen != s.tables.gen then s.countAtPort p 3 1
        else
          match s.collOf e.ctx p with
          | none => s
          | some (k, o) =>
            let sent := o.sent.map fun x => if x.dev == p.srcdev && x.id == p.chunk.toNat then { x with acked := true } else x
            ((s.setColl k { o with sent := sent }).sendChunks k (o.unsent.length + 1)).reapColl k)

/-- CHUNK_RESEND (R357): a chunk that is not acknowledged is sent again, when the context's rate allows (R346). -/
def execChunkResend (k i : Nat) (s : State) : Out :=
  match s.coll? k with
  | none => .next s
  | some o =>
    match o.sent[i]? with
    | some x => if x.acked || s.stopped o.ctx || !s.egressOk o.ctx x.dev || s.rateHolds o.ctx (chunkCost x) then .next s else .next (s.sendChunk o x)
    | none => .next s

/-! ## Membership fences (R363, R364) -/

/-- Starts a fence to the pending generation, or joins the one in progress. -/
def State.startFence (s : State) (queue : Option Nat) : State :=
  match s.fab.fence with
  | some _ => s
  | none => { s with fab := { s.fab with fence := some { gen := s.tables.genPend, queue := queue, deadline := false } } }

/-- MFENCE (R364). -/
def execMfence (x : MfenceArgs) (s : State) : Out :=
  runThread x.g (needFeature true 7 fIllegalOp (checked [sp1 x.a] (needRole .general fun c t th s =>
    let v : Half := (th.reg x.a.toNat).extractLsb' 0 16
    if v = s.tables.gen then .ok (s.setThread c t (th.setPred x.pd.toNat true))
    else if v = s.tables.genPend then
      .ok ((s.setThread c t { th with wsite := s.site c th, status := .blocked (.mfence x.pd.toNat) }).startFence none)
    else .ok (s.setThread c t (th.setPred x.pd.toNat false))))) s

/-- Gives the issuer of an operation that was aborted GEN_CHANGED, in its core or in a save; that of an issuer whose block has retired
escalates (R350, R363). -/
def State.genChanged (s : State) (o : Coll) : State :=
  let held := ((s.thread? o.core o.slot).any fun th => th.bid == o.bid) || s.anySaved fun v => v.block.bid == o.bid
  if !held then s.recordFault o.ctx fGenChanged o.core o.slot false 0
  else
  let late (th : Thread) : Thread :=
    { th with late := insertLate { uid := o.opId, code := fGenChanged, acc := { space := .glb, scope := .thr, ea := 0, size := 0, kind := 0 } } th.late }
  let s1 := s.mapThread o.core o.slot fun th => if th.bid = o.bid then late th else th
  s1.mapSaved fun v =>
    if v.block.bid = o.bid then { v with threads := v.threads.map fun t => if (t.1, t.2.1) = (o.core, o.slot) then (t.1, t.2.1, late t.2.2) else t }
    else v

/-- An operation aborted at the deadline: a waiting one whose input was aborted gives its issuer GEN_CHANGED (R363). -/
def State.abortColl (s : State) (outs : List (Nat × Nat)) (k : Nat) (o : Coll) : State :=
  let s1 := s.endColl k o
  let s2 := if o.desc.outtok = 0xFFFF then s1 else s1.tokenAbort o.ctx o.desc.outtok
  if !o.fired && o.toks.any (fun t => outs.contains (o.ctx, t)) then s2.genChanged o else s2

/-- FENCE_ABORT_DEADLINE (R363): the operations that have not completed are aborted. -/
def execFenceAbortDeadline (s : State) : Out :=
  match s.fab.fence with
  | none => .next s
  | some f =>
    let live := s.fab.colls.filter fun e => !e.2.finished
    let outs := (live.filter fun e => e.2.desc.outtok ≠ 0xFFFF).map fun e => (e.2.ctx, e.2.desc.outtok)
    let s1 := live.foldl (fun s e => s.abortColl outs e.1 e.2) s
    .next { s1 with fab := { s1.fab with fence := some { f with deadline := true } } }

/-- Gate writes to the pending bank that were held during the fence are applied (R386). -/
def Tables.release (t : Tables) : Tables :=
  let t1 := t.held.foldl (fun t h =>
    { t with rankPend := h.1.foldl (fun b e => FMap.put b e.1 e.2) t.rankPend, genPend := h.2.getD t.genPend }) t
  { t1 with held := [] }

/-- A thread that waits for a fence in a saved block finds it done when its block is restored (R364). -/
def Thread.fenceOver (th : Thread) : Thread :=
  match th.status with
  | .blocked (.mfence pd) => { th.setPred pd true with status := .ready }
  | _ => th

/-- BANK_SWAP (R363): when every operation of the old generation has completed or been aborted, the banks swap, operations that still
live for want of acknowledgements free their slots, and what waited for the fence goes on. -/
def execBankSwap (s : State) : Out :=
  match s.fab.fence with
  | none => .next s
  | some _ =>
    if s.fab.colls.any fun e => !e.2.finished then .next s
    else
      let t1 : Tables := { s.tables with rankAct := s.tables.rankPend, gen := s.tables.genPend }
      let s1 : State := { s with tables := t1.release, fab := { s.fab with fence := none, colls := [] } }
      let s2 := s1.cores.foldl (fun s e =>
        e.2.threads.foldl (fun s t =>
          match t.2.status with
          | .blocked (.mfence pd) => (s.mapThread e.1 t.1 fun th => th.setPred pd true).wake e.1 t.1
          | _ => s) s) s1
      let s3 := s2.cores.foldl (fun s e =>
        e.2.threads.foldl (fun s t => t.2.ops.foldl (fun s o => s.retryAt e.1 t.1 o.uid) s) s) s2
      .next (s3.mapSaved fun v => { v with threads := v.threads.map fun t => (t.1, t.2.1, t.2.2.fenceOver) })

/-! ## EGRESS_RATE_RELEASE (R388) -/

/-- EGRESS_RATE_RELEASE (R388): what was held at issue, threads and chunks, goes on. -/
def execEgressRateRelease (ctx : Nat) (s : State) : Out :=
  let s1 := s.rateFree ctx
  .next (s1.fab.colls.foldl (fun s e => if e.2.ctx = ctx then s.sendChunks e.1 (e.2.unsent.length + 1) else s) s1)

end Sys2Proof.Machine
end

