-- ==== Sys2Proof/Machine/Landing.lean ====
section
/-! DEFINITION. CLASS_L_COMPLETION: how an operation in flight completes and its value lands (R79, R401). -/

namespace Sys2Proof.Machine

/-- CLASS_L_COMPLETION (R401): an operation in flight that may be performed now is performed, or its value lands. With a
number that is not in flight only what waits for the thread's operations is tested again. Operations of engines, the fabric and
the receipt table complete by their own events. -/
def execClassLCompletion (c t u : Nat) (s : State) : Out :=
  match s.thread? c t with
  | none => .next s
  | some th =>
    match th.ops.find? fun o => o.uid == u with
    | none => .next (s.after c [t])
    | some o =>
      match o.kind with
      | .land d ty v =>
        if th.crun = some o.clause then .next s
        else .next ((s.setThread c t ((th.retire o).setInt ty (BitVec.ofNat 8 d) v)).after c [t])
      | .streamEnd h (some d) =>
        if th.crun = some o.clause then .next s
        else
          let th1 : Thread :=
            { th with ops := th.ops.map fun (y : Op) => if y.uid = u then { o with kind := .streamEnd h none } else y }
          .next ((s.setThread c t (th1.setReg d h)).after c [t])
      | .coll k q (some d) =>
        if th.crun = some o.clause then .next s
        else
          let th1 : Thread :=
            { th with ops := th.ops.map fun (y : Op) => if y.uid = u then { o with kind := .coll k q none } else y }
          .next ((s.setThread c t (th1.setReg d 0)).after c [t])
      | .collWait .. => .next (s.retryColl c t th o)
      | .log => .next ((s.setThread c t (th.retire o)).after c [t])
      | .copy .. => .next (if s.bound th u then s else s.tryCopy c t th o)
      | .atom tgt op _ _ _ _ =>
        let g := s.mergeGroup c t th o
        .next (if s.groupReady c t th o then (s.performGroup c tgt op g).after c (g.map Prod.fst) else s.waits c t th o)
      | .load .. | .store .. | .cas .. =>
        .next (if s.eligible c t th o then (State.endOp c t o (s.performOp c th o)).after c [t] else s.waits c t th o)
      | .redt .. | .engine _ | .streamEnd .. | .remote .. | .coll .. | .act _ => .next s

end Sys2Proof.Machine
end

