-- ==== Sys2Proof/Machine/Launch.lean ====
section
/-! DEFINITION. Placement of blocks on cores (R16 to R18, R29, R286, R287, R336), retirement and completion (R30, R31, R335), and the
release sequencer (R410 to R412). -/

namespace Sys2Proof.Machine

/-! ## Resources (R16 to R18) -/

/-- What blocks use of a core: registers of each of home lanes 0 to 15 and of 16 to 31, and the resources that R16 counts per
core. -/
structure Use where
  low : Nat
  high : Nat
  threads : Nat
  crews : Nat
  blocks : Nat
  loc : Nat
  wbuf : Nat
  abuf : Nat
  cbuf : Nat
  bars : Nat
  rings : Nat
  deriving DecidableEq, Repr

def Use.zero : Use :=
  { low := 0, high := 0, threads := 0, crews := 0, blocks := 0, loc := 0, wbuf := 0, abuf := 0, cbuf := 0, bars := 0, rings := 0 }

def Use.add (a b : Use) : Use :=
  { low := a.low + b.low, high := a.high + b.high, threads := a.threads + b.threads, crews := a.crews + b.crews,
    blocks := a.blocks + b.blocks, loc := a.loc + b.loc, wbuf := a.wbuf + b.wbuf, abuf := a.abuf + b.abuf, cbuf := a.cbuf + b.cbuf,
    bars := a.bars + b.bars, rings := a.rings + b.rings }

def Use.fits (a : Use) : Bool :=
  decide (a.low ≤ Config.laneRegs) && decide (a.high ≤ Config.laneRegs) && decide (a.threads ≤ Config.nThreads) &&
    decide (a.crews ≤ Config.nCrews) && decide (a.blocks ≤ Config.nBlocks) && decide (a.loc ≤ Config.locBytes) &&
    decide (a.wbuf ≤ Config.wbufBytes) && decide (a.abuf ≤ Config.abufBytes) && decide (a.cbuf ≤ Config.cbufBytes) &&
    decide (a.bars ≤ Config.nBarriers) && decide (a.rings ≤ Config.nRings)

/-- The crews of a block that go to one core: every crew, or in a twin block those of the core's parity (R18). -/
def Desc.crewsOn (d : Desc) (half : Nat) : List Nat := (List.range d.crews).filter fun k => !d.twin || k % 2 == half

/-- Threads of a block in each home lane from 0 to 15 and from 16 to 31 (R17). -/
def laneLoad (width : Nat) (crews : List Nat) : Nat × Nat :=
  if width = 16 then ((crews.filter fun k => k % 2 = 0).length, (crews.filter fun k => k % 2 = 1).length)
  else (width / 32 * crews.length, width / 32 * crews.length)

/-- What one half of a block uses of its core. R18 says only that each core must hold the resources of its half; of a twin block each core
is charged the crews and threads that stand on it, half of `loc`, and the block's full typed buffers, barriers and stage rings (DESIGN
CHOICE, log entry 83). -/
def Desc.use (d : Desc) (half : Nat) : Use :=
  let cs := d.crewsOn half
  let l := laneLoad d.width cs
  { low := l.1 * d.regs, high := l.2 * d.regs, threads := d.width * cs.length, crews := cs.length, blocks := 1,
    loc := if d.twin then d.loc / 2 else d.loc, wbuf := d.wbuf, abuf := d.abuf, cbuf := d.cbuf, bars := d.barriers,
    rings := (d.rings.filter (· ≠ 0)).length }

/-- The half of a block that a core holds, if it holds one. -/
def Block.halfOn (b : Block) (c : Nat) : Option Nat :=
  if b.core = c then some 0 else if b.desc.twin ∧ b.core + 1 = c then some 1 else none

/-- What a core's blocks use. -/
def State.used (s : State) (c : Nat) : Use :=
  s.blocks.foldl (fun u b => match b.halfOn c with | some h => u.add (b.desc.use h) | none => u) Use.zero

/-- Whether a core holds no block. -/
def State.emptyCore (s : State) (c : Nat) : Bool := s.blocks.all fun b => (b.halfOn c).isNone

/-- Whether a resumed block's channel numbers are unbound on a core (R336). -/
def State.chansFree (s : State) (c : Nat) (saved : Option Saved) (half : Nat) : Bool :=
  match saved with
  | none => true
  | some v => ((FMap.getD (v.cores.mapVal fun k => k.chans) half []).all fun e => (s.chan c e.1).block.isNone)

/-- Whether a core can take one half of a block of a context now (R18, R114, R286). -/
def State.takes (s : State) (c ctx : Nat) (d : Desc) (half : Nat) (saved : Option Saved) : Bool :=
  let k := s.core c
  k.powered && k.en && (s.emptyCore c || k.ctx == some ctx) && ((s.used c).add (d.use half)).fits && s.chansFree c saved half

/-- The first place for a block at or after the cursor, wrapping once (R29): a core, or the even core of a twin. -/
def State.findCore (s : State) (l : Launch) (saved : Option Saved) : Option Nat :=
  let order := (List.range l.count).map fun i => l.first + (l.cursor - l.first + i) % l.count
  order.find? fun c =>
    if l.desc.twin then
      c % 2 == 0 && decide (c + 1 < l.first + l.count) && s.takes c l.ctx l.desc 0 saved && s.takes (c + 1) l.ctx l.desc 1 saved
    else s.takes c l.ctx l.desc 0 saved

/-! ## The start of a block (R287, R192, R243) -/

/-- A core as a context takes it: a core that last held another context takes the reset values of its items, but for its clause-start
counter, which only gang starts change (R275). What earlier blocks left in it goes. The first context after reset is another context too: the
core's cycle and performance counters are then set to 0 (DESIGN CHOICE, log entry 110). -/
def State.takeCore (s : State) (c ctx : Nat) : State :=
  let k := s.core c
  let s1 := { s with finals := s.finals.filter fun v => v.block.core != c && !(v.block.desc.twin && v.block.core + 1 == c) }
  if k.ctx == some ctx then s1
  else s1.setCore c { Core.reset with
    ctx := some ctx, powered := k.powered, en := k.en, halt := k.halt, eccUe := k.eccUe, eccCe := k.eccCe, clauseCtr := k.clauseCtr }

/-- The lowest free thread slot of a core. -/
def State.freeSlot (s : State) (c : Nat) : Nat :=
  ((List.range Config.nThreads).find? fun t => (s.thread? c t).isNone).getD 0

/-- The site of a thread that has not blocked yet. -/
def noSite : Site := { pc := 0, hdr := 0, index := 0, len := 0, clause := false }

/-- A thread as it starts (R97 to R99, R287). -/
def startThread (l : Launch) (idx j : Nat) : Thread :=
  let d := l.desc
  let crew := j / d.width
  let base := d.prvbase + BitVec.ofNat 64 ((idx * (d.crews * d.width) + j) * d.prv)
  { ctx := l.ctx, bid := { launch := l.uid, idx := idx }, crew := crew, tid := j % d.width, width := d.width,
    role := d.roles.getD crew .general, nregs := d.regs, g := [], p := 0, f := [], pc := d.entry, res := none,
    csp := BitVec.ofNat 64 d.prv, cslo := BitVec.ofNat 64 (d.prv - d.stack), cshi := BitVec.ofNat 64 d.prv, prvBase := base,
    prvSize := d.prv, blkx := BitVec.ofNat 32 (idx % l.gx), blky := BitVec.ofNat 32 (idx / l.gx % l.gy),
    blkz := BitVec.ofNat 32 (idx / (l.gx * l.gy)), nofair := d.nofair, hm := false, fcause := 0, finfo := 0, fpc := 0, fhdr := 0,
    faddr := 0, hs0 := 0, hs1 := 0, status := .ready, halted := false, w := 0, unord := false, ops := [], acqf := 0, late := [],
    fair := 16, wsite := noSite, crun := none, gap := false, yieldTill := 0, preck := [], ckCount := 0, logLen := 0 }

/-- The members of a whole crew. -/
def allOf (width : Nat) : Dword := if width = 64 then 0xFFFFFFFFFFFFFFFF else BitVec.ofNat 64 (2 ^ width - 1)

/-- The masks of R169 at crew start. -/
def startMasks (d : Desc) : FMap (FMap Mask) :=
  (List.range d.crews).map fun k => (k, [(0, { Mask.empty with mem := allOf d.width })])

/-- The core of a thread of a block whose even or only core is `c` (R18). -/
def Desc.coreOf (d : Desc) (c j : Nat) : Nat := if d.twin then c + j / d.width % 2 else c

/-- Puts threads, in linear order, into the lowest free slots of their cores. -/
def State.seat (s : State) (d : Desc) (c : Nat) : List (Nat × Thread) → State × List (Nat × Nat)
  | [] => (s, [])
  | (j, th) :: rest =>
    let k := d.coreOf c j
    let t := s.freeSlot k
    let r := State.seat (s.setThread k t th) d c rest
    (r.1, (k, t) :: r.2)

/-- A new block stands on its core. -/
def State.startBlock (s : State) (l : Launch) (idx c : Nat) : State :=
  let d := l.desc
  let s1 := s.takeCore c l.ctx
  let s2 := if d.twin then s1.takeCore (c + 1) l.ctx else s1
  let r := s2.seat d c ((List.range (d.crews * d.width)).map fun j => (j, startThread l idx j))
  let b : Block :=
    { bid := { launch := l.uid, idx := idx }, ctx := l.ctx, core := c, desc := d, threads := r.2, masks := startMasks d, loc := Store.empty,
      bufs := [], bars := [], rings := [], binds := [], streams := [] }
  { r.1 with blocks := r.1.blocks ++ [b] }

/-! ## Restoring a block (R242, R300, R336) -/

/-- Threads renamed in a list of class E and other references to a core or a slot. -/
def moved (old new : List (Nat × Nat)) (c t : Nat) : Nat × Nat :=
  match (old.zip new).find? fun e => e.1 == (c, t) with
  | some e => e.2
  | none => (c, t)

/-- A saved thread as it stands again: paused threads are ready at once (R148). -/
def Thread.restored (th : Thread) : Thread :=
  { th with halted := false, status := match th.status with | .paused _ _ => .ready | x => x, yieldTill := 0 }

/-- The places of a VST's pages as ownership is taken again (R273). -/
def State.retake (s : State) (ctx : Nat) (o : VOp) : VOp :=
  match o.fn with
  | .st stride pages =>
    { o with fn := .st stride (pages.map fun e =>
        match s.translate ctx (BitVec.ofNat 64 e.1) 1 with | .ok t => (e.1, t) | _ => e) }
  | _ => o

/-- Engine operations of a block with their issuing slots renamed. -/
def moveM (old new : List (Nat × Nat)) (c : Nat) (q : List MOp) : List MOp := q.map fun o => { o with slot := (moved old new c o.slot).2 }
def State.moveV (s : State) (ctx : Nat) (old new : List (Nat × Nat)) (c : Nat) (q : List VOp) : List VOp :=
  q.map fun o => s.retake ctx { o with slot := (moved old new c o.slot).2 }

/-- Enters an operation into a queue, those that have begun first, then in the order in which they entered a queue (R273). -/
def enterQueue {α : Type} (uid begun : α → Nat) (x : α) : List α → List α
  | [] => [x]
  | y :: ys => if begun y = 0 ∧ (begun x ≠ 0 ∨ uid x < uid y) then x :: y :: ys else y :: enterQueue uid begun x ys

/-- Restores what was saved of one core: its queues, its channels, and its latch, configuration and status. The first block that a core
takes brings the latter three; where another block stands on the core the first two stay as they are and the bits of the third are joined
(DESIGN CHOICE, log entry 57). -/
def State.restoreCore (s : State) (ctx c cold : Nat) (first : Bool) (old new : List (Nat × Nat)) (v : SavedCore) : State :=
  let k := s.core c
  let chans := v.chans.foldl (fun m e => FMap.put m e.1 e.2) k.chans
  let k1 := if first then { k with latch := v.latch, dcv := v.dcv, mstat := v.mstat } else { k with mstat := k.mstat ||| v.mstat }
  s.setCore c { k1 with
    mq := (moveM old new cold v.mq).foldl (fun q o => enterQueue MOp.uid MOp.done o q) k1.mq,
    vq := (s.moveV ctx old new cold v.vq).foldl (fun q o => enterQueue VOp.uid VOp.done o q) k1.vq, chans := chans }

/-- Token waits and collectives of a restored block's threads follow them to their new places; a wait whose token was aborted
meanwhile ends (R359). -/
def State.follow (s : State) (ctx : Nat) (b : Bid) (old new : List (Nat × Nat)) : State :=
  let x := s.ctx ctx
  let q := x.tokq.map fun e =>
    match e.2 with
    | .saved d j => if d = b then let m := new.getD j (0, 0); (e.1, TokWaiter.thread m.1 m.2) else e
    | _ => e
  let toks := ((x.tokq.filter fun e => match e.2 with | .saved d _ => d == b | _ => false).map Prod.fst).eraseDups
  let colls := FMap.mapVal s.fab.colls fun (o : Coll) =>
    if o.bid = b then let m := moved old new o.core o.slot; { o with core := m.1, slot := m.2 } else o
  let s1 := s.setCtx ctx { x with tokq := q }
  let s2 := { s1 with fab := { s1.fab with colls := colls } }
  let s3 := (toks.filter fun t => (x.tok t).count == 0 && (x.tok t).abort).foldl (fun s t => s.tokenAbort ctx t) s2
  s3.serveTokens ctx (q.length + 1)

/-- The flags of streams that ended while their issuers' block was saved clear (R336). -/
def State.streamsOver (s : State) (ctx : Nat) (b : Bid) (places : List (Nat × Nat)) : State :=
  places.foldl (fun s p =>
    (((s.thread? p.1 p.2).map Thread.ops).getD []).foldl (fun s o =>
      match o.kind with
      | .streamEnd h _ => s.startDone { Stream.free with ctx := ctx, bid := b, core := p.1, slot := p.2, handle := h }
      | _ => s) s) s

/-- A saved block stands on a core again. The core's L1 may hold lines older than what its threads wrote or acquired on another core, so
it is emptied (R242). -/
def State.restoreBlock (s : State) (l : Launch) (v : Saved) (c : Nat) : State :=
  let d := l.desc
  let s1 := s.takeCore c l.ctx
  let s2 := (if d.twin then (s1.takeCore (c + 1) l.ctx).l1Invalidate (c + 1) else s1).l1Invalidate c
  let ths := v.threads.mapIdx fun j e => (j, e.2.2.restored)
  let r := s2.seat d c ths
  let old := v.threads.map fun e => (e.1, e.2.1)
  let b : Block := { v.block with core := c, threads := r.2 }
  let s3 : State := { r.1 with blocks := r.1.blocks ++ [b] }
  let s4 := v.cores.foldl (fun z e => z.restoreCore l.ctx (c + e.1) (v.block.core + e.1) (s.emptyCore (c + e.1)) old r.2 e.2) s3
  (s4.follow l.ctx b.bid old r.2).streamsOver l.ctx b.bid r.2

/-! ## Restoring streams (R336) -/

/-- Whether a block is still to be placed again. -/
def State.pendingBlock (s : State) (b : Bid) : Bool := ((s.launch? b.launch).map fun l => l.again.any fun a => a.1 == b.idx).getD false

/-- The core of a receiver. -/
def State.recvCore (s : State) (r : Recv) : Option Nat := (s.block? r.bid).map fun b => b.core + r.half

/-- The place of a stream's issuer. -/
def State.issuerAt (s : State) (u : SavedStream) : Nat × Nat := (((s.block? u.y.bid).map fun b => b.threads.getD u.issuer (0, 0)).getD (0, 0))

/-- The Ladles that serve a saved stream, the first copy's first; none while a block of it is still to be placed. R336 places a stream by its
receivers: one that has none goes to the Ladle of its issuer's new cluster (DESIGN CHOICE, log entry 102). -/
def State.ladlesOf (s : State) (u : SavedStream) : Option (List Nat) :=
  if s.pendingBlock u.y.bid || u.recvs.any fun r => s.pendingBlock r.bid then none
  else
    match ((u.recvs.filterMap s.recvCore).map (· / 16)).eraseDups with
    | [] => some [(s.issuerAt u).1 / 16]
    | ls => some ls

/-- A saved stream becomes one stream for each Ladle that serves it. -/
def State.splitStream (s : State) (u : SavedStream) : List SavedStream :=
  match u.ladle, s.ladlesOf u with
  | none, some ls =>
    ls.mapIdx fun i l =>
      { u with y := { u.y with copy := u.y.copy || i != 0, lost := u.y.lost && i == 0 }, ladle := some l,
               recvs := u.recvs.filter fun r => ((s.recvCore r).map fun c => c / 16 == l).getD (i == 0) }
  | _, _ => [u]

/-- Places a stream in a free slot of its Ladle; one of whose receivers' blocks is gone ends with ERR CHAN at its next row (R335, R336). -/
def State.placeStream (s : State) (u : SavedStream) : State :=
  match u.ladle with
  | none => { s with unplaced := s.unplaced ++ [u] }
  | some l =>
    match (List.range Config.nStreams).find? fun k => (s.stream l k).st == .free with
    | none => { s with unplaced := s.unplaced ++ [u] }
    | some k =>
      let cs := u.recvs.filterMap s.recvCore
      let mask : Half := BitVec.ofNat 16 ((cs.map fun c => 2 ^ (c % 16)).foldl (· + ·) 0)
      let p := s.issuerAt u
      let dst := u.y.dst.map fun (d : LDst) => if cs.isEmpty then d else { d with rmask := mask }
      let s1 := s.setStream l k { u.y with
        seq := (s.stream l k).seq, core := p.1, slot := p.2, dst := dst, halted := false,
        lost := u.y.lost || decide (cs.length < u.recvs.length) }
      u.recvs.foldl (fun s r =>
        match s.recvCore r with | some c => s.setChan c r.ch { s.chan c r.ch with owner := some (l, k) } | none => s) s1

/-- Places the streams that wait. -/
def State.placeStreams (s : State) : State :=
  (s.unplaced.flatMap s.splitStream).foldl State.placeStream { s with unplaced := [] }

/-! ## DISPATCH (R286) -/

/-- Blocks of a launch's grid. -/
def Launch.total (l : Launch) : Nat := l.gx * l.gy * l.gz

/-- Whether blocks of a launch remain to be dispatched: it is in the launch queue. -/
def Launch.queued (l : Launch) : Bool := decide (l.next < l.total)

/-- The launches in the dispatcher's order: descending priority, then the order of entry. -/
def dispatchOrder (ls : List Launch) : List Launch := [3, 2, 1, 0].flatMap fun p => ls.filter fun l => l.prio == p

/-- Whether the dispatcher may take blocks of a launch: its context is neither pre-empted nor being killed, no SNAP create holds
launches as late as it back, and resumed blocks of the context go first (R285, R286, R300). -/
def State.mayDispatch (s : State) (l : Launch) : Bool :=
  let x := s.ctx l.ctx
  x.pre == .none && !x.killing && !l.killed && s.lqs.all (fun e => match e.2.snapWait with | some u => decide (l.uid < u) | none => true) &&
    (!l.again.isEmpty || (l.queued && s.launches.all fun m => m.ctx != l.ctx || m.again.isEmpty))

/-- Places the next block of a launch: none when no core takes it. -/
def State.placeNext (s : State) (l : Launch) : Option State :=
  match l.again with
  | (idx, saved) :: rest =>
    match s.findCore l saved with
    | none => none
    | some c =>
      let s1 := match saved with | some v => s.restoreBlock l v c | none => s.startBlock l idx c
      some (s1.setLaunch { l with again := rest, cursor := l.first + (c - l.first + (if l.desc.twin then 2 else 1)) % l.count })
  | [] =>
    match s.findCore l none with
    | none => none
    | some c =>
      some ((s.startBlock l l.next c).setLaunch { l with
        next := l.next + 1, cursor := l.first + (c - l.first + (if l.desc.twin then 2 else 1)) % l.count })

/-- Places blocks of one launch until it has none left or no core takes the next. -/
def State.placeAll (s : State) (u : Nat) : Nat → State
  | 0 => s
  | n + 1 =>
    match s.launch? u with
    | none => s
    | some l =>
      if !s.mayDispatch l then s
      else
        match s.placeNext l with
        | none => s
        | some s1 => State.placeAll s1 u n

/-- More blocks than the device can hold. -/
def placeFuel : Nat := Config.nCores * Config.nBlocks

/-- DISPATCH (R286): one slice cycle of the dispatcher. -/
def execDispatch (s : State) : Out :=
  .next ((dispatchOrder s.launches).foldl (fun s l => s.placeAll l.uid placeFuel) s).placeStreams

/-! ## BLOCK_RETIREMENT (R30, R335) -/

/-- Whether an operation in flight holds its block back from retirement: collectives and streams do not. -/
def OpKind.holdsBlock : OpKind → Bool
  | .streamEnd .. | .coll .. => false
  | _ => true

/-- Whether a block may retire: every thread has exited, and its operations are complete. -/
def State.mayRetire (s : State) (b : Block) : Bool :=
  (s.blockThreads b.bid).all (fun e => e.2.2.exitedB && e.2.2.late.isEmpty && e.2.2.ops.all fun o => !o.kind.holdsBlock) &&
    [b.core, b.core + 1].all fun c => (s.core c).mq.all (fun o => o.bid != b.bid) && (s.core c).vq.all fun o => o.bid != b.bid

/-- The streams that a block started: those that run stop, and every slot of them is freed. -/
def State.endStreams (s0 : State) (b : Bid) : State :=
  let mine (u : SavedStream) : Bool := u.y.bid == b
  let s1 := (s0.unplaced.filter mine).foldl State.disownWaiting s0
  let s := { s1 with unplaced := s1.unplaced.filter fun u => !mine u }
  s.streams.foldl (fun s e =>
    if e.2.bid == b && e.2.st != .free then
      let l := e.1 / 16
      let k := e.1 % 16
      (if e.2.live then s.stopStream l k else s).freeStream l k
    else s) s

/-- Unbinds a block's channels. -/
def State.unbind (s : State) (b : Bid) (cs : List Nat) : State :=
  cs.foldl (fun s c => (s.core c).chans.foldl (fun s e =>
    if e.2.block == some b then s.setChan c e.1 { e.2 with block := none } else s) s) s

/-- Takes a block and its threads off their cores. -/
def State.removeBlock (s : State) (b : Block) : State :=
  let s1 := b.threads.foldl (fun s e =>
    (s.leaveGang e.1 e.2).setCore e.1 { (s.leaveGang e.1 e.2).core e.1 with threads := FMap.del ((s.leaveGang e.1 e.2).core e.1).threads e.2 }) s
  { s1 with blocks := s1.blocks.filter fun x => x.bid != b.bid }

/-- The staging logs of a block's threads: the virtual address at which each begins and the records in it (R410). -/
def State.logsOf (s : State) (b : Bid) : List (Dword × Nat) :=
  (s.blockThreads b).map fun e => (e.2.2.prvBase + BitVec.ofInt 64 (e.2.2.ckBase - 65536), e.2.2.logLen)

/-- BLOCK_RETIREMENT (R30). What the block's threads and memories hold stays to be read until a core takes another block (log entry 82). -/
def execBlockRetirement (u idx : Nat) (s : State) : Out :=
  let bid : Bid := { launch := u, idx := idx }
  match s.block? bid, s.launch? u with
  | some b, some l =>
    if !s.mayRetire b then .next s
    else
      let logs := if (s.ctx b.ctx).det then FMap.put l.logs idx (s.logsOf bid) else l.logs
      let s1 := (s.endStreams bid).unbind bid [b.core, b.core + 1]
      let left : Saved :=
        { block := (s1.block? bid).getD b, threads := b.threads.filterMap fun e => (s1.thread? e.1 e.2).map fun th => (e.1, e.2, th), cores := [] }
      .next (({ s1 with finals := left :: s1.finals }.removeBlock b).setLaunch { l with retired := insertAsc idx l.retired, logs := logs })
  | _, _ => .next s

/-! ## LAUNCH_COMPLETION (R31, R389, R411) -/

/-- Removes the receipts of a launch on every slice. -/
def State.dropReceipts (s : State) (ctx number : Nat) : State :=
  s.closeReceipts ctx (number % 65536) 0 0xFFFFFFFF

/-- Whether a launch is complete: every block has retired, and in deterministic mode every log is applied. -/
def State.launchDone (s : State) (l : Launch) : Bool :=
  l.retired.length == l.total && (!(s.ctx l.ctx).det || l.ticket == l.total)

/-- LAUNCH_COMPLETION (R31). -/
def execLaunchCompletion (u : Nat) (s : State) : Out :=
  match s.launch? u with
  | none => .next s
  | some l =>
    if !s.launchDone l then .next s
    else
      let s1 := s.dropReceipts l.ctx l.number
      .next { s1 with launches := s1.launches.filter fun x => x.uid != u }

/-! ## SEQUENCER_APPLY (R411) -/

/-- A record of the staging log. -/
def logRecOf (bs : List Byte) : LogRec :=
  { va := BitVec.ofNat 64 (fieldAt bs 0 8), kind := fieldAt bs 8 1, op := fieldAt bs 9 1, ty := fieldAt bs 10 1,
    v := BitVec.ofNat 64 (fieldAt bs 16 8), lo := BitVec.ofNat 32 (fieldAt bs 24 4), hi := BitVec.ofNat 32 (fieldAt bs 28 4) }

/-- How an application ends: done; done with half `k` of a two-wide operation; it waits for what has been asked for; or it is tried
again. -/
inductive SeqRes
  | done (s : State)
  | part (k : Nat) (s : State)
  | wait (s : State)
  | again (s : State)

/-- The same with another state. -/
def SeqRes.map (f : State → State) : SeqRes → SeqRes
  | .done s => .done (f s)
  | .part k s => .part k (f s)
  | .wait s => .wait (f s)
  | .again s => .again (f s)

/-- The escalation of an application that cannot be made: CORE 0, SLOT 0 (R411). -/
def State.seqFault (s : State) (ctx code : Nat) (va : Dword) : SeqRes := .done (s.recordFault ctx code 0 0 false va)

/-- The Lantern that replays the misses of a launch's sequencer. -/
def Launch.lantern (l : Launch) : Nat := if l.queue < 64 then 0 else 1

/-- A reduce-store of a log, or the next half of a two-wide one, at its home slice (R214): the outcome, and whether it was applied. A half
that fails before the other is performed fails the whole, which begins at the record's address. -/
def State.seqReduce (s : State) (l : Launch) (r : LogRec) : SeqRes × Bool :=
  let o := AtomOp.ofCodes r.op r.ty
  let h := nextHalf s.hiFirst o l.half
  let va := r.va + BitVec.ofNat 64 (2 * h.getD 0)
  let first := if l.half.isSome then va else r.va
  match s.agentRmw l.ctx va (if h.isSome then 2 else o.n / 8) (fun m => partNew o h m (partVal h r.v.toNat)) false with
  | .ok (some s1) => (match h, l.half with | some k, none => .part k s1 | _, _ => .done s1, true)
  | .ok none => (s.seqFault l.ctx fDataPoison first, false)
  | .held s1 => (.again (s.withRecalls s1), false)
  | .miss v e => (.wait (if l.waited then s else (s.walked l.ctx v).requestReplay l.lantern false 2 l.ctx v e), false)
  | .divert v => (.again ((s.walked l.ctx v).noteDivert l.lantern 2 l.ctx v), false)
  | .fail v e => ((s.walked l.ctx v).seqFault l.ctx (if e = .poison then fDataPoison else fXlateEngine) (if v = va then first else v), false)

/-- A tagged reduce-store of a log at a slice: the tag is looked up, and the receipt enters when one half or the whole has been applied
(R214, R216). -/
def State.seqTagged (s : State) (l : Launch) (r : LogRec) (sl : Nat) : SeqRes :=
  let rs := s.receiptsAt sl l.ctx
  let me : Receipt := { tag := r.lo, launch := l.number % 65536 }
  if l.half.isSome then
    match s.seqReduce l r with
    | (.done s1, false) => .done (s1.setReceipts sl l.ctx ((s1.receiptsAt sl l.ctx).filter (· ≠ me)))
    | (q, _) => q
  else if rs.contains me then .done (s.sliceBump sl 3 1)
  else if Config.receiptsPer ≤ rs.length then .wait (if l.waited then s else s.sliceBump sl 4 1)
  else
    match s.seqReduce l r with
    | (q, true) => q.map fun s1 => s1.setReceipts sl l.ctx (me :: rs)
    | (q, false) => q

/-- Applies one record of a log: RED, REDT at the home slice of its target, or RCLOSE. -/
def State.seqRecord (s : State) (l : Launch) (r : LogRec) : SeqRes :=
  if r.kind = 2 then .done (s.closeReceipts l.ctx (l.number % 65536) r.lo r.hi)
  else if r.kind = 1 then
    match s.translate l.ctx r.va 2 with
    | .ok t => s.seqTagged l r (sliceOf (tgtAddr t))
    | _ => (s.seqReduce l r).1
  else (s.seqReduce l r).1

/-- The address of record `i` of a block's logs, counted through its threads in order. -/
def logPlace : List (Dword × Nat) → Nat → Option Dword
  | [], _ => none
  | (a, n) :: rest, i => if i < n then some (a + BitVec.ofNat 64 (32 * i)) else logPlace rest (i - n)

/-- The launch with the outcome of an application of its next record. -/
def seqSet (l : Launch) : SeqRes → State
  | .done s1 => s1.setLaunch { l with applied := l.applied + 1, half := none, waited := false }
  | .part k s1 => s1.setLaunch { l with half := some k, waited := false }
  | .wait s1 => s1.setLaunch { l with waited := true }
  | .again s1 => s1

/-- One application of the launch's ticket block: its next record or half of one, or after the last the next ticket (R241, R411). A poisoned
record is recorded as poison in a target is, with the record's address, and the next record follows (DESIGN CHOICE, log entry 111). -/
def State.seqStep (s : State) (l : Launch) : State :=
  match logPlace (FMap.getD l.logs l.ticket []) l.applied with
  | none => s.setLaunch { l with ticket := l.ticket + 1, applied := 0, half := none, waited := false }
  | some va =>
    seqSet l
      (match s.agentRead l.ctx va 32 with
       | .ok (bs, bad, s1) => if bad.isEmpty then s1.seqRecord l (logRecOf bs) else s1.seqFault l.ctx fDataPoison va
       | .held s1 => .again (s.withRecalls s1)
       | .divert v => .again ((s.walked l.ctx v).noteDivert l.lantern 0 l.ctx v)
       | .miss v e => .wait (if l.waited then s else (s.walked l.ctx v).requestReplay l.lantern false 0 l.ctx v e)
       | .fail v e => (s.walked l.ctx v).seqFault l.ctx (if e = .poison then fDataPoison else fXlateEngine) v)

/-- SEQUENCER_APPLY (R411): block T's logs are applied once it has retired, in thread order and program order, one application at a
time. -/
def execSequencerApply (u : Nat) (s : State) : Out :=
  match s.launch? u with
  | none => .next s
  | some l =>
    if (s.ctx l.ctx).det && decide (l.ticket < l.total) && l.retired.contains l.ticket then .next (s.seqStep l) else .next s

end Sys2Proof.Machine
end

