-- ==== Sys2Proof/Machine/Lantern.lean ====
section
/-! DEFINITION. Command queues and the Lantern commands but for PREEMPT and RESUME (R275 to R286, R384, R385): the fetch of records,
launches, flow and waits, SIGNAL, GSWAP and snapshot views. -/

namespace Sys2Proof.Machine

/-! ## Queues (R276 to R279) -/

def fcBadOp : Nat := 0x01
def fcBadField : Nat := 0x02
def fcBadDesc : Nat := 0x03
def fcXlate : Nat := 0x04
def fcPoison : Nat := 0x05
def fcTimeout : Nat := 0x06
def fcNotSys : Nat := 0x07
def fcResource : Nat := 0x08
def fcDepth : Nat := 0x09
def fcReject : Nat := 0x0A
def fcNoCtx : Nat := 0x0B

def LQ.ctx (x : LQ) : Nat := (x.cfg.extractLsb' 8 6).toNat
def LQ.sys (x : LQ) : Bool := x.cfg.getLsbD 14
def LQ.prio (x : LQ) : Nat := (x.cfg.extractLsb' 6 2).toNat
def LQ.size (x : LQ) : Nat := 2 ^ (x.cfg.extractLsb' 0 5).toNat

/-- A word of a queue's page written by its Lantern. -/
def State.setPage (s : State) (q off v : Nat) : State := s.devWrite (65536 * q + off) (leBytes 8 v) [] true

/-- FCODE of a queue. -/
def State.fcode (s : State) (q : Nat) : Nat := s.page q 0x20 % 256

/-- Whether the words of a queue's page must wait, for an engine that owns their line or translations in use (R237, R380), and the wait. -/
def State.pageHeld (s : State) (q : Nat) : Bool := s.agentHeld true (65536 * q) 64

def State.pageWait (s : State) (q : Nat) : State := s.noteRecall noSkip (65536 * q) 64

/-- A queue faults (R279). -/
def State.queueFault (s : State) (q code : Nat) : State :=
  let s1 := s.setPage q 0x20 (s.page q 0x18 % 2 ^ 32 * 2 ^ 32 + code)
  s1.setLq q { s1.lq q with waiting := .none, missed := none, desc := none, snapWait := none }

/-- The record after a position. -/
def LPos.next : LPos → LPos
  | .ring o => .ring ((o + 32) % 2 ^ 64)
  | .list a => .list ((a + 32) % 2 ^ 64)

/-- A record's address. -/
def State.recAddr (s : State) (q : Nat) (x : LQ) : LPos → Dword
  | .ring o => BitVec.ofNat 64 (s.page q 0 + o % x.size)
  | .list a => BitVec.ofNat 64 a

/-- Whether a record lies before WPTR; every record of a list does. -/
def State.written (s : State) (q : Nat) : LPos → Bool
  | .ring o => let w := s.page q 0x10; let r := s.page q 0x18; decide ((o + 2 ^ 64 - r) % 2 ^ 64 < (w + 2 ^ 64 - r) % 2 ^ 64)
  | .list _ => true

/-- How a record's execution ends: retired or begun, with the position and the list stack that follow; it waits; a replayable miss;
a page to be diverted; a fault. -/
inductive QRes
  | done (s : State) (pos : LPos) (stack : List LLevel)
  | stay (s : State)
  | miss (s : State) (ctx : Nat) (va : Dword) (kind entry : Nat)
  | divert (s : State) (ctx : Nat) (va : Dword) (kind : Nat)
  | fault (s : State) (code : Nat)

/-- Continues with the outcome of an access of a Lantern. -/
def qAccess {α : Type} (s : State) (ctx kind : Nat) (r : ARes α) (f : α → QRes) : QRes :=
  match r with
  | .ok a => f a
  | .held s1 => .stay (s.withRecalls s1)
  | .miss va e => .miss s ctx va kind e
  | .divert va => .divert s ctx va kind
  | .fail va e => .fault (s.walked ctx va) (if e = .poison then fcPoison else fcXlate)

/-- Reads bytes in a context; poison among them is a fault. -/
def qRead (s : State) (ctx : Nat) (va : Dword) (n : Nat) (f : List Byte → State → QRes) : QRes :=
  qAccess s ctx 0 (s.agentRead ctx va n) fun r => if r.2.1.isEmpty then f r.1 r.2.2 else .fault r.2.2 fcPoison

/-- The wait for a translation; what the record waits for besides stays, a WAITMEM's deadline among it (R277). -/
def LQ.await (x : LQ) (ctx : Nat) (va : Dword) : LQ := { x with missed := some (ctx, va) }

/-- Enters the outcome of a record: RPTR advances when no level is open (R278). A Lantern's own miss asks Lantern 0 (R379). -/
def State.settleQueue (q : Nat) : QRes → State
  | .done s pos stack =>
    let s1 := s.setLq q { s.lq q with pos := pos, stack := stack, waiting := .none, missed := none, desc := none, snapWait := none }
    match stack, pos with
    | [], .ring o => s1.setPage q 0x18 o
    | _, _ => s1
  | .stay s => s
  | .miss s ctx va kind e => ((s.walked ctx va).setLq q ((s.lq q).await ctx va)).requestReplay 0 false kind ctx va e
  | .divert s ctx va kind => ((s.walked ctx va).setLq q ((s.lq q).await ctx va)).noteDivert 0 kind ctx va
  | .fault s code => s.queueFault q code

/-- Runs a record's body for the queue in turn. -/
def runQueue (body : Nat → LQ → State → QRes) (s : State) : Out :=
  match s.cur with
  | .queue q => .next (State.settleQueue q (body q (s.lq q) s))
  | _ => .refused .noAgent

/-- A record that retires at once. -/
def QRes.retire (x : LQ) (s : State) : QRes := .done s x.pos.next x.stack

/-- What the fetch of a queue's turn finds: nothing to execute, with the state that follows, or a command. -/
inductive QFetch
  | idle (s : State)
  | run (i : Instr) (s : State)

/-- Words of a record. -/
def recOf (bs : List Byte) : LRec :=
  let w (i : Nat) : Dword := BitVec.ofNat 64 (leNat ((bs.drop (8 * i)).take 8))
  { w0 := w 0, w1 := w 1, w2 := w 2, w3 := w 3 }

/-- OP of a record. -/
def recOp (r : LRec) : Nat := (r.w0.extractLsb' 0 8).toNat

/-- The feature without which a command gives BAD_OP (R392). -/
def sysFeature (op : Nat) : Option Nat := if op = 11 then some 7 else if op = 12 then some 8 else none

/-- Whether an awaited translation still lets a queue execute nothing. -/
def LQ.asleep (x : LQ) : Bool := x.missed.isSome

/-- Whether a record at the queue's position has begun and waits. -/
def LQ.begun (x : LQ) : Bool := x.asleep || x.waiting != .none

/-- The stage at which the Lanterns accept command streams and the table gate its messages (R117). -/
def stageReady : Nat := 5

/-- Fetches the record at a queue's position (R277 to R279, R285); before READY, and after a failure of bring-up, a Lantern accepts none
(R117, R118). The queue's page is an agent's access to memory (R237, R380). A record that waits already idles while its context is invalid
or being killed: R277 speaks of WPTR that passes RPTR in that state (DESIGN CHOICE, log entry 99). -/
def State.queueFetch (s0 : State) (q : Nat) : QFetch :=
  let x := s0.lq q
  let s := s0.l2Read (65536 * q) 64
  let w := s.page q 0x10
  let ahead := (w + 2 ^ 64 - s.page q 0x18) % 2 ^ 64
  if !x.en || s0.dev.stage ≠ stageReady then .idle s0
  else if s0.pageHeld q then .idle (s0.pageWait q)
  else if s.fcode q != 0 then .idle s
  else if x.waiting = .lost then .idle (s.queueFault q fcNoCtx)
  else if (s.mem.firstBad (65536 * q) 8).isSome || (s.mem.firstBad (65536 * q + 0x10) 8).isSome then .idle (s.queueFault q fcPoison)
  else if w % 32 ≠ 0 || decide (x.size < ahead) then .idle (s.queueFault q fcBadField)
  else if !s.written q x.pos then .idle s
  else if !(s.ctx x.ctx).valid || (s.ctx x.ctx).killing then .idle (if x.begun then s else s.queueFault q fcNoCtx)
  else if x.asleep then .idle s
  else
    match s.agentRead x.ctx (s.recAddr q x x.pos) 32 with
    | .ok (bs, bad, s1) =>
      if !bad.isEmpty then .idle (s1.queueFault q fcPoison)
      else
        let r := recOf bs
        match decodeLantern r with
        | .ok i => .run i s1
        | .error e =>
          let noFeat := ((sysFeature (recOp r)).map s1.lacksFeature).getD false
          .idle (s1.queueFault q (
            if e = .badOp || noFeat then fcBadOp
            else if decide (11 ≤ recOp r) && !x.sys then fcNotSys else fcBadField))
    | .held s1 => .idle (s.withRecalls s1)
    | .miss va e => .idle (State.settleQueue q (.miss s x.ctx va 0 e))
    | .divert va => .idle (State.settleQueue q (.divert s x.ctx va 0))
    | .fail va e => .idle ((s.walked x.ctx va).queueFault q (if e = .poison then fcPoison else fcXlate))

/-- A system command's body: BAD_OP without its feature, NOT_SYS on a queue without SYS (R285, R392). -/
def sysCommand (op : Nat) (body : Nat → LQ → State → QRes) (s : State) : Out :=
  runQueue (fun q x s =>
    if ((sysFeature op).map s.lacksFeature).getD false then .fault s fcBadOp
    else if !x.sys then .fault s fcNotSys else body q x s) s

/-! ## LAUNCH and LAUNCHI (R281, R282, R389) -/

def roleOf (n : Nat) : Role := [Role.general, .feed, .matrix, .vector].getD n .general

/-- A launch descriptor's fields (R281). -/
def descOf (bs : List Byte) : Desc :=
  let w (i : Nat) : Nat := leNat ((bs.drop (8 * i)).take 8)
  let crews := bitsAt (w 3) 10 7
  let ring (k : Nat) : Nat := let v := bitsAt (w 6) (4 * k) 4; if v = 0 then 0 else v + 1
  { entry := BitVec.ofNat 64 (w 0), cbase := BitVec.ofNat 64 (w 1), prvbase := BitVec.ofNat 64 (w 2), csize := 4 * bitsAt (w 3) 32 16,
    barriers := bitsAt (w 3) 19 5, nofair := (w 3).testBit 18, twin := (w 3).testBit 17, crews := crews,
    width := [16, 32, 64, 0].getD (bitsAt (w 3) 8 2) 0, regs := 8 * bitsAt (w 3) 0 8, loc := 256 * bitsAt (w 4) 0 16,
    wbuf := 256 * bitsAt (w 4) 16 16, abuf := 256 * bitsAt (w 4) 32 16, cbuf := 256 * bitsAt (w 4) 48 16,
    prv := 65536 * bitsAt (w 5) 16 9, stack := 256 * bitsAt (w 5) 0 13, rings := (List.range 16).map ring,
    roles := (List.range crews).map fun c => roleOf (bitsAt (if c < 32 then w 7 else w 8) (2 * (c % 32)) 2) }

/-- Whether a descriptor's reserved fields and the ROLES of absent crews are zero. -/
def descZeros (bs : List Byte) : Bool :=
  let w (i : Nat) : Nat := leNat ((bs.drop (8 * i)).take 8)
  bitsAt (w 3) 48 16 == 0 && bitsAt (w 3) 24 8 == 0 && w 5 / 2 ^ 25 == 0 && bitsAt (w 5) 13 3 == 0 && (bs.drop 0x48).all (· == 0) &&
    (w 7 + 2 ^ 64 * w 8) / 2 ^ (2 * bitsAt (w 3) 10 7) == 0

/-- Bytes of a checkpoint area (R299). -/
def Desc.ckArea (d : Desc) : Nat := 2 * ((128 + 4 * d.regs + 255) / 256 * 256)

/-- Step 4 of R282. -/
def Desc.ok (d : Desc) (first count : Nat) (policy : Bool) : Bool :=
  let k := if d.twin then 2 else 1
  (!d.twin || (first % 2 == 0 && count % 2 == 0)) && decide (d.csize ≤ 65536) && decide (d.barriers ≤ 16) && decide (1 ≤ d.crews) &&
    decide (d.crews ≤ 64) && d.width != 0 && decide (16 ≤ d.regs) && decide (d.regs ≤ 256) && decide (d.crews * d.width ≤ 2048 * k) &&
    decide (d.loc ≤ Config.locBytes * k) && decide (d.wbuf ≤ Config.wbufBytes) && decide (d.abuf ≤ Config.abufBytes) &&
    decide (d.cbuf ≤ Config.cbufBytes) && decide (65536 ≤ d.prv) && decide (d.prv ≤ 256 * 65536) && decide (256 ≤ d.stack) &&
    decide (d.stack ≤ 4096 * 256) && decide (d.stack ≤ d.prv) && (!policy || decide (d.stack + d.ckArea ≤ d.prv))

/-- A launch descriptor that needs an absent feature (R392). -/
def State.descGated (s : State) (d : Desc) : Bool := (d.twin && s.lacksFeature 5) || (d.nofair && s.lacksFeature 14)

/-- Whether an empty core, or twin, holds one block (step 6 of R282). -/
def Desc.holdable (d : Desc) : Bool := (d.use 0).fits && (!d.twin || (d.use 1).fits)

/-- A launch enters the launch queue; a grid of no blocks completes at once (R31, R282). While the queue is full the record waits. -/
def State.enterLaunch (s : State) (q : Nat) (x : LQ) (l : Launch) : QRes :=
  if l.total ≠ 0 && decide (Config.launchEntries ≤ (s.launches.filter Launch.queued).length) then
    .stay (s.setLq q { x with waiting := .room l })
  else
    let c := s.ctx x.ctx
    let l1 := { l with uid := s.uid, number := c.launches % 65536 }
    let s1 := s.nextUid.setCtx x.ctx { c with launches := c.launches + 1 }
    QRes.retire x (if l.total = 0 then s1 else { s1 with launches := s1.launches ++ [l1] })

/-- Steps 2 to 6 of R282. The descriptor is read once: a launch that waits for a translation afterwards keeps what it has read (R283). -/
def launchBody (q : Nat) (x : LQ) (desc : Dword) (first count : Nat) (grid : Desc → State → QRes) (s : State) : QRes :=
  match x.waiting with
  | .room l => s.enterLaunch q x l
  | _ =>
    if !(s.ctx x.ctx).valid || (s.ctx x.ctx).killing then .fault s fcNoCtx
    else
      let check (bs : List Byte) (s : State) : QRes :=
        let d := descOf bs
        if !descZeros bs || !d.ok first count (s.ctx x.ctx).policy || s.descGated d then .fault s fcBadDesc
        else if !s.dev.featLock || ((s.ctx x.ctx).det && !s.dev.clkLock) then .fault s fcReject
        else if !d.holdable then .fault s fcResource
        else grid d s
      match x.desc with
      | some bs => check bs s
      | none => qRead s x.ctx desc 128 fun bs s => check bs (s.setLq q { x with desc := some bs })

/-- The launch that a record makes. -/
def newLaunch (q : Nat) (x : LQ) (d : Desc) (first count gx gy gz : Nat) : Launch :=
  { uid := 0, ctx := x.ctx, queue := q, prio := x.prio, number := 0, desc := d, gx := gx, gy := gy, gz := gz, first := first,
    count := count, cursor := first, next := 0, retired := [], ticket := 0, applied := 0, half := none, waited := false, logs := [], again := [], killed := false,
    complete := false }

/-- LAUNCH (R282). -/
def execLaunch (x : LaunchArgs) (s : State) : Out :=
  runQueue (fun q lq s =>
    let first := x.first.toNat
    let count := x.count1.toNat + 1
    launchBody q lq x.desc first count (fun d s =>
      s.enterLaunch q lq (newLaunch q lq d first count x.gx.toNat x.gy.toNat x.gz.toNat)) s) s

/-- LAUNCHI (R282): step 7 reads the grid. -/
def execLaunchi (x : LaunchiArgs) (s : State) : Out :=
  runQueue (fun q lq s =>
    let first := x.first.toNat
    let count := x.count1.toNat + 1
    launchBody q lq x.desc first count (fun d s =>
      qRead s lq.ctx x.grid 12 fun bs s =>
        let gx := fieldAt bs 0 4
        let gy := fieldAt bs 4 4
        let gz := fieldAt bs 8 4
        if 65535 < gy || 65535 < gz || 2 ^ 32 ≤ gx * gy * gz then .fault s fcBadField
        else s.enterLaunch q lq (newLaunch q lq d first count gx gy gz)) s) s

/-! ## Flow (R284) -/

/-- LOOP. -/
def execLanternLoop (n : Word) (s : State) : Out :=
  runQueue (fun _ x s =>
    if n = 0 then .fault s fcBadField
    else if 8 ≤ x.stack.length then .fault s fcDepth
    else .done s x.pos.next (.loop x.pos.next n.toNat :: x.stack)) s

/-- ENDLOOP. -/
def execEndloop (s : State) : Out :=
  runQueue (fun _ x s =>
    match x.stack with
    | .loop body left :: rest => if left ≤ 1 then .done s x.pos.next rest else .done s body (.loop body (left - 1) :: rest)
    | _ => .fault s fcBadField) s

/-- CALLL. -/
def execCalll (addr : Dword) (s : State) : Out :=
  runQueue (fun _ x s =>
    if 8 ≤ x.stack.length then .fault s fcDepth else .done s (.list addr.toNat) (.call x.pos.next :: x.stack)) s

/-- RETL. -/
def execRetl (s : State) : Out :=
  runQueue (fun _ x s =>
    match x.stack with
    | .call ret :: rest => .done s ret rest
    | _ => .fault s fcBadField) s

/-- Evaluates a condition on the word that memory holds. -/
def qCond (s : State) (ctx : Nat) (m : MemCond) (f : Bool → State → QRes) : QRes :=
  let n := if m.w32 then 4 else 8
  qRead s ctx m.addr n fun bs s =>
    f (wordCond m.cond (8 * n) (BitVec.ofNat 64 (leNat bs) &&& m.mask).toNat m.value.toNat) s

/-- Scans the records that an IFMEM skips: none while one is not yet written; else whether they are balanced, and where the
scan ends. -/
def skipScan (q : Nat) (x : LQ) (f : LPos → State → QRes) : Nat → Nat → LPos → State → QRes
  | 0, depth, p, s => if depth = 0 then f p s else .fault s fcBadField
  | n + 1, depth, p, s =>
    if !s.written q p then .stay s
    else
      qRead s x.ctx (s.recAddr q x p) 32 fun bs s =>
        let op := recOp (recOf bs)
        if op = 3 then skipScan q x f n (depth + 1) p.next s
        else if op = 7 || (op = 4 && depth = 0) then .fault s fcBadField
        else skipScan q x f n (if op = 4 then depth - 1 else depth) p.next s

/-- IFMEM. -/
def execIfmem (x : IfmemArgs) (s : State) : Out :=
  runQueue (fun q lq s =>
    qCond s lq.ctx x.m fun c s =>
      if c then QRes.retire lq s
      else skipScan q lq (fun p s => .done s p lq.stack) x.skip.toNat 0 lq.pos.next s) s

/-- WAITMEM: the word is read again until the condition holds. -/
def execWaitmem (x : WaitmemArgs) (s : State) : Out :=
  runQueue (fun q lq s =>
    let s0 := s.setLq q { lq with waiting := .mem x.deadline.toNat }
    qCond s0 lq.ctx x.m fun c s => if c then QRes.retire lq s else .stay s) s

/-- WAITMEM_TIMEOUT (R284): the deadline of a queue's WAITMEM passes. -/
def execWaitmemTimeout (q : Nat) (s : State) : Out :=
  match (s.lq q).waiting with
  | .mem d =>
    if !(s.lq q).en || d == 0 || s.fcode q != 0 then .next s
    else if s.pageHeld q then .next (s.pageWait q)
    else .next (s.queueFault q fcTimeout)
  | _ => .next s

/-- Launches of a queue that are not complete (R31). -/
def State.inFlight (s : State) (q : Nat) : Nat := (s.launches.filter fun l => l.queue == q).length

/-- WAITLCH. -/
def execWaitlch (n : Word) (s : State) : Out :=
  runQueue (fun q x s => if s.inFlight q ≤ n.toNat then QRes.retire x s else .stay (s.setLq q { x with waiting := .begun })) s

/-- SIGNAL's write, after the wait of AFTER. -/
def signal (x : SignalArgs) (n : Nat) (add : Bool) (s : State) : Out :=
  runQueue (fun q lq s =>
    if x.after && s.inFlight q != 0 then .stay (s.setLq q { lq with waiting := .begun })
    else if add then
      qAccess s lq.ctx 2 (s.agentAdd lq.ctx x.addr n x.value.toNat true) fun r =>
        match r with
        | some s1 => QRes.retire lq s1
        | none => .fault s fcPoison
    else qAccess s lq.ctx 1 (s.agentWrite lq.ctx x.addr (leBytes n x.value.toNat) [] true) fun s1 => QRes.retire lq s1) s

/-- SIGNAL store64. -/
def execSignalStore64 (x : SignalArgs) (s : State) : Out := signal x 8 false s

/-- SIGNAL add64. -/
def execSignalAdd64 (x : SignalArgs) (s : State) : Out := signal x 8 true s

/-- SIGNAL store32. -/
def execSignalStore32 (x : SignalArgs) (s : State) : Out := signal x 4 false s

/-- SIGNAL add32. -/
def execSignalAdd32 (x : SignalArgs) (s : State) : Out := signal x 4 true s

/-! ## GSWAP (R285, R363) -/

/-- GSWAP: the record retires when the banks have swapped. -/
def execGswap (x : GswapArgs) (s : State) : Out :=
  sysCommand 11 (fun q lq s =>
    match lq.waiting with
    | .fence g => if (s.fab.fence.map fun f => f.gen == g).getD false then .stay s else QRes.retire lq s
    | _ =>
      if x.gen != s.tables.genPend then .fault s fcBadField
      else .stay ((s.setLq q { lq with waiting := .fence x.gen }).startFence (some q))) s

/-! ## Snapshot views (R384, R385) -/

def poolPa : Nat := 0x800000

/-- A word of the diversion pool page. R383 does not say what a poisoned one does: its bytes are used as they stand (DESIGN CHOICE, log entry
103). -/
def State.pool (s : State) (off n : Nat) : Nat := s.mem.readNat (poolPa + off) n

/-- The read of the pool page's pointers at their home slice (R199). -/
def State.poolRead (s : State) : State := s.l2Read poolPa 64

/-- Whether the pointers of the pool page must wait (R237, R380). -/
def State.poolHeld (s : State) : Bool := s.agentHeld true poolPa 64

/-- Writes a number to device memory, as the walkers and the Lanterns write their tables. -/
def State.putWord (s : State) (pa n v : Nat) : State := s.devWrite pa (leBytes n v) [] true

/-- A leaf that R384 admits for a view: device memory, 64 KiB. -/
def Leaf.page (l : Leaf) : Bool := !l.big && !pteHost l.entry

/-- What the walks of a region's pages find: every page's leaf, one that breaks the requirement, or a poisoned entry. -/
inductive Region
  | ok (ls : List Leaf)
  | bad
  | poison
  deriving DecidableEq, Repr

/-- The leaves of `n` pages from an address (R384). An address in the aperture has no walk and breaks the requirement, and so the command
answers BAD_FIELD; R435 has a row for a Lantern's accesses there, XLATE, and R384 states its own answer for a region (DESIGN CHOICE, log
entry 97). -/
def State.region (s : State) (ctx : Nat) (va : Dword) : Nat → Region
  | 0 => .ok []
  | n + 1 =>
    if !canonical va || inAperture va then .bad
    else
      match s.walk ctx va.toNat with
      | .poison _ => .poison
      | .absent _ _ => .bad
      | .leaf l =>
        if !l.page || pteSnap l.entry then .bad
        else
          match State.region s ctx (va + 65536) n with
          | .ok ls => .ok (l :: ls)
          | r => r

/-- The walks of a region's pages, as far as every page is admitted (R376, R384). -/
def State.walkRegion (s : State) (ctx : Nat) (va : Dword) : Nat → State
  | 0 => s
  | n + 1 =>
    match s.region ctx va 1 with
    | .ok _ => State.walkRegion (s.walked ctx va) ctx (va + 65536) n
    | _ => s.walked ctx va

/-- Whether a page-table entry cannot be written yet (R237, R380). -/
def State.entryHeld (s : State) (pa : Nat) : Bool := s.agentHeld true pa 8

/-- Whether a write that was translated before now has still to be performed in a frame (R384); copies, VSTs and checkpoint records hold
the leaf itself (R298, R380). -/
def State.frameWriting (s : State) (f : Nat) : Bool :=
  let hit (t : Tgt) : Bool := match t with | .dev pa => pa / 65536 == f | _ => false
  s.cores.any fun k => k.2.threads.any fun e => e.2.ops.any fun o =>
    match o.kind with
    | .store t _ _ _ | .atom t _ _ _ _ _ | .cas t _ _ _ _ _ | .redt t _ _ _ _ _ => hit t
    | _ => false

/-- Whether a walk of a region's pages must wait for an engine that owns a line of the tables (R237). -/
def State.regionHeld (s : State) (ctx : Nat) (va : Dword) (n : Nat) : Bool :=
  (List.range n).any fun i => s.walkHeld ctx (va + BitVec.ofNat 64 (65536 * i))

/-- A SNAP create that waits, from when it first asked. -/
def LQ.snapWaits (lq : LQ) (uid : Nat) : LQ := { lq with waiting := .begun, snapWait := some (lq.snapWait.getD uid) }

/-- SNAP create (R285, R384). -/
def execSnapCreate (x : SnapArgs) (s : State) : Out :=
  sysCommand 12 (fun q lq s =>
    let v := x.view.toNat
    let waits : QRes := .stay (s.setLq q (lq.snapWaits s.uid))
    if s.inFlight q ≠ 0 then waits
    else if (FMap.getD s.tables.views v View.reset).valid then .fault s fcBadField
    else if s.regionHeld x.ctx.toNat x.base (x.len.toNat / 65536) then waits
    else
      let w := s.walkRegion x.ctx.toNat x.base (x.len.toNat / 65536)
      match s.region x.ctx.toNat x.base (x.len.toNat / 65536) with
      | .bad => .fault w fcBadField
      | .poison => .fault w fcPoison
      | .ok ls =>
        if ls.any fun l => s.entryHeld l.addr || s.frameWriting (pteFrame l.entry) then waits
        else
          let s1 := ls.foldl (fun s l => (s.l2Read l.addr 8).putWord l.addr 8 (l.entry.toNat + 2 ^ 8)) w
          let view : View := { base := x.base, len := x.len, ctx := x.ctx.toNat, valid := true, diverted := 0 }
          QRes.retire lq { s1 with tables := { s1.tables with views := FMap.put s1.tables.views v view } }) s

/-- Releases the pages of a view from an address on; false when it must wait: the return ring is full, or an entry is held. -/
def State.releasePages (s : State) (ctx : Nat) (va : Dword) : Nat → State × Bool
  | 0 => (s, true)
  | n + 1 =>
    let rest (s : State) : State × Bool := State.releasePages s ctx (va + 65536) n
    if s.walkHeld ctx va then (s, false)
    else match s.walk ctx va.toNat with
    | .leaf l =>
      if !l.page || !pteSnap l.entry then rest (s.walked ctx va)
      else if s.entryHeld l.addr then (s, false)
      else if pteDiv l.entry = 0 then rest ((s.l2Read l.addr 8).putWord l.addr 8 (l.entry.toNat - 2 ^ 8))
      else
        let wp := s.pool 0x10 8
        if s.poolHeld || s.agentHeld true (poolPa + 0x8000 + 4 * (wp % 4096)) 4 || decide (4096 ≤ (wp + 2 ^ 64 - s.pool 0x18 8) % 2 ^ 64) then (s, false)
        else
          let s1 := s.poolRead.putWord (poolPa + 0x8000 + 4 * (wp % 4096)) 4 (pteFrame l.entry)
          let s2 := s1.putWord (poolPa + 0x10) 8 (wp + 1)
          rest ((s2.l2Read l.addr 8).putWord l.addr 8 (l.entry.toNat % 2 ^ 16 - 2 ^ 8 + 2 ^ 16 * pteDiv l.entry))
    | _ => rest (s.walked ctx va)

/-- SNAP release (R385): the base and the length of the record are checked (R280), the view's own are used. -/
def execSnapRelease (x : SnapArgs) (s : State) : Out :=
  sysCommand 12 (fun _ lq s =>
    let v := x.view.toNat
    let w := FMap.getD s.tables.views v View.reset
    if !w.valid then .fault s fcBadField
    else
      let r := s.releasePages w.ctx w.base (w.len.toNat / 65536)
      if r.2 then QRes.retire lq { r.1 with tables := { r.1.tables with views := FMap.del r.1.tables.views v } } else .stay r.1) s

/-! ## Writes to queue pages (R277, R279) -/

/-- A write to a queue's page, once no engine owns its line and no translation in use derives from it (R237, R380); no unit takes one
while all are held in reset (R117). -/
def pageWrite (q : Nat) (s : State) (f : State → State) : Out :=
  if Config.nQueues ≤ q || s.rom then .next s else if s.pageHeld q then .next (s.pageWait q) else .next (f s)

/-- WPTR_WRITE (R277): a producer's write. -/
def execWptrWrite (q : Nat) (v : Dword) (s : State) : Out :=
  pageWrite q s fun s => s.devWrite (65536 * q + 0x10) (leBytes 8 v.toNat) [] false

/-- CFG_WRITE (R276, R277): a write of the host or a Lantern. -/
def execCfgWrite (q : Nat) (v : Dword) (s : State) : Out := pageWrite q s fun s => s.setPage q 8 v.toNat

/-- STAT_CLEAR (R279): a producer writes STAT to 0, and the queue goes on. -/
def execStatClear (q : Nat) (s : State) : Out := pageWrite q s fun s => s.setPage q 0x20 0

end Sys2Proof.Machine
end

