-- ==== Sys2Proof/Machine/Preempt.lean ====
section
/-! DEFINITION. Pre-emption and kill (R114, R296, R297): PREEMPT, the save and recompute work that follows the halt, RESUME (R300, R336),
and the kill of a context. -/

namespace Sys2Proof

/-- The bytes in which the device lays out all that a save area holds. R297 leaves the layout to the device: they are a free value (log
entry 27). -/
opaque Config.saveLayout : Machine.SaveArea → List Byte

end Sys2Proof

namespace Sys2Proof.Machine

/-! ## The halt (R296) -/

/-- BUSY (R114): launches in flight, running collectives, or a kill in progress. -/
def State.busy (s : State) (ctx : Nat) : Bool :=
  (s.ctx ctx).killing || (s.launches.any fun l => l.ctx == ctx) || s.fab.colls.any fun e => e.2.ctx == ctx && !e.2.finished

/-- Every thread and stream of a context is halted where it stands, and the streams' run-ahead is discarded (R296, R336). -/
def State.haltCtx (s : State) (ctx : Nat) : State :=
  let cores := FMap.mapVal s.cores fun (k : Core) =>
    { k with threads := FMap.mapVal k.threads fun (th : Thread) => if th.ctx = ctx then { th with halted := true } else th }
  let streams := FMap.mapVal s.streams fun (y : Stream) => if y.ctx = ctx then { y with halted := true, ahead := [] } else y
  { s with cores := cores, streams := streams }

def PreState.isHalting : PreState → Bool
  | .halting _ _ => true
  | _ => false

/-- Whether an address can begin a save area. -/
def saveOk (save : Dword) : Bool := decide (save.toNat + 65536 ≤ Config.hbmBytes)

/-- Whether the record of another queue that asked for a context's pre-emption has not retired yet (R296). -/
def State.preempting (s : State) (q c : Nat) : Bool := s.lqs.any fun e => e.1 != q && e.2.en && e.2.waiting == .preempt c

/-- PREEMPT (R285, R296): the record retires when the pre-emption, or a kill that takes over, is complete; one that finds the context's
pre-emption asked for waits until that record has retired. -/
def execPreempt (x : PreemptArgs) (s : State) : Out :=
  sysCommand 13 (fun q lq s =>
    let c := x.ctx.toNat
    let k := s.ctx c
    match lq.waiting with
    | .preempt _ => if k.pre.isHalting || k.killing then .stay s else QRes.retire lq s
    | _ =>
      if (!k.policy && x.save == 0) || !saveOk x.save then .fault s fcBadField
      else if k.killing || k.pre.isHalting || s.preempting q c then .stay (s.setLq q { lq with waiting := .begun })
      else if k.pre != .none || !s.busy c then QRes.retire lq s
      else .stay (((s.setLq q { lq with waiting := .preempt c }).setCtx c { k with pre := .halting q x.save.toNat }).haltCtx c)) s

/-! ## What holds after the halt (R297, R242) -/

/-- Whether no gang holds a thread of a context, and its tile vector engines and its streams stand between rows (R273, R336). -/
def State.quiet (s : State) (ctx : Nat) : Bool :=
  (s.cores.all fun e => e.2.gangs.all fun g => g.2.members.all fun t => ((s.thread? e.1 t).map fun th => th.ctx != ctx).getD true) &&
    (s.cores.all fun e => e.2.ctx != some ctx || e.2.vq.all fun v => v.parts.isEmpty) &&
    s.streams.all fun e => e.2.ctx != ctx || (e.2.emit.map fun m => m.recv == 0 && m.parts.isEmpty).getD true

/-- The threads of a context. -/
def State.threadsOf (s : State) (ctx : Nat) : List Thread :=
  s.cores.flatMap fun e => (e.2.threads.map Prod.snd).filter fun th => th.ctx == ctx

/-- A PRECK marker that waits for results is not yet written. -/
def Thread.marking (th : Thread) : Bool := th.preck.any Ck.due

/-- Whether a thread may be saved: its results have landed and its writes are performed, but for what waits for an engine, a stream or
Carillon, for an earlier operation, or for the clause in which it issued to end. -/
def Thread.savable (th : Thread) : Bool :=
  !th.marking && th.ops.all fun o =>
    match o.kind with
    | .engine _ | .collWait .. | .act _ => true
    | .land .. => th.crun == some o.clause
    | .streamEnd _ d | .coll _ _ d => d.isNone || th.crun == some o.clause
    | _ => false

/-- Whether a thread's part of R242 holds. -/
def Thread.discardable (th : Thread) : Bool :=
  !th.marking && th.ops.all fun o =>
    match o.kind with
    | .load .. | .land .. | .engine _ | .streamEnd .. | .coll .. => true
    | _ => false

/-! ## The save (R297, R336) -/

/-- The halves of a block. -/
def Block.halves (b : Block) : List Nat := if b.desc.twin then [0, 1] else [0]

/-- The marker of a channel whose owner is a saved stream. -/
def awaited : Nat × Nat := (128, 0)

/-- What a save keeps of a core for a block. -/
def Core.keep (k : Core) (b : Bid) : SavedCore :=
  let mine := k.chans.filter fun e => e.2.block == some b
  { latch := k.latch, dcv := k.dcv, mstat := k.mstat, mq := k.mq.filter fun o => o.bid == b, vq := k.vq.filter fun o => o.bid == b,
    chans := FMap.mapVal mine fun (x : Chan) => { x with owner := x.owner.map fun _ => awaited } }

def State.saveBlock (s : State) (b : Block) : Saved :=
  { block := b, threads := b.threads.filterMap fun e => (s.thread? e.1 e.2).map fun th => (e.1, e.2, th),
    cores := b.halves.map fun h => (h, (s.core (b.core + h)).keep b.bid) }

/-- A stream with its issuer and its receivers, as a save keeps it; a receiver whose block has retired is lost (R335, R336). -/
def State.saveStream (s : State) (l k : Nat) : SavedStream :=
  let y := s.stream l k
  let issuer := ((s.block? y.bid).bind fun b => b.threads.findIdx? (· == (y.core, y.slot))).getD 0
  let recv (d : LDst) (c : Nat) : Option Recv :=
    if s.owns l k c d.ch.toNat then
      ((s.chan c d.ch.toNat).block.bind s.block?).map fun b => { bid := b.bid, half := c - b.core, ch := d.ch.toNat }
    else none
  let rs := match y.dst with | some d => (receivers l d.rmask).filterMap (recv d) | none => []
  let gone := match y.dst with | some d => y.live && (receivers l d.rmask).any fun c => !s.owns l k c d.ch.toNat | none => false
  let kept : Stream :=
    { y with halted := false, ahead := [], stalled := none, lost := y.lost || gone, emit := y.emit.map fun e => { e with staged := [] } }
  { y := kept, issuer := issuer, recvs := if y.live then rs else [], ladle := none }

/-- The linear place of a thread of a context. -/
def State.linearOf (s : State) (ctx c t : Nat) : Option (Bid × Nat) :=
  s.blocks.findSome? fun b => if b.ctx = ctx then (b.threads.findIdx? (· == (c, t))).map fun j => (b.bid, j) else none

/-- The cores that a saved block stood on. -/
def Block.cores (b : Block) : List Nat := b.halves.map (b.core + ·)

/-- The bytes of a save area: 4 MiB for each saved core and 64 KiB (R275). -/
def SaveArea.size (a : SaveArea) : Nat := 0x400000 * (a.blocks.flatMap fun v => v.block.cores).eraseDups.length + 65536

/-- What the device writes into a save area: everything that is saved, closed by its SHA3-256 digest (R297). -/
def SaveArea.bytes (a : SaveArea) : List Byte :=
  let bs := (Config.saveLayout a).take (a.size - 32)
  bs ++ sha3 bs

/-- A core that holds no engine state. -/
def Core.cleared (k : Core) : Core := { k with latch := Latch.none, dcv := 0, mstat := 0, mevents := 0, mq := [], vq := [], chans := [] }

/-- The blocks of a context leave their cores, the streams their slots, and every core that the context has lost its engine state
(R243). -/
def State.vacate (s : State) (ctx : Nat) : State :=
  let bs := s.blocks.filter fun b => b.ctx == ctx
  let s0 := bs.foldl State.removeBlock s
  let s1 := { s0 with cores := FMap.mapVal s0.cores fun (k : Core) => if k.ctx = some ctx then k.cleared else k }
  (s1.streams.filter fun e => e.2.ctx == ctx && e.2.st != .free).foldl (fun s e => s.freeStream (e.1 / 16) (e.1 % 16)) s1

/-- CONTEXT_SAVE (R297): the work of the save policy after the halt. The write waits while an engine owns a line of the area or a translation
in use derives from it (R237, R380). -/
def execContextSave (ctx : Nat) (s : State) : Out :=
  let x := s.ctx ctx
  match x.pre with
  | .halting _ save =>
    if x.killing || x.policy || !s.quiet ctx || !(s.threadsOf ctx).all Thread.savable then .next s
    else
      let bs := s.blocks.filter fun b => b.ctx == ctx
      let placed := (s.streams.filter fun e => e.2.ctx == ctx && e.2.st != .free).map fun e => s.saveStream (e.1 / 16) (e.1 % 16)
      let waiting := (s.unplaced.filter fun u => u.y.ctx == ctx).map fun (u : SavedStream) => { u with ladle := none }
      let a : SaveArea := { ctx := ctx, blocks := bs.map s.saveBlock, streams := placed ++ waiting }
      if s.agentHeld true save a.size then .next (s.noteRecall noSkip save a.size)
      else
      let q := x.tokq.map fun e =>
        match e.2 with
        | .thread c t => (match s.linearOf ctx c t with | some p => (e.1, TokWaiter.saved p.1 p.2) | none => e)
        | _ => e
      let s1 := (s.devWrite save a.bytes [] true).setCtx ctx { x with pre := .saved save, tokq := q }
      let s2 := s1.vacate ctx
      .next { s2 with saves := FMap.put s2.saves save a, unplaced := s2.unplaced.filter fun u => u.y.ctx != ctx }
  | _ => .next s

/-- RECOMPUTE_DISCARD (R297): the work of the recompute policy after the halt. -/
def execRecomputeDiscard (ctx : Nat) (s : State) : Out :=
  let x := s.ctx ctx
  match x.pre with
  | .halting _ _ =>
    if x.killing || !x.policy || !s.quiet ctx || !(s.threadsOf ctx).all Thread.discardable then .next s
    else
      let vs := (s.blocks.filter fun b => b.ctx == ctx).map fun b => { s.saveBlock b with cores := [] }
      let q := x.tokq.filter fun e => match e.2 with | .coll _ => true | _ => false
      let s1 := s.setCtx ctx { x with pre := .discarded, tokq := q }
      let live := s1.streams.filter fun e => e.2.ctx == ctx && e.2.live
      let s2 := (live.foldl (fun s e => s.stopStream (e.1 / 16) (e.1 % 16)) s1).vacate ctx
      .next { s2 with discards := FMap.put s2.discards ctx vs, unplaced := s2.unplaced.filter fun u => u.y.ctx != ctx }
  | _ => .next s

/-! ## RESUME (R300) -/

/-- Enters a block among those of its launch that go ahead, by linear index. -/
def insertAgain (e : Nat × Option Saved) : List (Nat × Option Saved) → List (Nat × Option Saved)
  | [] => [e]
  | x :: xs => if e.1 < x.1 then e :: x :: xs else x :: insertAgain e xs

/-- Puts saved blocks ahead of their launches' undispatched ones. -/
def State.putAgain (s : State) (vs : List Saved) : State :=
  vs.foldl (fun s v =>
    match s.launch? v.block.bid.launch with
    | some l => s.setLaunch { l with again := insertAgain (v.block.bid.idx, some v) l.again }
    | none => s) s

/-- RESUME under the save policy; the read waits while an engine owns a line of the area (R237). -/
def State.resumeSaved (s : State) (x : LQ) (c : Nat) (save : Nat) : QRes :=
  match FMap.find? s.saves save with
  | none => .fault s fcBadDesc
  | some a =>
    let bs := a.bytes
    if s.agentHeld false save bs.length then .stay (s.noteRecall noSkip save bs.length)
    else if (s.mem.firstBad save bs.length).isSome then .fault s fcPoison
    else if a.ctx ≠ c || s.mem.readBytes save bs.length ≠ bs then .fault s fcBadDesc
    else
      let s1 := ((s.l2Read save bs.length).setCtx c { s.ctx c with pre := .none }).putAgain a.blocks
      QRes.retire x { s1 with saves := FMap.del s1.saves save, unplaced := s1.unplaced ++ a.streams }

/-- The smallest COUNT among the live threads of a block. -/
def Saved.least (v : Saved) : Nat :=
  match (v.threads.filter fun e => !e.2.2.exitedB).map fun e => e.2.2.ckCount.toNat with
  | [] => 0
  | n :: ns => ns.foldl min n

/-- Reads the checkpoint records of a block's live threads; threads that restore none give none. -/
def readRecords (c q : Nat) (f : List (Option (List Byte)) → State → QRes) : List Thread → State → List (Option (List Byte)) → QRes
  | [], s, acc => f acc.reverse s
  | th :: rest, s, acc =>
    if q = 0 || th.exitedB then readRecords c q f rest s (none :: acc)
    else
      qRead s c (th.prvBase + BitVec.ofInt 64 (th.ckSlot q)) (128 + 4 * th.nregs) fun bs s => readRecords c q f rest s (some bs :: acc)

/-- A thread as its block restarts: from its record, from its launch state, or exited (R300). GEN_CHANGED of an operation that a fence aborted is
still to be taken (R363). -/
def restartThread (l : Launch) (idx j q : Nat) (old : Thread) (rec_ : Option (List Byte)) : Thread :=
  let t := { startThread l idx j with
    ckCount := BitVec.ofNat 64 q, logLen := old.logLen, late := old.late.filter fun f => f.code == fGenChanged }
  if old.exitedB then { t with status := .exited, ckCount := old.ckCount }
  else
    match rec_ with
    | none => t
    | some bs =>
      { t with
        pc := BitVec.ofNat 64 (fieldAt bs 8 8), csp := BitVec.ofNat 64 (fieldAt bs 16 8), p := BitVec.ofNat 8 (fieldAt bs 24 1),
        g := (List.range t.nregs).map fun r => (r, BitVec.ofNat 32 (fieldAt bs (0x80 + 4 * r) 4)) }

/-- The masks of a crew as its block restarts: the membership of the record of its lowest live thread (R300), under COUNT 0 that of the
launch; a thread that has exited is no member, and reserved bits are 0 (R170). -/
def restartMasks (ths : List (Thread × Option (List Byte))) (crew : Nat) : FMap Mask :=
  let mine := ths.filter fun e => e.1.crew == crew && !e.1.exitedB
  let live : Dword := BitVec.ofNat 64 ((mine.map fun e => 2 ^ e.1.tid).foldl (· + ·) 0)
  match mine with
  | (_, some bs) :: _ =>
    (List.range 12).map fun m => (m, { Mask.empty with mem := BitVec.ofNat 64 (fieldAt bs (0x20 + 8 * m) 8) &&& live })
  | _ => [(0, { Mask.empty with mem := live })]

/-- A block as it restarts (R300). -/
def restartBlock (l : Launch) (v : Saved) (recs : List (Option (List Byte))) : Saved :=
  let q := v.least
  let idx := v.block.bid.idx
  let old := v.threads.zip recs
  let ths := old.mapIdx fun j e => (e.1.1, e.1.2.1, restartThread l idx j q e.1.2.2 e.2)
  let both := ths.zip recs |>.map fun e => (e.1.2.2, e.2)
  let d := v.block.desc
  { block := { v.block with
      masks := (List.range d.crews).map fun k => (k, restartMasks both k), loc := Store.empty, bufs := [], bars := [], rings := [],
      binds := [], streams := [] },
    threads := ths, cores := [] }

/-- RESUME under the recompute policy: every record is read before any block restarts. -/
def State.resumeDiscarded (x : LQ) (c : Nat) : List Saved → List Saved → State → QRes
  | [], acc, s =>
    let s1 := (s.setCtx c { s.ctx c with pre := .none }).putAgain acc.reverse
    QRes.retire x { s1 with discards := FMap.del s1.discards c }
  | v :: vs, acc, s =>
    match s.launch? v.block.bid.launch with
    | none => State.resumeDiscarded x c vs acc s
    | some l =>
      readRecords c v.least (fun recs s => State.resumeDiscarded x c vs (restartBlock l v recs :: acc) s) (v.threads.map fun e => e.2.2) s []

/-- RESUME (R300): a target that was not pre-empted gives BAD_FIELD; one whose pre-emption is still in progress holds the record back until
it is complete, which no rule states (DESIGN CHOICE, log entry 56). -/
def execResume (x : PreemptArgs) (s : State) : Out :=
  sysCommand 14 (fun q lq s =>
    let c := x.ctx.toNat
    match (s.ctx c).pre with
    | .none => .fault s fcBadField
    | .halting _ _ => .stay (s.setLq q { lq with waiting := .begun })
    | .saved _ => s.resumeSaved lq c x.save.toNat
    | .discarded => State.resumeDiscarded lq c (FMap.getD s.discards c []) [] s) s

/-! ## Kill (R114, R282) -/

/-- A write of 1 to CTX_CTL.KILL halts the context; a launch record of it that waits for room is to fault. -/
def State.kill (s : State) (ctx : Nat) : State :=
  if 64 ≤ ctx || (s.ctx ctx).killing then s
  else
    let s1 := (s.setCtx ctx { s.ctx ctx with killing := true }).haltCtx ctx
    s1.lqs.foldl (fun s e =>
      match e.2.waiting with
      | .room l => if l.ctx = ctx then s.setLq e.1 { e.2 with waiting := .lost } else s
      | _ => s) s1

/-- KILL (R114). -/
def execKill (ctx : Nat) (s : State) : Out := .next (s.kill ctx)

/-- KILL_COMPLETION (R114, R282): once every gang has completed its clause, all state of the context is discarded, and its launches
count as complete without release. -/
def execKillCompletion (ctx : Nat) (s : State) : Out :=
  let x := s.ctx ctx
  if !x.killing || !s.quiet ctx then .next s
  else
    let live := s.streams.filter fun e => e.2.ctx == ctx && e.2.live
    let s1 := (live.foldl (fun s e => s.stopStream (e.1 / 16) (e.1 % 16)) s).vacate ctx
    let y : Ctx := { x with killing := false, pre := .none, toks := [], tokq := [], sentBytes := 0 }
    let fab : Fabric :=
      { s1.fab with colls := s1.fab.colls.filter (fun (e : Nat × Coll) => e.2.ctx != ctx),
                    pending := s1.fab.pending.filter fun p => p.pkt.srcctx.toNat != ctx }
    let receipts := s1.tables.receipts.filter fun e => e.1 % 64 != ctx
    .next { s1.setCtx ctx y with
      launches := s1.launches.filter fun l => l.ctx != ctx, fab := fab, tables := { s1.tables with receipts := receipts },
      saves := s1.saves.filter (fun (e : Nat × SaveArea) => e.2.ctx != ctx), discards := FMap.del s1.discards ctx,
      unplaced := s1.unplaced.filter (fun u => u.y.ctx != ctx), finals := s1.finals.filter fun v => v.block.ctx != ctx }

end Sys2Proof.Machine
end

