-- ==== Sys2Proof/Machine/Device.lean ====
section
/-! DEFINITION. The device register window (R108 to R116), resets and bring-up (R111, R112, R117 to R121), power (R115, R120), errors
(R116, R219), measurement and attestation (R395 to R397). -/

namespace Sys2Proof.Machine

/-! ## Measurement (R396) -/

/-- An entry of the measurement table. -/
def State.measured (s : State) (i : Nat) : List Byte := FMap.getD s.tables.measure i (List.replicate 32 0)

/-- Extends an entry by data. -/
def State.extend (s : State) (i : Nat) (d : List Byte) : State :=
  { s with tables := { s.tables with measure := FMap.put s.tables.measure i (sha3 (s.measured i ++ d)) } }

/-- MEASUREMENT_EXTEND (R396): Lantern firmware, which runs from stage 0x2 on, extends an entry from 4 to 15. -/
def execMeasurementExtend (i : Nat) (d : List Byte) (s : State) : Out :=
  if 4 ≤ i ∧ i ≤ 15 ∧ s.firmware then .next (s.extend i d) else .next s

/-! ## Registers as they read (R108 to R116, R375) -/

/-- DEV_ID (R110). -/
def devId : Dword := 0xAEDD0E0800000000 ||| (Config.step.setWidth 64 <<< 24)

/-- CTX_CFG as it reads (R114). -/
def State.ctxCfg (s : State) (c : Nat) : Nat :=
  let x := s.ctx c
  x.valid.toNat + 2 * x.det.toNat + 4 * x.policy.toNat + 8 * (s.busy c).toNat + 2 ^ 16 * x.fair.toNat

/-- CTX_FAULT as it reads (R114). -/
def CtxFault.bits (f : CtxFault) : Nat :=
  2 ^ 10 * f.core + 2 ^ 21 * f.slot + 2 ^ 32 * f.code + 2 ^ 45 * f.nested.toNat + 2 ^ 46 * f.more.toNat + 2 ^ 47 * f.valid.toNat

/-- CORE_STAT as it reads (R114). -/
def State.coreStat (s : State) (k : Nat) : Nat :=
  let c := s.core k
  let blocks := (s.blocks.filter fun b => (b.halfOn k).isSome).length
  c.en.toNat + 2 * (c.halt && c.gangs.isEmpty).toNat + 2 ^ 7 * c.threads.length + 2 ^ 19 * blocks + 2 ^ 25 * (c.ctx.getD 0)

/-- A device register as it reads; an offset that is not listed reads as 0 (R108, R109). -/
def State.readReg (s : State) (off : Nat) : Nat :=
  let d := s.dev
  if off % 8 ≠ 0 then 0
  else if 0x8000 ≤ off ∧ off < 0x9000 then
    let c := (off - 0x8000) / 0x40
    let x := s.ctx c
    match (off - 0x8000) % 0x40 with
    | 0x00 => s.ctxCfg c
    | 0x10 => x.tvb.toNat
    | 0x18 => x.ptb.toNat
    | 0x20 => x.fault.bits
    | 0x28 => x.fault.addr.toNat
    | _ => 0
  else if 0x100000 ≤ off ∧ off < 0x120000 then
    let k := (off - 0x100000) / 0x40
    match (off - 0x100000) % 0x40 with
    | 0x00 => (s.core k).en.toNat + 2 * (s.core k).halt.toNat
    | 0x08 => s.coreStat k
    | 0x10 => (s.core k).eccCe + 2 ^ 32 * (s.core k).eccUe
    | _ => 0
  else
    match off with
    | 0x00 => devId.toNat
    | 0x08 => d.stage + 2 ^ 16 * d.bootErr.toNat
    | 0x18 => d.bootAddr.toNat
    | 0x40 => d.offer.toNat % 2 ^ 64
    | 0x48 => d.offer.toNat / 2 ^ 64
    | 0x50 => d.accept.toNat % 2 ^ 64
    | 0x58 => d.accept.toNat / 2 ^ 64
    | 0x60 => d.featLock.toNat
    | 0x100 => 2 ^ 8 * d.coreMax + 2 ^ 32 * d.clkLock.toNat
    | 0x108 => d.clkLock.toNat + 2 ^ 8 * d.coreNow
    | 0x200 => Config.pwrClamp.toNat
    | 0x208 => d.pwrLimit.toNat
    | 0x210 => d.pwrAvg.toNat + 2 ^ 16 * d.pwrStops + 2 ^ 32 * d.pwrOver.toNat
    | 0x300 => d.errStat.toNat
    | 0x308 => d.errMask.toNat
    | 0x310 => d.errLogA.toNat
    | 0x318 => d.errLogS.toNat
    | 0x320 => d.ceSram + 2 ^ 32 * d.ceHbm
    | _ => 0

/-- What Lantern firmware reads at a Lantern local address: the register window at 0 (R108), the two fixed tables (R390, R391), the counters
of slices and ports (R416). The four words of the permission table stand in 16 bits each, as those of the log table do (log entry 84). -/
def State.lanternRead (s : State) (a : Nat) : Nat :=
  let counter (m : FMap Nat) (n o : Nat) : Nat := if o / 0x100 < n ∧ o % 0x100 < 48 ∧ o % 8 = 0 then FMap.getD m (6 * (o / 0x100) + o % 0x100 / 8) 0 else 0
  if a < 0x1000000 then s.readReg a
  else if a = 0x1000000 then
    ([Space.loc, .wbuf, .abuf, .cbuf].mapIdx fun i sp => (enginePerm sp).toNat * 2 ^ (16 * i)).foldl (· + ·) 0
  else if a = 0x1000008 then ((List.range 4).map fun i => lnsTable i * 2 ^ (16 * i)).foldl (· + ·) 0
  else if 0x2000000 ≤ a ∧ a < 0x2010000 then counter s.sliceCtr 128 (a - 0x2000000)
  else if 0x2010000 ≤ a then counter s.portCtr Config.nPorts (a - 0x2010000)
  else 0

/-! ## Resets (R111, R121) -/

/-- The device as a reset leaves it: the environment's part of the state, the host's memory and what was sent, stays, and the gate
draws the next boot nonce. -/
def State.afterReset (s : State) : State :=
  { State.reset with
    hostMem := s.hostMem, sent := s.sent, schedule := s.schedule, cur := s.cur, fresh := s.fresh, rot := s.rot,
    dev := { Dev.reset with boots := s.dev.boots + 1 } }

/-- COLD_RESET (R111). -/
def execColdReset (s : State) : Out := .next s.afterReset

/-- A warm reset: BOOT_ADDR keeps its value, and the ROM goes on at once where it is nonzero (R111, R117). -/
def State.warm (s : State) : State :=
  let t := s.afterReset
  { t with dev := { t.dev with bootAddr := s.dev.bootAddr, stage := if s.dev.bootAddr = 0 then 0 else 1 } }

/-- WARM_RESET (R110, R111). -/
def execWarmReset (s : State) : Out := .next s.warm

/-- POWER_LOSS (R121): nothing keeps its contents; a cold reset follows when the package is powered again. -/
def execPowerLoss (s : State) : Out := let t := s.afterReset; .next { t with dev := { t.dev with boots := s.dev.boots, dead := true } }

/-! ## Bring-up (R112, R117 to R119) -/

/-- A write of BOOT_ADDR: the low 12 bits are ignored, and a nonzero address lets the ROM go on. -/
def State.bootAddr (s : State) (v : Dword) : State :=
  let a := v &&& ~~~(0xFFF : Dword)
  { s with dev := { s.dev with bootAddr := a, stage := if s.dev.stage = 0 ∧ a ≠ 0 then 1 else s.dev.stage } }

/-- BOOT_ADDR_WRITE (R117). -/
def execBootAddrWrite (v : Dword) (s : State) : Out := .next (s.bootAddr v)

/-- Bring-up stops (R118). -/
def State.bootFail (s : State) (err : Half) : State := { s with dev := { s.dev with stage := 15, bootErr := err } }

/-- What the boot ROM finds of the firmware images: 0 for good ones, else the BOOT_ERR code of R118, the first in the table's order where
several hold (DESIGN CHOICE, log entry 85). -/
def imageVerdict (x : ImageArgs) : Half :=
  if !Config.mlDsaVerify x.key x.img0 x.sig0 || !Config.mlDsaVerify x.key x.img1 x.sig1 then 1
  else if sha3 x.key ≠ Config.bootKeyHash then 2
  else if Config.imageVersion x.img0 < Config.minVersion ∨ Config.imageVersion x.img1 < Config.minVersion then 3
  else 0

/-- STAGE_IMAGE (R118, R119, R395): the images are verified; good ones are measured, and the identity key is derived. -/
def execStageImage (x : ImageArgs) (s : State) : Out :=
  if s.dev.stage ≠ 1 then .next s
  else if imageVerdict x ≠ 0 then .next (s.bootFail (imageVerdict x))
  else
    let s1 := (s.extend 0 (sha3 x.img0)).extend 1 (sha3 x.img1)
    .next { s1 with tables := { s1.tables with identity := true }, dev := { s1.dev with stage := 2 } }

/-- Whether a code is a cause of failure at stage 0x2: a stack that did not train, or a fault of SRAM (R118). -/
def memoryCause (err : Half) : Bool := (decide (0x10 ≤ err.toNat) && decide (err.toNat < 0x10 + 12)) || err == 0x20

/-- Device memory after stage 0x2: zero, but for LOGSIZE in the CFG word of each queue page (R117, R276; log entry 55). -/
def bootMemory : Store := (List.range Config.nQueues).foldl (fun m q => m.putBytes (65536 * q + 8) [8]) Store.empty

/-- A core whose memories are written to zero: its registers stay as they are. No block stands on a core before READY (R117). -/
def Core.zeroed (k : Core) : Core := { k with l1 := [], ibuf := [] }

/-- STAGE_MEMORY (R117, R118): HBM is zero with valid ECC, and so is SRAM; each queue is as its page then reads, not enabled. A code that is
no cause of this stage is no event. -/
def execStageMemory (err : Half) (s : State) : Out :=
  if s.dev.stage ≠ 2 then .next s
  else if err = 0 then
    .next { s with
      mem := bootMemory, l2 := [], lqs := [], tlb := [], cores := FMap.mapVal s.cores Core.zeroed, dev := { s.dev with stage := 3 } }
  else if memoryCause err then .next (s.bootFail err)
  else .next s

/-- STAGE_LINKS (R117, R338): ports train; those that fail stay down and set LINK_DOWN. -/
def execStageLinks (ports : List TrainArgs) (s : State) : Out :=
  if s.dev.stage ≠ 3 || s.dev.links then .next s
  else
    let up := ports.filter fun p => decide (p.port < Config.nPorts)
    let s1 := up.foldl (fun s p => s.setPort p.port { Port.reset with trained := true, fast := p.fast }) s
    let down := (List.range Config.nPorts).filter fun n => !(up.any fun p => p.port == n)
    let mask : BitVec 36 := BitVec.ofNat 36 ((down.map fun n => 2 ^ n).foldl (· + ·) 0)
    let s2 := { s1 with tables := { s1.tables with portDown := mask }, dev := { s1.dev with links := true } }
    .next (if down.isEmpty then s2 else s2.err 5)

/-- The features that the AED-NE8 offers (R392). -/
def offered : BitVec 128 := 0xFFFF

/-- STAGE_OFFER (R112, R117): the offer that firmware has written is published, or every feature of the AED-NE8 where it has written none
(log entry 85), and the device waits for FEAT_CTL.LOCK, which may be set already. -/
def execStageOffer (s : State) : Out :=
  if s.dev.stage = 3 && s.dev.links then
    .next { s with dev := { s.dev with
      offer := if s.dev.offer = 0 then offered else s.dev.offer, stage := if s.dev.featLock then 5 else 4 } }
  else .next s

/-- A write of FEAT_OFFER: by Lantern firmware, before stage 0x4, and never of a reserved feature (R112, R392). -/
def State.featOffer (s : State) (hi : Bool) (v : Dword) : State :=
  let o := s.dev.offer
  let w : BitVec 128 := (if hi then v ++ o.extractLsb' 0 64 else o.extractLsb' 64 64 ++ v) &&& offered
  if s.dev.stage < 4 then { s with dev := { s.dev with offer := w } } else s

/-- A write of FEAT_ACCEPT: each bit is ANDed with the offered bit; ignored once LOCK is set (R112). -/
def State.featAccept (s : State) (hi : Bool) (v : Dword) : State :=
  let a := s.dev.accept
  let w : BitVec 128 := (if hi then v ++ a.extractLsb' 0 64 else a.extractLsb' 64 64 ++ v) &&& s.dev.offer
  if s.dev.featLock then s else { s with dev := { s.dev with accept := w } }

/-- FEAT_ACCEPT_WRITE (R112). -/
def execFeatAcceptWrite (hi : Bool) (v : Dword) (s : State) : Out := .next (s.featAccept hi v)

/-- A feature not accepted behaves as absent from LOCK on (R112, R392): DET and POLICY of each context read 0 without features 3 and 4, and a
pull plan ends without feature 9 (DEDUCED, log entry 114). -/
def State.dropFeatures (s : State) : State :=
  let has (n : Nat) : Bool := s.dev.accept.getLsbD n
  { s with
    ctxs := FMap.mapVal s.ctxs fun (x : Ctx) => { x with det := x.det && has 3, policy := x.policy && has 4 },
    fab := { s.fab with plan := if has 9 then s.fab.plan else none } }

/-- A write of 1 to FEAT_CTL.LOCK: the features are fixed and measured, and at stage 0x4 the device is ready (R10, R112, R392, R396). -/
def State.lockFeatures (s : State) : State :=
  if s.dev.featLock then s
  else
    let s1 := s.dropFeatures.extend 2 (leBytes 16 s.dev.accept.toNat)
    { s1 with dev := { s1.dev with featLock := true, stage := if s1.dev.stage = 4 then 5 else s1.dev.stage } }

/-- FEAT_LOCK (R112). -/
def execFeatLock (s : State) : Out := .next s.lockFeatures

/-! ## Clocks and power (R113 to R115) -/

/-- A value moved into a range. -/
def clampNat (lo hi v : Nat) : Nat := min (max v lo) hi

/-- Whether a deterministic context exists (R114). -/
def State.anyDet (s : State) : Bool := s.ctxs.any fun e => e.2.det && e.2.valid

/-- A write of CLK_CTL (R113, R114). -/
def State.clkCtl (s : State) (v : Dword) : State :=
  let d := s.dev
  let lock := v.getLsbD 32
  let mx := clampNat 8 24 (v.extractLsb' 8 5).toNat
  if d.clkLock && (!lock || mx != d.coreMax) && s.anyDet then s
  else { s with dev := { d with clkLock := lock, coreMax := mx, coreNow := if lock then mx else min d.coreNow mx } }

/-- CLK_CTL_WRITE (R114). -/
def execClkCtlWrite (v : Dword) (s : State) : Out := .next (s.clkCtl v)

/-- A write of PWR_LIMIT (R115). It acts at the next POWER_EVALUATION: R115 names the evaluation, and the list of steps in
95_what_each_step_holds.md has POWER_STOP within the write too (DESIGN CHOICE, log entry 96). -/
def State.pwrLimit (s : State) (v : Dword) : State :=
  { s with dev := { s.dev with pwrLimit := BitVec.ofNat 16 (clampNat 600 Config.pwrClamp.toNat (v.toNat % 2 ^ 16)) } }

/-- PWR_LIMIT_WRITE (R115). -/
def execPwrLimitWrite (v : Dword) (s : State) : Out := .next (s.pwrLimit v)

/-- Whether a thread can be stopped. -/
def Thread.going (th : Thread) : Bool := th.status != .exited && th.status != .escalated

/-- Every thread of a context that still goes escalates with POWER_STOP, the lowest core and slot first (R105, R115). What counts as an
event in STOPS no rule says: here each context that has a thread to stop is one (DESIGN CHOICE, log entry 86). -/
def State.powerStop (s : State) (ctx : Nat) : State :=
  let mine := s.cores.flatMap fun e => (e.2.threads.filter fun t => t.2.ctx == ctx && t.2.going).map fun t => (e.1, t.1)
  if mine.isEmpty then s
  else
    let s1 := mine.foldl (fun s p =>
      match s.thread? p.1 p.2 with
      | some th => s.escalate p.1 p.2 th th.hm (Flt.plain fPowerStop) (s.site p.1 th)
      | none => s) s
    let x := s1.ctx ctx
    let s2 := s1.setCtx ctx { x with tokq := x.tokq.filter fun e => match e.2 with | .thread _ _ => false | _ => true }
    ({ s2 with dev := { s2.dev with pwrStops := min (s2.dev.pwrStops + 1) 0xFFFF } }).err 9

/-- The evaluation of the package average (R115). -/
def State.evaluate (s : State) (avg : Half) : State :=
  let d := s.dev
  let high := decide (d.pwrLimit.toNat < avg.toNat)
  let low := decide (10 * avg.toNat < 9 * d.pwrLimit.toNat)
  let thr := if high then d.throttle || d.clkLock else if avg.toNat < d.pwrLimit.toNat then false else d.throttle
  let now := if d.clkLock then d.coreNow else if high then max 8 (d.coreNow - 1) else if low then min d.coreMax (d.coreNow + 1) else d.coreNow
  let s1 := { s with dev := { d with pwrAvg := avg, pwrOver := high, throttle := thr, coreNow := now } }
  if high && d.clkLock then (s1.ctxs.filter fun e => e.2.det && e.2.valid).foldl (fun s e => s.powerStop e.1) s1 else s1

/-- POWER_EVALUATION (R115). -/
def execPowerEvaluation (avg : Half) (s : State) : Out := .next (s.evaluate avg)

/-! ## Power domains (R116, R120) -/

/-- The cores of a compute die. -/
def dieCores (die : Nat) : List Nat := (List.range 256).map (256 * die + ·)

/-- A core without power. -/
def Core.off : Core := { Core.reset with powered := false, en := false }

/-- CORE_DOMAIN_POWER_DOWN (R118, R120): Lantern firmware may do so while every core of the die has EN = 0; the cores' registers are
lost. -/
def execCoreDomainPowerDown (die : Nat) (s : State) : Out :=
  if die < 8 && s.firmware && (dieCores die).all (fun c => !(s.core c).en) then
    .next ((dieCores die).foldl (fun s c => s.setCore c Core.off) s)
  else .next s

/-- CORE_DOMAIN_POWER_UP (R118, R120): Lantern firmware powers the cores up, and they come back in their reset state; after THERM_TRIP only a
warm reset restores them (R116). -/
def execCoreDomainPowerUp (die : Nat) (s : State) : Out :=
  if die < 8 && s.firmware && !s.dev.tripped then
    .next ((dieCores die).foldl (fun s c => if (s.core c).powered then s else { s with cores := FMap.del s.cores c }) s)
  else .next s

/-- THERM_TRIP (R116): every context is halted and the core domains are powered down. -/
def execThermTrip (s : State) : Out :=
  let s1 := s.ctxs.foldl (fun s e => s.haltCtx e.1) s
  let s2 := ((List.range 8).flatMap dieCores).foldl (fun s c => s.setCore c Core.off) s1
  .next (({ s2 with dev := { s2.dev with tripped := true }, blocks := [] } : State).err 7)

/-- THERM_WARN (R116). -/
def execThermWarn (s : State) : Out := .next (s.err 6)

/-- LANTERN_WD (R116). -/
def execLanternWd (s : State) : Out := .next (s.err 8)

/-! ## Contexts and cores (R114, R375) -/

/-- A write of CTX_CFG (R114, R392); a context that is created has no tokens and no operation numbers (R356, R408). -/
def State.ctxCfgWrite (s : State) (i : Nat) (v : Dword) : State :=
  let x := s.ctx i
  let f := (v.extractLsb' 16 8)
  let x1 := { x with fair := if f = 0 then 1 else f }
  if 64 ≤ i then s
  else if s.busy i then s.setCtx i x1
  else
    let x2 := { x1 with valid := v.getLsbD 0, det := v.getLsbD 1 && !s.lacksFeature 3, policy := v.getLsbD 2 && !s.lacksFeature 4 }
    s.setCtx i (if !x.valid && x2.valid then { x2 with toks := [], opnum := [], failed := [] } else x2)

/-- CTX_CFG_WRITE (R114). -/
def execCtxCfgWrite (i : Nat) (v : Dword) (s : State) : Out := .next (s.ctxCfgWrite i v)

/-- A write of CTX_FAULT: a 1 to VALID clears VALID and MORE (R114). -/
def State.faultClear (s : State) (i : Nat) (v : Dword) : State :=
  let x := s.ctx i
  if v.getLsbD 47 && decide (i < 64) then s.setCtx i { x with fault := { x.fault with valid := false, more := false } } else s

/-- CTX_FAULT_CLEAR (R114). -/
def execCtxFaultClear (i : Nat) (v : Dword) (s : State) : Out := .next (s.faultClear i v)

/-- A write of CORE_CTL: EN is cleared only on a core with no resident block (R114). No rule says what a write does to a core whose domain is
powered down: here it is ignored (DESIGN CHOICE, log entry 104). -/
def State.coreCtl (s : State) (i : Nat) (v : Dword) : State :=
  let k := s.core i
  if Config.nCores ≤ i || !k.powered then s
  else s.setCore i { k with halt := v.getLsbD 1, en := v.getLsbD 0 || (k.en && !s.emptyCore i) }

/-- CORE_CTL_WRITE (R114). -/
def execCoreCtlWrite (i : Nat) (v : Dword) (s : State) : Out := .next (s.coreCtl i v)

/-- A write of CTX_TVB or CTX_PTB: ignored while the context is busy (R375). -/
def State.tableBase (s : State) (i : Nat) (ptb : Bool) (v : Dword) : State :=
  let x := s.ctx i
  if s.busy i then s
  else if ptb then
    let s1 := s.setCtx i { x with ptb := v &&& 0x000FFFFFFFFF0001 }
    { s1 with tlb := s1.tlb.filter fun e => e.ctx != i }
  else s.setCtx i { x with tvb := v &&& 0x000FFFFFFFFFF000 }

/-! ## Errors (R116, R219) -/

/-- A write of ERR_STAT clears the bits that are 1 in it. -/
def State.errClear (s : State) (v : Dword) : State := { s with dev := { s.dev with errStat := s.dev.errStat &&& ~~~v } }

/-- ERR_STAT_CLEAR (R116). -/
def execErrStatClear (v : Dword) (s : State) : Out := .next (s.errClear v)

/-- A write of ERR_CE sets both counts. -/
def State.errCe (s : State) (v : Dword) : State :=
  { s with dev := { s.dev with ceHbm := v.toNat / 2 ^ 32, ceSram := v.toNat % 2 ^ 32 } }

/-- ERR_CE_WRITE (R116). -/
def execErrCeWrite (v : Dword) (s : State) : Out := .next (s.errCe v)

/-- The 64-bit words of an HBM ECC word, whose size the manual leaves to the part (log entry 28). -/
def eccWords (pa n : Nat) : List Nat := (List.range n).map (pa / 8 + ·)

/-- The block that stands at a position among those of a core. -/
def State.blockOn (s : State) (c n : Nat) : Option Block := (s.blocks.filter fun b => (b.halfOn c).isSome)[n]?

/-- Logs the first uncorrectable error (R116). -/
def State.logError (s : State) (addr : Dword) (kind source : Nat) : State :=
  let d := s.dev
  if d.errStat.getLsbD 4 || d.errStat.getLsbD 3 || d.errStat.getLsbD 1 then s
  else { s with dev := { d with errLogA := addr, errLogS := BitVec.ofNat 64 (kind * 2 ^ 16 + source) } }

/-- An error of a core's memory is logged, reported and counted. It has no device physical address, and ERR_LOGA takes a free value
(log entry 29). -/
def State.sramError (s : State) (c : Nat) : State :=
  let free : Dword := BitVec.ofNat 64 (leNat ((List.range 8).map fun i => Config.freeByte (s.fresh + i)))
  let s1 := ({ s with fresh := s.fresh + 8 }.logError free 1 c).err 1
  let k := s1.core c
  s1.setCore c { k with eccUe := min (k.eccUe + 1) 0xFFFFFFFF }

/-- A 64-bit word of HBM becomes poison. Under a sector of L2 it is HBM's word that does; it shows where L2 does not hold the word (R199,
R219). -/
def State.markHbm (s : State) (w : Nat) : State :=
  match FMap.find? s.l2 (w / 8) with
  | none => { s with mem := s.mem.mark w }
  | some x =>
    let s1 := { s with l2 := FMap.put s.l2 (w / 8) { x with bad := if x.bad.contains (w % 8) then x.bad else w % 8 :: x.bad } }
    if x.filled || x.mask.extractLsb' (8 * (w % 8)) 8 == 0xFF#8 then s1 else { s1 with mem := s1.mem.mark w }

/-- Marks the 64-bit word of a cached line. -/
def Line.mark (x : Line) (off : Nat) : Line :=
  { x with poison := (List.range 64).filter fun i => x.poison.contains i || i / 8 == off / 8 }

/-- Whether a core holds a part of a block's buffer: a half of the `loc` of a twin block, else what the half owns (R18, R192). -/
def Block.holdsByte (b : Block) (c : Nat) (sp : Space) (a : Nat) : Bool :=
  decide (a < b.desc.alloc sp) && (!(b.desc.twin && sp == .loc) || (decide (b.desc.loc / 2 ≤ a) == (b.half c == 1)))

/-- UNCORRECTABLE_ERROR (R116, R219): the data becomes poison. -/
def execUncorrectableError (p : ErrPlace) (s : State) : Out :=
  match p with
  | .hbm pa n =>
    if Config.hbmBytes ≤ pa then .next s
    else
      let s1 := (s.logError (BitVec.ofNat 64 pa) 3 (stackOf pa)).err 3
      .next ((eccWords pa n).foldl State.markHbm s1)
  | .l2 pa =>
    if Config.hbmBytes ≤ pa then .next s
    else
      let s1 := (s.logError (BitVec.ofNat 64 pa) 2 (sliceOf pa)).err 4
      .next (if (FMap.find? s1.l2 (pa / 64)).isSome then { s1 with mem := s1.mem.mark (pa / 8) } else s1)
  | .l1 c pa =>
    let s1 := s.sramError c
    let k := s1.core c
    .next (match FMap.find? k.l1 (pa / 64) with
      | some x => s1.setCore c { k with l1 := FMap.put k.l1 (pa / 64) (x.mark (pa % 64)) }
      | none => s1)
  | .ib c va =>
    let s1 := s.sramError c
    let k := s1.core c
    .next (match FMap.find? k.ibuf (ibKey (BitVec.ofNat 64 va)) with
      | some x => s1.setCore c { k with ibuf := FMap.put k.ibuf (ibKey (BitVec.ofNat 64 va)) { x with poison := va % 128 / 8 :: x.poison } }
      | none => s1)
  | .buf c n sp a =>
    let s1 := s.sramError c
    .next (match s1.blockOn c n with
      | some b => if b.holdsByte c sp a then s1.setBlock (b.setStore (b.half c) sp ((b.store (b.half c) sp).mark (a / 8))) else s1
      | none => s1)

/-- CORRECTED_ERROR (R116, R416). -/
def execCorrectedError (p : ErrPlace) (s : State) : Out :=
  let d := s.dev
  let sram : State := { s with dev := { d with ceSram := min (d.ceSram + 1) 0xFFFFFFFF } }
  match p with
  | .hbm _ _ => .next (({ s with dev := { d with ceHbm := min (d.ceHbm + 1) 0xFFFFFFFF } } : State).err 2)
  | .l2 _ => .next sram
  | .l1 c _ | .ib c _ | .buf c _ _ _ =>
    let k := sram.core c
    .next ((sram.setCore c ({ k with eccCe := min (k.eccCe + 1) 0xFFFFFFFF }.bump 9 1)).err 0)

/-! ## Attestation (R397) -/

/-- The bytes of a report that are signed. -/
def State.reportBytes (s : State) (nonce : List Byte) : List Byte :=
  leBytes 8 1 ++ leBytes 8 devId.toNat ++ leBytes 8 Config.serial.toNat ++ leBytes 32 (Config.bootNonce s.dev.boots).toNat ++ nonce ++
    leBytes 16 s.dev.accept.toNat ++ ((List.range 16).flatMap s.measured) ++ sha3 Config.identityKey

/-- ATTESTATION_REPORT (R395, R397): the identity unit, which has its key from stage 0x1 on, signs a report for Lantern firmware; after a
failure of bring-up no firmware runs (R118). -/
def execAttestationReport (nonce : List Byte) (s : State) : Out :=
  if s.tables.identity && s.dev.stage ≠ 15 && nonce.length == 32 then
    let b := s.reportBytes nonce
    .next { s with sent := { s.sent with reports := s.sent.reports ++ [b ++ leBytes 2420 (Config.mlDsaSign b).toNat] } }
  else .next s

/-! ## REGISTER_WRITE (R108, R109) -/

/-- A write to a context's registers. -/
def State.writeCtxReg (s : State) (c off : Nat) (v : Dword) : State :=
  match off with
  | 0x00 => s.ctxCfgWrite c v
  | 0x08 => if v.getLsbD 0 then s.kill c else s
  | 0x10 => s.tableBase c false v
  | 0x18 => s.tableBase c true v
  | 0x20 => s.faultClear c v
  | _ => s

/-- A write to a core's registers. -/
def State.writeCoreReg (s : State) (k off : Nat) (v : Dword) : State :=
  match off with
  | 0x00 => s.coreCtl k v
  | 0x10 => s.setCore k { s.core k with eccCe := v.toNat % 2 ^ 32, eccUe := v.toNat / 2 ^ 32 }
  | _ => s

/-- REGISTER_WRITE (R108): an aligned write to the window; offsets not listed, and read-only registers, ignore it. R109 lists the writers of
each register and says nothing of a write by another agent: it is taken like theirs (DESIGN CHOICE, log entry 87). -/
def execRegisterWrite (off : Nat) (v : Dword) (s : State) : Out :=
  if off % 8 ≠ 0 then .next s
  else if 0x8000 ≤ off ∧ off < 0x9000 then .next (s.writeCtxReg ((off - 0x8000) / 0x40) ((off - 0x8000) % 0x40) v)
  else if 0x100000 ≤ off ∧ off < 0x120000 then .next (s.writeCoreReg ((off - 0x100000) / 0x40) ((off - 0x100000) % 0x40) v)
  else
    .next (match off with
    | 0x10 => if v.extractLsb' 0 16 = 0xA5E7 then s.warm else s
    | 0x18 => s.bootAddr v
    | 0x40 => s.featOffer false v
    | 0x48 => s.featOffer true v
    | 0x50 => s.featAccept false v
    | 0x58 => s.featAccept true v
    | 0x60 => if v.getLsbD 0 then s.lockFeatures else s
    | 0x100 => s.clkCtl v
    | 0x208 => s.pwrLimit v
    | 0x300 => s.errClear v
    | 0x308 => { s with dev := { s.dev with errMask := v &&& 0x7FF } }
    | 0x320 => s.errCe v
    | _ => s)

end Sys2Proof.Machine
end

