-- ==== Sys2Proof/Machine/Belfry.lean ====
section
/-! DEFINITION. Links that train (R338), the Belfry: lost links, heartbeats, suspicion and notices (R365 to R368), and the timeout of
requests (R345). -/

namespace Sys2Proof.Machine

/-! ## Notices (R365, R366) -/

/-- The record of a notice. -/
def noticeBytes (src : Half) (n : Notice) : List Byte :=
  leBytes 2 src.toNat ++ leBytes 1 n.kind ++ leBytes 1 n.port ++ leBytes 2 n.peer.toNat ++ leBytes 2 n.gen.toNat ++ leBytes 8 n.nseq ++
    leBytes 8 n.susp ++ leBytes 8 0

/-- KIND values of a notice. -/
def nLinkDown : Nat := 1
def nLinkUp : Nat := 2
def nSuspect : Nat := 3
def nClear : Nat := 4
def nReady : Nat := 5

/-- The packet that carries a notice to the mailbox (log entry 41). -/
def State.noticePacket (s : State) (c : BelfryCfg) (n : Notice) : Packet :=
  { Packet.blank with
    kind := kNotice, dcount := 1, chan := 3, fcls := 3, dstdev := c.mbxDev, srcdev := s.tables.fabid, pkey := c.mbxKey,
    offset := c.mbxOff.setWidth 64, opb := BitVec.ofNat 64 c.mbxLog.toNat,
    data := noticeBytes s.tables.fabid n ++ List.replicate 32 0 }

/-- A notice to both Lanterns and, where one is configured, to the mailbox. -/
def State.notice (s : State) (kind port : Nat) (peer : Half) (susp : Nat) : State :=
  let n : Notice := { kind := kind, port := port, peer := peer, gen := s.tables.gen, nseq := s.fab.nseq + 1, susp := susp }
  let s1 := { s with fab := { s.fab with nseq := s.fab.nseq + 1 }, sent := { s.sent with notices := s.sent.notices ++ [n] } }
  match s1.tables.belfry with
  | some c => s1.sendPacket (s1.noticePacket c n)
  | none => s1

/-- NOTICE_RECEIVE (R366): the mailbox device writes the record. -/
def execNoticeReceive (p : Packet) (s : State) : Out :=
  .next (s.takeIn p fun s =>
    if p.kind != kNotice then s
    else
      s.takeRequest p)

/-! ## Links (R338, R365) -/

/-- LINK_TRAIN (R338): a port that is down trains, and its notice is sent (log entry 42). -/
def execLinkTrain (x : TrainArgs) (s : State) : Out :=
  if !portOk x.port || (s.port x.port).trained || !s.dev.links then .next s
  else
    let lost := (s.port x.port).lost
    .next ((s.setPort x.port { Port.reset with trained := true, fast := x.fast, lost := lost }).notice nLinkUp x.port 0 0).flushHeld

/-- What waited at a port's egress waits for another path. -/
def State.unpin (s : State) (n : Nat) : State :=
  let held := s.fab.heldBack.map fun (e : Nat × Packet) => if e.1 = n then (noPort, e.2) else e
  { s with fab := { s.fab with heldBack := held } }

/-- BELFRY_LINK_DETECT (R365): a lost link is reported, and its port leaves every path. -/
def execBelfryLinkDetect (n : Nat) (s : State) : Out :=
  let x := s.port n
  if !portOk n || !x.lost then .next s
  else
    let s1 := (s.setPort n { x with lost := false }).err 5
    let s2 := { s1 with tables := { s1.tables with portDown := s1.tables.portDown ||| ((1 : BitVec 36) <<< n) } }
    .next ((s2.unpin n).notice nLinkDown n 0 0).flushHeld

/-! ## Heartbeats (R367) -/

/-- The configured peers, without repeats. -/
def belfryPeers (c : BelfryCfg) : List Half := (c.peers.filter (· ≠ 0xFFFF)).eraseDups

/-- A heartbeat. -/
def State.heartbeat (s : State) (dev : Half) : Packet :=
  { Packet.blank with kind := kHeartbeat, chan := 3, fcls := 3, dstdev := dev, srcdev := s.tables.fabid }

/-- A peer's suspicion counter rises, saturating, and at THRESH raises SUSPECT once for the episode. The device has one counter for a peer,
which the Belfries of both I/O dies advance (R337, R399; log entry 62). -/
def State.suspect (s : State) (thresh : Nat) (dev : Half) : State :=
  let v := min (FMap.getD s.fab.susp dev.toNat 0 + 1) 255
  let s1 := { s with fab := { s.fab with susp := FMap.put s.fab.susp dev.toNat v } }
  if v < thresh || s1.fab.suspected.contains dev.toNat then s1
  else { s1 with fab := { s1.fab with suspected := dev.toNat :: s1.fab.suspected } }.notice nSuspect 0xFF dev v

/-- BELFRY_INTERVAL (R367): an interval of I × 4,096 cycles of an I/O die's Belfry ends. -/
def execBelfryInterval (io : Nat) (s : State) : Out :=
  match s.tables.belfry with
  | none => .next s
  | some c =>
    if 2 ≤ io then .next s
    else
      let s1 := { s with fab := { s.fab with intervals := FMap.put s.fab.intervals io (FMap.getD s.fab.intervals io 0 + 1) } }
      .next ((belfryPeers c).foldl (fun s d => (s.sendPacket (s.heartbeat d)).suspect c.thresh.toNat d) s1)

/-- A heartbeat reaches the Belfry: the peer's counter is 0, and a suspicion raised is cleared. -/
def State.beat (s : State) (dev : Half) : State :=
  let was := s.fab.suspected.contains dev.toNat
  let s1 := { s with fab := { s.fab with susp := FMap.put s.fab.susp dev.toNat 0, suspected := s.fab.suspected.erase dev.toNat } }
  if was then s1.notice nClear 0xFF dev 0 else s1

/-- HEARTBEAT_RECEIVE (R367, R416): a heartbeat arrives, as any packet does; that of a configured peer counts whatever its generation;
before LOCK none does (R112, log entry 80). -/
def execHeartbeatReceive (p : Packet) (s : State) : Out :=
  .next (s.takeIn p fun t =>
    let peers := (t.tables.belfry.map belfryPeers).getD []
    if p.kind == kHeartbeat && t.dev.featLock && peers.contains p.srcdev then t.beat p.srcdev else t)

end Sys2Proof.Machine
end

