-- ==== Sys2Proof/Machine/Recast.lean ====
section
/-! DEFINITION. Recast: serving stripes of snapshot views (R369, R385, R388), and pulling a plan (R370 to R373). -/

namespace Sys2Proof.Machine

/-! ## Serving (R369, R385, R388) -/

/-- The bytes of a stripe packet's data: 512, as a chunk's piece (log entry 43). -/
def stripePiece : Nat := 512

/-- Reads FRAME of each leaf of a view's region from an address on; none where a walk does not end at a 64 KiB device memory leaf with
SNAP = 1 (R385). Bytes with the offsets of poisoned ones. -/
def State.readView (s : State) (ctx : Nat) (va : Dword) (off : Nat) : Nat → Option (List Byte × List Nat × State)
  | 0 => some ([], [], s)
  | n + 1 =>
    match s.walk ctx va.toNat with
    | .leaf l =>
      if !l.page || !pteSnap l.entry then none
      else
        let pa := pteFrame l.entry * 65536
        match State.readView ((s.walked ctx va).l2Read pa 65536) ctx (va + 65536) (off + 65536) n with
        | some r => some (s.mem.readBytes pa 65536 ++ r.1, (s.mem.badOffsets pa 65536).map (off + ·) ++ r.2.1, r.2.2)
        | none => none
    | _ => none

/-- The mask of the poisoned words of a piece, by 64-bit word. -/
def stripeMask (bad : List Nat) (off : Nat) : Nat :=
  (List.range 64).foldl (fun m i => if bad.any fun b => b / 8 == off / 8 + i then m + 2 ^ i else m) 0

/-- The packets of a stripe: its pieces, and the digest last (log entry 43). -/
def stripePackets (p : Packet) (bs : List Byte) (bad : List Nat) : List Packet :=
  let base : Packet := { p.answer 0 0 with kind := kStripe, chan := 2, fcls := 3 }
  (List.range (bs.length / stripePiece)).map (fun i =>
    { base with
      dcount := 8, offset := BitVec.ofNat 64 (i * stripePiece), opc := BitVec.ofNat 64 (stripeMask bad (i * stripePiece)),
      data := (bs.drop (i * stripePiece)).take stripePiece }) ++
    [{ base with dcount := 1, offset := BitVec.ofNat 64 bs.length, data := sha3 bs ++ List.replicate 32 0 }]

/-- What serving a stripe request gives. -/
inductive StripeServed
  | refuse (status : Nat)
  | send (ctx : Nat) (bs : List Byte) (bad : List Nat) (s : State)

/-- Serves a stripe request: PERM without a context, or for another context's view; ABSENT where no view holds the stripe. -/
def State.serveStripe (s : State) (p : Packet) : StripeServed :=
  match s.ingressOf p.pkey with
  | none => .refuse stPerm
  | some e =>
    let w := FMap.getD s.tables.views (p.opc.toNat % 64) View.reset
    let off := p.offset.toNat
    let len := p.opb.toNat
    if s.lacksFeature 8 || !w.valid then .refuse stAbsent
    else if w.ctx ≠ e.ctx then .refuse stPerm
    else if off % 65536 ≠ 0 || len % 65536 ≠ 0 || decide (w.len.toNat < off + len) then .refuse stAbsent
    else
      match s.readView w.ctx (w.base + BitVec.ofNat 64 off) 0 (len / 65536) with
      | none => .refuse stAbsent
      | some r => .send w.ctx r.1 r.2.1 r.2.2

/-- Whether a walk or a read that serving a stripe request makes must wait for an engine that owns a line (R237). -/
def State.stripeHeld (s : State) (p : Packet) : Bool :=
  let w := FMap.getD s.tables.views (p.opc.toNat % 64) View.reset
  w.valid && (List.range (p.opb.toNat / 65536)).any fun i =>
    let va := w.base + BitVec.ofNat 64 (p.offset.toNat + 65536 * i)
    s.walkHeld w.ctx va || (match s.walk w.ctx va.toNat with | .leaf l => s.agentHeld false (pteFrame l.entry * 65536) 65536 | _ => false)

/-- STRIPE_REQUEST (R369): the stripe is sent with its digest, or the refusal; packets beyond the rate of the view's context wait for its
bucket (R388). It waits while an engine owns a line that its walks read. -/
def execStripeRequest (p : Packet) (s : State) : Out :=
  if p.kind == kStripe && p.opb.toNat ≤ 2 ^ 26 && s.stripeHeld p then .next s
  else
  .next (s.takeIn p fun s =>
    if p.kind != kStripe || p.oper != oStripe then s
    else
      match s.serveStripe p with
      | .refuse st => s.sendPacket { p.answer st 0 with fcls := 3 }
      | .send ctx bs bad s1 =>
        let ps := stripePackets p bs bad
        ps.foldl (fun s q => s.sendRated ctx q) s1)

/-! ## A pull plan (R370) -/

/-- A stripe record. -/
structure Stripe where
  dst : Dword
  devs : List Half
  view : Nat
  off : Nat
  len : Nat
  state : Nat
  attempts : Nat
  deriving DecidableEq, Repr

/-- The address of a stripe record. -/
def Plan.at (p : Plan) (i : Nat) : Nat := p.pa + 64 + 64 * i

/-- A stripe record as device memory holds it; none for one that is poisoned or lies beyond device memory (log entry 44). Bits
[63:16] of the view word are those bits of the offset, whose other bits are 0 (log entry 48). -/
def State.stripe (s : State) (p : Plan) (i : Nat) : Option Stripe :=
  let a := p.at i
  if Config.hbmBytes < a + 64 || (s.mem.firstBad a 64).isSome then none
  else
    let f (o n : Nat) := s.mem.readNat (a + o) n
    some {
      dst := BitVec.ofNat 64 (f 0 8), devs := ((List.range 4).map fun k => BitVec.ofNat 16 (f (8 + 2 * k) 2)).filter (· ≠ 0xFFFF),
      view := f 0x10 8 % 64, off := f 0x10 8 / 65536 * 65536, len := f 0x18 8, state := f 0x20 1, attempts := f 0x21 1 }

/-- Whether the records of a plan must wait for an engine that owns their lines, or for translations in use (R237, R380). -/
def State.planHeld (s : State) (p : Plan) : Bool := s.agentHeld true p.pa (64 + 64 * p.count)

/-- The wait. -/
def State.planWait (s : State) (p : Plan) : State := s.noteRecall noSkip p.pa (64 + 64 * p.count)

/-- A record is in form: the length is a multiple of 64 KiB, at most 64 MiB. -/
def Stripe.ok (r : Stripe) : Bool := r.len % 65536 == 0 && decide (r.len ≤ 2 ^ 26)

/-- Writes a record's status word, after the record has been read. -/
def State.stripeStatus (s : State) (p : Plan) (i state attempts dev : Nat) : State :=
  (s.l2Read (p.at i) 64).putWord (p.at i + 0x20) 4 (state + 2 ^ 8 * (attempts % 256) + 2 ^ 16 * dev)

def State.setPlan (s : State) (p : Plan) : State := { s with fab := { s.fab with plan := some p } }

/-- READY once every stripe is done (R373). -/
def State.checkReady (s : State) : State :=
  match s.fab.plan with
  | none => s
  | some p =>
    if !p.ready && (List.range p.count).all (fun i => match s.stripe p i with | some r => r.state == 1 | none => false) then
      (s.setPlan { p with ready := true }).notice nReady 0xFF 0 0
    else s

/-- Starts a plan (R370); one of no stripes has every stripe done (R373). -/
def State.startPlan (s : State) (pa : Nat) : State :=
  let h := s.mem.readNat pa 8
  if (s.mem.firstBad pa 8).isSome then s.l2Read pa 8
  else
    let p : Plan :=
      { pa := pa, count := h % 2 ^ 32, ctx := h / 2 ^ 32 % 64, running := [], tried := [], ready := false, waiting := [] }
    ((s.l2Read pa 8).setPlan p).checkReady

/-- A stripe is marked done or failed, with the device used. -/
def State.endStripe (s : State) (i state : Nat) (dev : Half) : State :=
  match s.fab.plan with
  | none => s
  | some p =>
    match s.stripe p i with
    | none => s
    | some r => (s.stripeStatus p i state r.attempts dev.toNat).checkReady

/-- The devices tried for a stripe. -/
def Plan.triedFor (p : Plan) (i : Nat) : List Half := FMap.getD p.tried i []

/-- The source of the next attempt: an untried one with the fewest stripes in flight, the earliest named on ties (R371). -/
def Plan.source (p : Plan) (i : Nat) (devs : List Half) : Option Half :=
  let load (d : Half) : Nat := (p.running.filter fun r => r.dev == d).length
  (devs.filter fun d => !(p.triedFor i).contains d).foldl (fun b d =>
    match b with
    | none => some d
    | some e => if load d < load e then some d else b) none

/-- An attempt has failed: the stripe is marked failed when every device that its record names has been tried. -/
def State.failAttempt (s : State) (i : Nat) (dev : Half) : State :=
  match s.fab.plan with
  | none => s
  | some p =>
    let p1 := { p with running := p.running.filter fun r => r.i ≠ i }
    let s1 := s.setPlan p1
    match s1.stripe p1 i with
    | none => s1
    | some r => if (p1.source i r.devs).isNone then s1.endStripe i 2 dev else s1

/-- The request of an attempt (R369; log entry 43). -/
def State.stripePacket (s : State) (p : Plan) (r : Stripe) (dev : Half) : Packet × State :=
  let f := s.flowNext dev p.ctx 3
  ({ Packet.blank with
      kind := kStripe, chan := 2, fcls := 3, dstdev := dev, srcdev := s.tables.fabid, pkey := (s.egress p.ctx).pkey, seq := f.1,
      srcctx := BitVec.ofNat 6 p.ctx, tag := BitVec.ofNat 32 s.fab.nextTag, opcode := BitVec.ofNat 32 oStripe,
      offset := BitVec.ofNat 64 r.off, opb := BitVec.ofNat 64 r.len, opc := BitVec.ofNat 64 r.view }, f.2)

/-- STRIPE_ATTEMPT (R371): a pending stripe asks a source; without one, or with a record out of form, it is marked failed. -/
def execStripeAttempt (i : Nat) (s : State) : Out :=
  match s.fab.plan with
  | none => .next s
  | some p =>
    if s.planHeld p then .next (s.planWait p)
    else
    match s.stripe p i with
    | none => .next s
    | some r =>
      if p.count ≤ i || r.state ≠ 0 || p.running.any (fun x => x.i == i) || p.waiting.any (fun x => x.i == i) then .next s
      else if !r.ok then .next (s.endStripe i 2 0xFFFF)
      else
        match p.source i r.devs with
        | none => .next (s.endStripe i 2 0xFFFF)
        | some dev =>
          if Config.stripesInFlight ≤ p.running.length || s.rateHolds p.ctx 64 then .next s
          else
            let run : StripeRun := { i := i, dev := dev, tag := s.fab.nextTag % 2 ^ 32 }
            let p1 := { p with running := p.running ++ [run], tried := FMap.put p.tried i (dev :: p.triedFor i) }
            let s1 := (s.setPlan p1).stripeStatus p i 0 (r.attempts + 1) dev.toNat
            if !s.egressOk p.ctx dev then .next (s1.failAttempt i dev)
            else
              let q := s1.stripePacket p r dev
              let s2 := { q.2 with fab := { q.2.fab with nextTag := q.2.fab.nextTag + 1 } }
              .next ((s2.charge p.ctx (64 * q.1.flits)).sendPacket q.1)

/-- The landing of a verified stripe that waits: done, failed at once, or still waiting (R372). -/
def State.landStripe (s : State) (x : Landing) (dev : Half) : State :=
  match s.fab.plan with
  | none => s
  | some p =>
    let rest := p.waiting.filter fun y => y.i ≠ x.i
    let done (s : State) (st : Nat) : State := (s.setPlan { p with waiting := rest }).endStripe x.i st dev
    let wait (s : State) (missed : Option Dword) : State := s.setPlan { p with waiting := rest ++ [{ x with missed := missed }] }
    if s.planHeld p then wait (s.planWait p) x.missed
    else
    match s.stripe p x.i with
    | none => s.setPlan { p with waiting := rest }
    | some r =>
      match s.agentWrite p.ctx r.dst x.bytes x.bad false with
      | .ok s1 => done s1 1
      | .held s1 => wait (s.withRecalls s1) x.missed
      | .divert va => wait ((s.walked p.ctx va).noteDivert 0 1 p.ctx va) x.missed
      | .miss va ea => if x.missed = some va then wait s x.missed else (wait (s.walked p.ctx va) (some va)).requestReplay 0 false 1 p.ctx va ea
      | .fail va _ => done (s.walked p.ctx va) 2

/-- The device that a record names as used. -/
def State.stripeUsed (s : State) (p : Plan) (i : Nat) : Half := BitVec.ofNat 16 (s.mem.readNat (p.at i + 0x22) 2)

/-- Tries the landings that wait, or the one of a stripe. -/
def State.landWaiting (s : State) (only : Option Nat) : State :=
  match s.fab.plan with
  | none => s
  | some p =>
    (p.waiting.filter fun (x : Landing) => match only with | some i => x.i == i | none => true).foldl
      (fun s x => s.landStripe x (s.stripeUsed p x.i)) s

/-- The packets that answer a stripe request have arrived (R341, R416; log entry 43). -/
def State.stripeCame (s : State) (x : StripeArgs) : State := x.packets.foldl (fun s q => s.takeIn q id) s

/-- STRIPE_RECEIVE (R371, R372): the arrival at an attempt in flight: the digest is verified before anything is written. Unsound
packets are not acted on (R340). -/
def execStripeReceive (x : StripeArgs) (s : State) : Out :=
  match s.fab.plan with
  | none => .next (s.stripeCame x)
  | some p =>
    match p.running.find? fun (r : StripeRun) => r.i == x.i && r.dev == x.dev with
    | none => .next (s.stripeCame x)
    | some _ =>
      if s.planHeld p then .next (s.planWait p)
      else
      let s0 := s.stripeCame x
      match if x.packets.all Packet.sound then s0.stripe p x.i else none with
      | none => .next s0
      | some r =>
        if x.status.toNat ≠ stOk || x.bytes.length ≠ r.len || sha3 x.bytes ≠ x.digest then .next (s0.failAttempt x.i x.dev)
        else
          let p1 := { p with running := p.running.filter fun (y : StripeRun) => y.i ≠ x.i }
          .next ((s0.setPlan p1).landStripe { i := x.i, bytes := x.bytes, bad := x.bad, missed := none } x.dev)

/-! ## Timeouts (R345) -/

/-- REQUEST_TIMEOUT (R345): a request without a response fails with ABSENT. -/
def execRequestTimeout (tag : Word) (s : State) : Out :=
  match s.fab.plan.bind fun p => (p.running.find? fun (r : StripeRun) => r.tag == tag.toNat).map fun r => (p, r) with
  | some (p, r) => .next (if s.planHeld p then s.planWait p else s.failAttempt r.i r.dev)
  | none => .next (s.endRemote tag.toNat stAbsent 0)

end Sys2Proof.Machine
end

