-- ==== Sys2Proof/Machine/Walkers.lean ====
section
/-! DEFINITION. Walkers: replayed walks (R379) and the diversion of snapshot pages (R382, R383). -/

namespace Sys2Proof.Machine

/-- Whether a walk waits for an engine that owns a line of the tables (R237), or still ends at a replayable miss. -/
def State.missing (s : State) (ctx : Nat) (va : Dword) : Bool :=
  s.walkHeld ctx va ||
  match s.walk ctx va.toNat with
  | .absent rpl _ => rpl
  | _ => false

/-- A walk that is made again reads its entries, unless an engine owns a line of them (R237, R376). -/
def State.rewalk (s : State) (ctx : Nat) (va : Dword) : State := if s.walkHeld ctx va then s else s.walked ctx va

/-- REPLAY_WALK (R379): a walk for one that waits; when it no longer ends at a replayable miss the access is made again, and fails
where the walk does. -/
def execReplayWalk (w : Walker) (s : State) : Out :=
  match w with
  | .thread c t =>
    match s.thread? c t with
    | some th =>
      (match th.status with
       | .parked (.xlate va _) => if s.missing th.ctx va then .next (s.rewalk th.ctx va) else .next ((s.rewalk th.ctx va).wake c t)
       | _ => .next s)
    | none => .next s
  | .stream l k =>
    let y := s.stream l k
    match y.stalled with
    | some va => if s.missing y.ctx va then .next (s.rewalk y.ctx va) else .next ((s.rewalk y.ctx va).setStream l k { y with stalled := none })
    | none => .next s
  | .queue q =>
    let x := s.lq q
    match x.missed with
    | some (ctx, va) => if s.missing ctx va then .next (s.rewalk ctx va) else .next ((s.rewalk ctx va).setLq q { x with missed := none })
    | none => .next s
  | .coll k =>
    match s.coll? k with
    | some o =>
      (match o.stalled with
       | some va => if s.missing o.ctx va then .next (s.rewalk o.ctx va) else .next ((s.rewalk o.ctx va).setColl k { o with stalled := none })
       | none => .next s)
    | none => .next s
  | .stripe i => .next (s.landWaiting (some i))
  | .remote => .next (s.serveRequests (3 * s.fab.reorder.length))

/-! ## Diversion (R382, R383) -/

/-- Whether a byte of device memory keeps what it holds under a write of an agent that is neither the host nor a Lantern: one reserved, or of a
queue's CFG word (R11, R276, R277, R383). -/
def keepsByte (pa : Nat) : Bool := isPageZero pa || isPoolZero pa || isCfgByte pa

/-- Copies `n` bytes of device memory; poison moves with its words. Both addresses are multiples of 8. -/
def Store.copyRange (m : Store) (a b n : Nat) : Store :=
  let from_ := m.cells.filter fun e => decide (a ≤ e.1) && decide (e.1 < a + n) && !keepsByte (b + (e.1 - a))
  let kept := m.cells.filter fun e => !(decide (b ≤ e.1) && decide (e.1 < b + n)) || keepsByte e.1
  let marks := m.poison.filter fun w => decide (a / 8 ≤ w) && decide (w < (a + n) / 8)
  let other := m.poison.filter fun w => !(decide (b / 8 ≤ w) && decide (w < (b + n) / 8))
  { cells := from_.foldl (fun c e => FMap.put c (b + (e.1 - a)) e.2) kept,
    poison := marks.foldl (fun l w => insertAsc (b / 8 + (w - a / 8)) l) other }

/-- The first usable entry of the pool ring from POP on, and the POP after it. -/
def State.poolTake (s : State) (push : Nat) : Nat → Nat → Option (Nat × Nat)
  | 0, _ => none
  | n + 1, pop =>
    if pop = push then none
    else
      let f := s.pool (0x4000 + 4 * (pop % 4096)) 4 % 2 ^ 24
      let next := (pop + 1) % 2 ^ 64
      if f = 0 || !frameOk f then State.poolTake s push n next else some (f, next)

/-- The reads of the ring's entries from one POP to the next (R199). -/
def State.ringRead (s : State) (pop pop1 : Nat) : State :=
  (List.range ((pop1 + 2 ^ 64 - pop) % 2 ^ 64)).foldl (fun s i => s.l2Read (poolPa + 0x4000 + 4 * ((pop + i) % 4096)) 4) s

/-- Whether an address lies in a page of 64 KiB. -/
def inPage (page : Nat) (va : Dword) : Bool := va.toNat / 65536 == page

/-- What waited for a page's diversion goes on. -/
def State.wakePage (s0 : State) (ctx page : Nat) : State :=
  let s1 := s0.cores.foldl (fun s e =>
    e.2.threads.foldl (fun s t =>
      match t.2.status with
      | .parked (.divert va) => if t.2.ctx = ctx && inPage page va then s.wake e.1 t.1 else s
      | _ => s) s) s0
  let free (c : Nat) (o : Option Dword) : Option Dword :=
    match o with | some va => if c = ctx && inPage page va then none else o | none => none
  let streams := FMap.mapVal s1.streams fun (y : Stream) => { y with stalled := free y.ctx y.stalled }
  let colls := FMap.mapVal s1.fab.colls fun (o : Coll) => { o with stalled := free o.ctx o.stalled }
  let lqs := FMap.mapVal s1.lqs fun (x : LQ) =>
    match x.missed with
    | some (c, va) => if c = ctx && inPage page va then { x with missed := none } else x
    | none => x
  let s2 := { s1 with streams := streams, lqs := lqs, fab := { s1.fab with colls := colls } }
  (s2.serveRequests (3 * s2.fab.reorder.length)).landWaiting none

/-- A page that needs no diversion any longer: what waited goes on, and finds what its walk gives. -/
def State.undivert (s : State) (ctx page : Nat) : State :=
  { s with tables := { s.tables with diverts := s.tables.diverts.filter fun d => !(d.ctx == ctx && d.page == page) } }.wakePage ctx page

/-- The virtual address of an access of a thread. -/
def Thread.opVa (th : Thread) (o : Op) : Dword := if o.acc.space = .prv then th.prvBase + o.acc.ea else o.acc.ea

/-- Accesses of a context in flight to a page go to its new frame (R382). -/
def State.moveFrame (s : State) (ctx page old new : Nat) : State :=
  let moved (t : Tgt) : Tgt := match t with | .dev pa => if pa / 65536 = old then .dev (new * 65536 + pa % 65536) else t | _ => t
  let fix (th : Thread) : Thread :=
    if th.ctx = ctx then { th with ops := th.ops.map fun o => if inPage page (th.opVa o) then { o with kind := o.kind.retarget moved } else o }
    else th
  { s with cores := FMap.mapVal s.cores fun (k : Core) => { k with threads := FMap.mapVal k.threads fix } }

/-- Sectors of a frame leave L2. -/
def State.evictFrame (s : State) (f : Nat) : State :=
  ((s.l2.map Prod.fst).filter fun n => n / 1024 == f).foldl State.evictSector s

/-- A page diverted to a frame of the pool: it is copied, its leaf names the frame, and what waited goes on there (R382). -/
def State.divertTo (s : State) (ctx page : Nat) (l : Leaf) (f : Nat) : State :=
  let s1 := s.evictFrame f
  let s2 := ({ s1 with mem := s1.mem.copyRange (pteFrame l.entry * 65536) (f * 65536) 65536 } : State).purge (f * 65536) 65536
  let s3 := (s2.putWord l.addr 8 (l.entry.toNat + f * 2 ^ 40)).moveFrame ctx page (pteFrame l.entry) f
  let count (v : View) : View :=
    let off := (BitVec.ofNat 64 (page * 65536) - v.base).toNat
    if v.valid && v.ctx == ctx && decide (off < v.len.toNat) then { v with diverted := min (v.diverted + 1) 0xFFFFFFFF } else v
  let t : Tables :=
    { s3.tables with
      views := FMap.mapVal s3.tables.views count, diverts := s3.tables.diverts.filter fun d => !(d.ctx == ctx && d.page == page) }
  ({ s3 with tables := t }.sliceBump (sliceOf l.addr) 5 1).wakePage ctx page

/-- The walker asks for frames of the pool, once (R379, R383). -/
def State.askPool (s : State) (d : Divert) (entry : Nat) : State :=
  if d.asked then s
  else
    { s with tables := { s.tables with diverts := s.tables.diverts.map fun e => if e = d then { e with asked := true } else e } }.requestReplay
      d.lantern true d.kind d.ctx (BitVec.ofNat 64 (65536 * d.page)) entry

/-- PAGE_DIVERSION (R382, R383): an access that waits for a page to be diverted goes on once a frame is taken from the pool ring, the page
copied, and DIV written, once no engine owns a line of what is read or written (R237, R380). While the ring is empty it waits, and a replay
request of kind POOL is sent. -/
def execPageDiversion (ctx : Nat) (va : Dword) (s : State) : Out :=
  let page := va.toNat / 65536
  match s.tables.diverts.find? fun d => d.ctx == ctx && d.page == page with
  | none => .next s
  | some d =>
    if s.walkHeld ctx va then .next (s.noteWalk ctx va)
    else
    match s.walk ctx va.toNat with
    | .leaf l =>
      if !l.page || !pteSnap l.entry || pteDiv l.entry != 0 then .next (s.undivert ctx page)
      else if s.entryHeld l.addr || s.poolHeld || s.agentHeld false (poolPa + 0x4000) 0x4000 then .next s
      else
        let push := s.pool 0 8
        match s.poolTake push 4097 (s.pool 8 8) with
        | none => .next (((s.walked ctx va).poolRead.putWord (poolPa + 8) 8 push).askPool d l.addr)
        | some (f, pop) =>
          if s.agentHeld false (pteFrame l.entry * 65536) 65536 || s.agentHeld true (f * 65536) 65536 then
            .next ((s.noteRecall noSkip (pteFrame l.entry * 65536) 65536).noteRecall noSkip (f * 65536) 65536)
          else .next ((((s.walked ctx va).poolRead.ringRead (s.pool 8 8) pop).putWord (poolPa + 8) 8 pop).divertTo ctx page l f)
    | _ => .next (s.undivert ctx page)

end Sys2Proof.Machine
end

