-- ==== Sys2Proof/Machine/Gate.lean ====
section
/-! DEFINITION. The table gate: messages, their acceptance and their effects (R386 to R388, R393, R394), and the host's accesses
(R187, R210). -/

namespace Sys2Proof.Machine

/-! ## Acceptance (R394) -/

/-- A field of a message's signed bytes. -/
def gateField (h : GateHdr) (off n : Nat) : Nat := leNat ((h.bytes.drop off).take n)

/-- Whether a message is in form: its OP, and a body of BLEN bytes, at most 64 KiB. -/
def gateForm (h : GateHdr) (op : Nat) : Bool :=
  decide (64 ≤ h.bytes.length) && gateField h 0 2 == op && gateField h 0x38 8 + 64 == h.bytes.length && decide (gateField h 0x38 8 ≤ 65536)

/-- Whether an operation loads partition and routing tables: the rank banks, the route banks, the port-down mask and the partition-key
tables; the gate admits it at stage READY alone (R117). DEDUCED (log entry 11). -/
def gateLoads (op : Nat) : Bool := decide (1 ≤ op ∧ op ≤ 6)

/-- Whether a message is accepted, under a key: its stage, its body, signature, NONCE, SERIAL and SEQ (R117, R394). -/
def State.gateAccepts (s : State) (h : GateHdr) (op : Nat) (body : List Byte) (key : Option (List Byte)) : Bool :=
  match key with
  | none => false
  | some k =>
    gateForm h op && h.bytes.drop 64 == body && (!gateLoads op || s.dev.stage == stageReady) &&
      Config.mlDsaVerify k h.bytes h.sig && gateField h 0x10 32 == (Config.bootNonce s.dev.boots).toNat &&
      gateField h 0x30 8 == Config.serial.toNat &&
      (match s.tables.gateSeq with | none => true | some q => decide (q < gateField h 8 8))

/-- A message that is not accepted is dropped and counted. -/
def State.gateDrop (s : State) : State := { s with tables := { s.tables with gateDrops := s.tables.gateDrops + 1 } }

/-- An accepted message: its SEQ is the last, and measurement entry 3 is extended (R394, R396). -/
def State.gateTake (s : State) (h : GateHdr) : State :=
  { s with tables := { s.tables with gateSeq := some (gateField h 8 8) } }.extend 3 h.bytes

/-- A gate message with the body that carries its fields: dropped and counted, or taken and applied. At stage 0x0 the gate is held in reset
(R117). -/
def gateRun (h : GateHdr) (op : Nat) (body : List Byte) (s : State) (k : State → State) : Out :=
  if s.rom then .next s
  else if s.gateAccepts h op body s.tables.fmKey then .next (k (s.gateTake h)) else .next s.gateDrop

/-! ## Messages (R386 to R388, R393, R394) -/

/-- GATE_SET_KEY (R394): a key of 1,312 bytes whose SHA3-256 is the fused hash; the message is signed under it (log entry 45). -/
def execGateSetKey (h : GateHdr) (key : List Byte) (s : State) : Out :=
  if s.rom then .next s
  else if key.length == 1312 && sha3 key == Config.fabricKeyHash && s.gateAccepts h 0 key (some key) then
    let s1 := s.gateTake h
    .next { s1 with tables := { s1.tables with fmKey := some key } }
  else .next s.gateDrop

/-- The ranks that a bank message writes; a rank beyond the bank is none. -/
def rankEntries (first : Nat) (entries : List Half) : FMap Half :=
  ((entries.mapIdx fun i d => (first + i, d)).filter fun e => decide (e.1 < 8192))

/-- A write of the pending bank or its generation, held while a fence is pending (R386). -/
def State.pendWrite (s : State) (b : FMap Half) (g : Option Half) : State :=
  let t := { s.tables with held := s.tables.held ++ [(b, g)] }
  { s with tables := if s.fab.fence.isSome then t else t.release }

/-- GATE_RANK_BANK (R386). -/
def execGateRankBank (h : GateHdr) (first : Nat) (entries : List Half) (s : State) : Out :=
  gateRun h 1 (Config.gateBody 1 (first :: entries.length :: entries.map BitVec.toNat)) s fun s => s.pendWrite (rankEntries first entries) none

/-- GATE_GENERATION (R386, R394). -/
def execGateGeneration (h : GateHdr) (gen : Half) (s : State) : Out := gateRun h 2 (Config.gateBody 2 [gen.toNat]) s fun s => s.pendWrite [] (some gen)

/-- GATE_ROUTE_BANK (R387): the path bytes of groups from the first on. -/
def execGateRouteBank (h : GateHdr) (first : Nat) (paths : List Byte) (s : State) : Out :=
  gateRun h 3 (Config.gateBody 3 (first :: paths.length / 8 :: paths.map BitVec.toNat)) s fun s =>
    let bytes := (paths.mapIdx fun i b => (8 * first + i, b)).filter fun e => decide (e.1 < 1024)
    { s with tables := { s.tables with routePend := bytes.foldl (fun m e => FMap.put m e.1 e.2) s.tables.routePend } }

/-- GATE_ROUTE_SWAP (R387). -/
def execGateRouteSwap (h : GateHdr) (s : State) : Out :=
  gateRun h 4 [] s fun s =>
    ({ s with tables := { s.tables with routeAct := s.tables.routePend, routePend := s.tables.routeAct } } : State).flushHeld

/-- GATE_CLEAR_PORT_DOWN (R393). -/
def execGateClearPortDown (h : GateHdr) (mask : BitVec 36) (s : State) : Out :=
  gateRun h 5 (Config.gateBody 5 [mask.toNat]) s fun s => ({ s with tables := { s.tables with portDown := s.tables.portDown &&& ~~~mask } } : State).flushHeld

/-- The fields that the body of a partition-key message carries: the entry's kind, its index and its content (R388). -/
def pkeyFields : PkeyEntry → List Nat
  | .egress c pkey valid rate burst dmask => [0, c.toNat, pkey.toNat, valid.toNat, rate.toNat, burst.toNat, dmask.toNat]
  | .ingress i pkey ctx valid exb => [1, i.toNat, pkey.toNat, ctx.toNat, valid.toNat, exb.toNat]

/-- GATE_PKEY_ENTRY (R388). No rule names an outcome for an EXB that is not aligned to 512 MiB or whose window ends beyond 2^51: it is stored
and used as it stands (DESIGN CHOICE, log entry 109). -/
def execGatePkeyEntry (h : GateHdr) (e : PkeyEntry) (s : State) : Out :=
  gateRun h 6 (Config.gateBody 6 (pkeyFields e)) s fun s =>
    match e with
    | .egress c pkey valid rate burst dmask =>
      let x : Egress := { pkey := pkey, valid := valid, rate := rate, burst := burst, dmask := dmask }
      { s with tables := { s.tables with egress := FMap.put s.tables.egress c.toNat x } }
    | .ingress i pkey ctx valid exb =>
      let x : Ingress := { pkey := pkey, ctx := ctx.toNat, valid := valid, exb := exb }
      { s with tables := { s.tables with ingress := FMap.put s.tables.ingress i.toNat x } }

/-- The fields of the Belfry configuration (R368). -/
def belfryFields (c : BelfryCfg) : List Nat :=
  [c.i.toNat, c.thresh.toNat, c.mbxDev.toNat, c.mbxOff.toNat, c.mbxLog.toNat, c.mbxKey.toNat] ++ c.peers.map BitVec.toNat

/-- GATE_BELFRY_CONFIG (R368). -/
def execGateBelfryConfig (h : GateHdr) (cfg : BelfryCfg) (s : State) : Out :=
  gateRun h 7 (Config.gateBody 7 (belfryFields cfg)) s fun s => { s with tables := { s.tables with belfry := some cfg } }

/-- GATE_RECAST_PLAN (R370): refused without feature 9 (R392); an accepted message whose address is not 64-byte aligned below 768 GiB
starts no plan. It waits while an engine owns the line of the plan's header (R237). -/
def execGateRecastPlan (h : GateHdr) (pa : Dword) (s : State) : Out :=
  if s.rom then .next s
  else if s.lacksFeature 9 then .next s.gateDrop
  else if s.agentHeld false pa.toNat 8 then .next (s.noteRecall noSkip pa.toNat 8)
  else
    gateRun h 8 (Config.gateBody 8 [pa.toNat]) s fun s =>
      if pa.toNat % 64 ≠ 0 || decide (Config.hbmBytes ≤ pa.toNat) then s else s.startPlan pa.toNat

/-- GATE_FABID (R394). -/
def execGateFabid (h : GateHdr) (fabid : Half) (s : State) : Out :=
  gateRun h 9 (Config.gateBody 9 [fabid.toNat]) s fun s => ({ s with tables := { s.tables with fabid := fabid } } : State).flushHeld

/-! ## The host (R187, R210) -/

/-- The part of an atomic of the host that is performed at the home slice: none of it where its bytes are poisoned (R210, R214, R221). -/
def State.hostPart (s : State) (pa : Nat) (o : AtomOp) (v : Nat) (h : Option Nat) : State :=
  let a := pa + 2 * h.getD 0
  let n := if h.isSome then 2 else o.n / 8
  let s1 := s.l2Read a n
  if (s.mem.firstBad a n).isSome then s1
  else s1.devWrite a (leBytes n (partNew o h (s.mem.readNat a n) (partVal h (v % 2 ^ o.n)))) [] true

/-- HOST_ACCESS (R187, R210): a write or an atomic of the host at the home slice; it waits while an engine owns the line or a translation in
use derives from it (R237, R380), and does nothing to a device held in reset (R117). Of a two-wide atomic one half is performed, and the
other by a move of its own (R214). -/
def execHostAccess (x : HostOp) (s : State) : Out :=
  match x with
  | .write pa bs =>
    if s.rom || bs.isEmpty || Config.hbmBytes < pa + bs.length then .next s
    else if s.agentHeld true pa bs.length then .next (s.noteRecall noSkip pa bs.length)
    else .next (s.devWrite pa bs [] true)
  | .own pa bs => .next { s with hostMem := s.hostMem.write pa bs }
  | .atom pa o v =>
    let n := o.n / 8
    if s.rom || !atomOpWf true o || pa % n ≠ 0 || Config.hbmBytes < pa + n then .next s
    else if s.agentHeld true pa n then .next (s.noteRecall noSkip pa n)
    else
      let h := nextHalf s.hiFirst o none
      let s1 := s.hostPart pa o v.toNat h
      .next (match h with
        | some k => { s1 with hostHalves := s1.hostHalves ++ [{ pa := pa, op := o, v := v.toNat, half := 1 - k }] }
        | none => s1)

/-- The half that is left of a two-wide atomic of the host (R214). -/
def State.hostRest (s : State) (i : Nat) : State :=
  match s.hostHalves[i]? with
  | none => s
  | some x =>
    let a := x.pa + 2 * x.half
    if s.agentHeld true a 2 then s.noteRecall noSkip a 2
    else { s with hostHalves := s.hostHalves.eraseIdx i }.hostPart x.pa x.op x.v (some x.half)

end Sys2Proof.Machine
end

