-- ==== Sys2Proof/Machine/Dispatch.lean ====
section
/-! DEFINITION. The dispatcher: one arm per constructor of Instr. -/

namespace Sys2Proof.Machine

def exec (i : Instr) (s : State) : Host.Outcome State Fault Refusal :=
  match i with
  | .nop x => Sys2Proof.Machine.execNop x s
  | .bra x => Sys2Proof.Machine.execBra x s
  | .brx x => Sys2Proof.Machine.execBrx x s
  | .call x => Sys2Proof.Machine.execCall x s
  | .callx x => Sys2Proof.Machine.execCallx x s
  | .ret x => Sys2Proof.Machine.execRet x s
  | .exit x => Sys2Proof.Machine.execExit x s
  | .yield x => Sys2Proof.Machine.execYield x s
  | .pause x => Sys2Proof.Machine.execPause x s
  | .iadd x => Sys2Proof.Machine.execIadd x s
  | .isub x => Sys2Proof.Machine.execIsub x s
  | .imul x => Sys2Proof.Machine.execImul x s
  | .imulh x => Sys2Proof.Machine.execImulh x s
  | .imad x => Sys2Proof.Machine.execImad x s
  | .idiv x => Sys2Proof.Machine.execIdiv x s
  | .irem x => Sys2Proof.Machine.execIrem x s
  | .imin x => Sys2Proof.Machine.execImin x s
  | .imax x => Sys2Proof.Machine.execImax x s
  | .iabs x => Sys2Proof.Machine.execIabs x s
  | .lea x => Sys2Proof.Machine.execLea x s
  | .icmp x => Sys2Proof.Machine.execIcmp x s
  | .isel x => Sys2Proof.Machine.execIsel x s
  | .mov x => Sys2Proof.Machine.execMov x s
  | .movi x => Sys2Proof.Machine.execMovi x s
  | .movs x => Sys2Proof.Machine.execMovs x s
  | .and x => Sys2Proof.Machine.execAnd x s
  | .or x => Sys2Proof.Machine.execOr x s
  | .xor x => Sys2Proof.Machine.execXor x s
  | .lut3 x => Sys2Proof.Machine.execLut3 x s
  | .plut x => Sys2Proof.Machine.execPlut x s
  | .shl x => Sys2Proof.Machine.execShl x s
  | .shr x => Sys2Proof.Machine.execShr x s
  | .rot x => Sys2Proof.Machine.execRot x s
  | .bfe x => Sys2Proof.Machine.execBfe x s
  | .bfi x => Sys2Proof.Machine.execBfi x s
  | .popc x => Sys2Proof.Machine.execPopc x s
  | .clz x => Sys2Proof.Machine.execClz x s
  | .brev x => Sys2Proof.Machine.execBrev x s
  | .bsel x => Sys2Proof.Machine.execBsel x s
  | .fadd x => Sys2Proof.Machine.execFadd x s
  | .fsub x => Sys2Proof.Machine.execFsub x s
  | .fmul x => Sys2Proof.Machine.execFmul x s
  | .fma x => Sys2Proof.Machine.execFma x s
  | .fdiv x => Sys2Proof.Machine.execFdiv x s
  | .fmin x => Sys2Proof.Machine.execFmin x s
  | .fmax x => Sys2Proof.Machine.execFmax x s
  | .fcmp x => Sys2Proof.Machine.execFcmp x s
  | .fclass x => Sys2Proof.Machine.execFclass x s
  | .hadd2 x => Sys2Proof.Machine.execHadd2 x s
  | .hsub2 x => Sys2Proof.Machine.execHsub2 x s
  | .hmul2 x => Sys2Proof.Machine.execHmul2 x s
  | .hfma2 x => Sys2Proof.Machine.execHfma2 x s
  | .hmin2 x => Sys2Proof.Machine.execHmin2 x s
  | .hmax2 x => Sys2Proof.Machine.execHmax2 x s
  | .hcmp2 x => Sys2Proof.Machine.execHcmp2 x s
  | .cvt x => Sys2Proof.Machine.execCvt x s
  | .cvts x => Sys2Proof.Machine.execCvts x s
  | .frint x => Sys2Proof.Machine.execFrint x s
  | .pack x => Sys2Proof.Machine.execPack x s
  | .unpk x => Sys2Proof.Machine.execUnpk x s
  | .rnd x => Sys2Proof.Machine.execRnd x s
  | .rndLo x => Sys2Proof.Machine.execRndLo x s
  | .fexp2 x => Sys2Proof.Machine.execFexp2 x s
  | .flog2 x => Sys2Proof.Machine.execFlog2 x s
  | .frcp x => Sys2Proof.Machine.execFrcp x s
  | .frsq x => Sys2Proof.Machine.execFrsq x s
  | .fsqrt x => Sys2Proof.Machine.execFsqrt x s
  | .fsin x => Sys2Proof.Machine.execFsin x s
  | .fcos x => Sys2Proof.Machine.execFcos x s
  | .ftanh x => Sys2Proof.Machine.execFtanh x s
  | .ld x => Sys2Proof.Machine.execLd x s
  | .st x => Sys2Proof.Machine.execSt x s
  | .ldc x => Sys2Proof.Machine.execLdc x s
  | .pref x => Sys2Proof.Machine.execPref x s
  | .fence x => Sys2Proof.Machine.execFence x s
  | .cctlL1inv x => Sys2Proof.Machine.execCctlL1inv x s
  | .cctlIinv x => Sys2Proof.Machine.execCctlIinv x s
  | .cctlIinvall x => Sys2Proof.Machine.execCctlIinvall x s
  | .atom x => Sys2Proof.Machine.execAtom x s
  | .cas x => Sys2Proof.Machine.execCas x s
  | .red x => Sys2Proof.Machine.execRed x s
  | .redt x => Sys2Proof.Machine.execRedt x s
  | .rclose x => Sys2Proof.Machine.execRclose x s
  | .cpyIn x => Sys2Proof.Machine.execCpyIn x s
  | .cpyOut x => Sys2Proof.Machine.execCpyOut x s
  | .tbari x => Sys2Proof.Machine.execTbari x s
  | .tbara x => Sys2Proof.Machine.execTbara x s
  | .tbaraN x => Sys2Proof.Machine.execTbaraN x s
  | .tbarvd x => Sys2Proof.Machine.execTbarvd x s
  | .tbarw x => Sys2Proof.Machine.execTbarw x s
  | .bar x => Sys2Proof.Machine.execBar x s
  | .barArv x => Sys2Proof.Machine.execBarArv x s
  | .ringp x => Sys2Proof.Machine.execRingp x s
  | .ringwEmpty x => Sys2Proof.Machine.execRingwEmpty x s
  | .ringwFull x => Sys2Proof.Machine.execRingwFull x s
  | .join x => Sys2Proof.Machine.execJoin x s
  | .leave x => Sys2Proof.Machine.execLeave x s
  | .wait x => Sys2Proof.Machine.execWait x s
  | .waitPut x => Sys2Proof.Machine.execWaitPut x s
  | .mset x => Sys2Proof.Machine.execMset x s
  | .msetRd x => Sys2Proof.Machine.execMsetRd x s
  | .xshf x => Sys2Proof.Machine.execXshf x s
  | .xvote x => Sys2Proof.Machine.execXvote x s
  | .xbal x => Sys2Proof.Machine.execXbal x s
  | .xred x => Sys2Proof.Machine.execXred x s
  | .wld x => Sys2Proof.Machine.execWld x s
  | .wlds x => Sys2Proof.Machine.execWlds x s
  | .mloop x => Sys2Proof.Machine.execMloop x s
  | .mzero x => Sys2Proof.Machine.execMzero x s
  | .msync x => Sys2Proof.Machine.execMsync x s
  | .mstat x => Sys2Proof.Machine.execMstat x s
  | .msclr x => Sys2Proof.Machine.execMsclr x s
  | .dcfg x => Sys2Proof.Machine.execDcfg x s
  | .vadd x => Sys2Proof.Machine.execVadd x s
  | .vsub x => Sys2Proof.Machine.execVsub x s
  | .vmul x => Sys2Proof.Machine.execVmul x s
  | .vfma x => Sys2Proof.Machine.execVfma x s
  | .vmin x => Sys2Proof.Machine.execVmin x s
  | .vmax x => Sys2Proof.Machine.execVmax x s
  | .vexp2 x => Sys2Proof.Machine.execVexp2 x s
  | .vrmax x => Sys2Proof.Machine.execVrmax x s
  | .vrsum x => Sys2Proof.Machine.execVrsum x s
  | .vscl x => Sys2Proof.Machine.execVscl x s
  | .vcvt x => Sys2Proof.Machine.execVcvt x s
  | .vcmp x => Sys2Proof.Machine.execVcmp x s
  | .vmov x => Sys2Proof.Machine.execVmov x s
  | .vst x => Sys2Proof.Machine.execVst x s
  | .ldlStart x => Sys2Proof.Machine.execLdlStart x s
  | .ldlStartAt x => Sys2Proof.Machine.execLdlStartAt x s
  | .ldlStop x => Sys2Proof.Machine.execLdlStop x s
  | .ldlStat x => Sys2Proof.Machine.execLdlStat x s
  | .ldlStatFree x => Sys2Proof.Machine.execLdlStatFree x s
  | .ldlBaseBind x => Sys2Proof.Machine.execLdlBaseBind x s
  | .ldlBaseFree x => Sys2Proof.Machine.execLdlBaseFree x s
  | .await x => Sys2Proof.Machine.execAwait x s
  | .arels x => Sys2Proof.Machine.execArels x s
  | .rld x => Sys2Proof.Machine.execRld x s
  | .rst x => Sys2Proof.Machine.execRst x s
  | .ratom x => Sys2Proof.Machine.execRatom x s
  | .ratomCas x => Sys2Proof.Machine.execRatomCas x s
  | .rred x => Sys2Proof.Machine.execRred x s
  | .flowselOrd x => Sys2Proof.Machine.execFlowselOrd x s
  | .flowselUnord x => Sys2Proof.Machine.execFlowselUnord x s
  | .coll x => Sys2Proof.Machine.execColl x s
  | .token x => Sys2Proof.Machine.execToken x s
  | .twait x => Sys2Proof.Machine.execTwait x s
  | .mfence x => Sys2Proof.Machine.execMfence x s
  | .trap x => Sys2Proof.Machine.execTrap x s
  | .bkpt x => Sys2Proof.Machine.execBkpt x s
  | .hret x => Sys2Proof.Machine.execHret x s
  | .hretSkip x => Sys2Proof.Machine.execHretSkip x s
  | .preck x => Sys2Proof.Machine.execPreck x s
  | .srd x => Sys2Proof.Machine.execSrd x s
  | .swr x => Sys2Proof.Machine.execSwr x s
  | .fltr x => Sys2Proof.Machine.execFltr x s
  | .fltrPg x => Sys2Proof.Machine.execFltrPg x s
  | .escl x => Sys2Proof.Machine.execEscl x s
  | .cycr x => Sys2Proof.Machine.execCycr x s
  | .perfr x => Sys2Proof.Machine.execPerfr x s
  | .gangPick c => Sys2Proof.Machine.execGangPick c s
  | .classLCompletion c t u => Sys2Proof.Machine.execClassLCompletion c t u s
  | .deferredFaultDelivery c t => Sys2Proof.Machine.execDeferredFaultDelivery c t s
  | .pauseExpiry c t => Sys2Proof.Machine.execPauseExpiry c t s
  | .yieldPauseExpiry c t => Sys2Proof.Machine.execYieldPauseExpiry c t s
  | .boundCopyCompletion c t u => Sys2Proof.Machine.execBoundCopyCompletion c t u s
  | .wldExecute c => Sys2Proof.Machine.execWldExecute c s
  | .mloopExecute c n => Sys2Proof.Machine.execMloopExecute c n s
  | .mzeroExecute c => Sys2Proof.Machine.execMzeroExecute c s
  | .dcfgApply c => Sys2Proof.Machine.execDcfgApply c s
  | .vectorOpExecute c n => Sys2Proof.Machine.execVectorOpExecute c n s
  | .ladleSrc x => Sys2Proof.Machine.execLadleSrc x s
  | .ladleDst x => Sys2Proof.Machine.execLadleDst x s
  | .ladleWalk x => Sys2Proof.Machine.execLadleWalk x s
  | .ladleGather x => Sys2Proof.Machine.execLadleGather x s
  | .ladleQuant x => Sys2Proof.Machine.execLadleQuant x s
  | .ladleLoop n => Sys2Proof.Machine.execLadleLoop n s
  | .ladleBr x => Sys2Proof.Machine.execLadleBr x s
  | .waitm x => Sys2Proof.Machine.execWaitm x s
  | .waitmTimeout l k => Sys2Proof.Machine.execWaitmTimeout l k s
  | .ladleSignalStore32 x => Sys2Proof.Machine.execLadleSignalStore32 x s
  | .ladleSignalAdd32 x => Sys2Proof.Machine.execLadleSignalAdd32 x s
  | .ladleSignalToken x => Sys2Proof.Machine.execLadleSignalToken x s
  | .ladleCall addr => Sys2Proof.Machine.execLadleCall addr s
  | .tileDelivery l k => Sys2Proof.Machine.execTileDelivery l k s
  | .runAheadRead l k va => Sys2Proof.Machine.execRunAheadRead l k va s
  | .replayWalk w => Sys2Proof.Machine.execReplayWalk w s
  | .pageDiversion ctx va => Sys2Proof.Machine.execPageDiversion ctx va s
  | .redtApply c t u => Sys2Proof.Machine.execRedtApply c t u s
  | .sequencerApply u => Sys2Proof.Machine.execSequencerApply u s
  | .blockRetirement u b => Sys2Proof.Machine.execBlockRetirement u b s
  | .launchCompletion u => Sys2Proof.Machine.execLaunchCompletion u s
  | .wptrWrite q v => Sys2Proof.Machine.execWptrWrite q v s
  | .cfgWrite q v => Sys2Proof.Machine.execCfgWrite q v s
  | .statClear q => Sys2Proof.Machine.execStatClear q s
  | .launch x => Sys2Proof.Machine.execLaunch x s
  | .launchi x => Sys2Proof.Machine.execLaunchi x s
  | .lanternLoop n => Sys2Proof.Machine.execLanternLoop n s
  | .ifmem x => Sys2Proof.Machine.execIfmem x s
  | .calll addr => Sys2Proof.Machine.execCalll addr s
  | .waitmem x => Sys2Proof.Machine.execWaitmem x s
  | .waitmemTimeout q => Sys2Proof.Machine.execWaitmemTimeout q s
  | .waitlch n => Sys2Proof.Machine.execWaitlch n s
  | .signalStore64 x => Sys2Proof.Machine.execSignalStore64 x s
  | .signalAdd64 x => Sys2Proof.Machine.execSignalAdd64 x s
  | .signalStore32 x => Sys2Proof.Machine.execSignalStore32 x s
  | .signalAdd32 x => Sys2Proof.Machine.execSignalAdd32 x s
  | .gswap x => Sys2Proof.Machine.execGswap x s
  | .snapCreate x => Sys2Proof.Machine.execSnapCreate x s
  | .snapRelease x => Sys2Proof.Machine.execSnapRelease x s
  | .preempt x => Sys2Proof.Machine.execPreempt x s
  | .contextSave ctx => Sys2Proof.Machine.execContextSave ctx s
  | .recomputeDiscard ctx => Sys2Proof.Machine.execRecomputeDiscard ctx s
  | .resume x => Sys2Proof.Machine.execResume x s
  | .stageLinks trained => Sys2Proof.Machine.execStageLinks trained s
  | .kill ctx => Sys2Proof.Machine.execKill ctx s
  | .killCompletion ctx => Sys2Proof.Machine.execKillCompletion ctx s
  | .registerWrite off v => Sys2Proof.Machine.execRegisterWrite off v s
  | .linkTrain x => Sys2Proof.Machine.execLinkTrain x s
  | .linkLoss port => Sys2Proof.Machine.execLinkLoss port s
  | .belfryLinkDetect port => Sys2Proof.Machine.execBelfryLinkDetect port s
  | .linkAck port lseq => Sys2Proof.Machine.execLinkAck port lseq s
  | .linkReplay port lseq sender => Sys2Proof.Machine.execLinkReplay port lseq sender s
  | .lendInterval port u0 u1 u2 => Sys2Proof.Machine.execLendInterval port u0 u1 u2 s
  | .lendAnnouncement port epoch l0 l1 l2 => Sys2Proof.Machine.execLendAnnouncement port epoch l0 l1 l2 s
  | .remoteRequest p => Sys2Proof.Machine.execRemoteRequest p s
  | .remoteResponse p => Sys2Proof.Machine.execRemoteResponse p s
  | .requestResend tag => Sys2Proof.Machine.execRequestResend tag s
  | .requestTimeout tag => Sys2Proof.Machine.execRequestTimeout tag s
  | .collFire slot => Sys2Proof.Machine.execCollFire slot s
  | .chunkReceive p => Sys2Proof.Machine.execChunkReceive p s
  | .chunkAck p => Sys2Proof.Machine.execChunkAck p s
  | .chunkResend slot n => Sys2Proof.Machine.execChunkResend slot n s
  | .collCompletion slot => Sys2Proof.Machine.execCollCompletion slot s
  | .belfryInterval io => Sys2Proof.Machine.execBelfryInterval io s
  | .heartbeatReceive p => Sys2Proof.Machine.execHeartbeatReceive p s
  | .noticeReceive p => Sys2Proof.Machine.execNoticeReceive p s
  | .stripeRequest p => Sys2Proof.Machine.execStripeRequest p s
  | .stripeAttempt n => Sys2Proof.Machine.execStripeAttempt n s
  | .stripeReceive x => Sys2Proof.Machine.execStripeReceive x s
  | .hostAccess x => Sys2Proof.Machine.execHostAccess x s
  | .egressRateRelease ctx => Sys2Proof.Machine.execEgressRateRelease ctx s
  | .packetForward p => Sys2Proof.Machine.execPacketForward p s
  | .bootAddrWrite v => Sys2Proof.Machine.execBootAddrWrite v s
  | .stageImage x => Sys2Proof.Machine.execStageImage x s
  | .stageMemory err => Sys2Proof.Machine.execStageMemory err s
  | .featAcceptWrite hi v => Sys2Proof.Machine.execFeatAcceptWrite hi v s
  | .clkCtlWrite v => Sys2Proof.Machine.execClkCtlWrite v s
  | .pwrLimitWrite v => Sys2Proof.Machine.execPwrLimitWrite v s
  | .ctxCfgWrite n v => Sys2Proof.Machine.execCtxCfgWrite n v s
  | .ctxFaultClear n v => Sys2Proof.Machine.execCtxFaultClear n v s
  | .coreCtlWrite n v => Sys2Proof.Machine.execCoreCtlWrite n v s
  | .errStatClear v => Sys2Proof.Machine.execErrStatClear v s
  | .errCeWrite v => Sys2Proof.Machine.execErrCeWrite v s
  | .powerEvaluation avg => Sys2Proof.Machine.execPowerEvaluation avg s
  | .uncorrectableError p => Sys2Proof.Machine.execUncorrectableError p s
  | .correctedError p => Sys2Proof.Machine.execCorrectedError p s
  | .coreDomainPowerDown die => Sys2Proof.Machine.execCoreDomainPowerDown die s
  | .attestationReport nonce => Sys2Proof.Machine.execAttestationReport nonce s
  | .measurementExtend n d => Sys2Proof.Machine.execMeasurementExtend n d s
  | .gateSetKey h key => Sys2Proof.Machine.execGateSetKey h key s
  | .gateRankBank h first entries => Sys2Proof.Machine.execGateRankBank h first entries s
  | .gateGeneration h gen => Sys2Proof.Machine.execGateGeneration h gen s
  | .gateRouteBank h first paths => Sys2Proof.Machine.execGateRouteBank h first paths s
  | .gateRouteSwap h => Sys2Proof.Machine.execGateRouteSwap h s
  | .gateClearPortDown h mask => Sys2Proof.Machine.execGateClearPortDown h mask s
  | .gatePkeyEntry h e => Sys2Proof.Machine.execGatePkeyEntry h e s
  | .gateBelfryConfig h cfg => Sys2Proof.Machine.execGateBelfryConfig h cfg s
  | .gateRecastPlan h pa => Sys2Proof.Machine.execGateRecastPlan h pa s
  | .gateFabid h fabid => Sys2Proof.Machine.execGateFabid h fabid s
  | .coreDomainPowerUp die => Sys2Proof.Machine.execCoreDomainPowerUp die s
  | .endl => Sys2Proof.Machine.execEndl s
  | .ladleRet => Sys2Proof.Machine.execLadleRet s
  | .ladleFence => Sys2Proof.Machine.execLadleFence s
  | .halt => Sys2Proof.Machine.execHalt s
  | .dispatch => Sys2Proof.Machine.execDispatch s
  | .endloop => Sys2Proof.Machine.execEndloop s
  | .retl => Sys2Proof.Machine.execRetl s
  | .coldReset => Sys2Proof.Machine.execColdReset s
  | .warmReset => Sys2Proof.Machine.execWarmReset s
  | .powerLoss => Sys2Proof.Machine.execPowerLoss s
  | .stageOffer => Sys2Proof.Machine.execStageOffer s
  | .featLock => Sys2Proof.Machine.execFeatLock s
  | .thermTrip => Sys2Proof.Machine.execThermTrip s
  | .thermWarn => Sys2Proof.Machine.execThermWarn s
  | .lanternWd => Sys2Proof.Machine.execLanternWd s
  | .fenceAbortDeadline => Sys2Proof.Machine.execFenceAbortDeadline s
  | .bankSwap => Sys2Proof.Machine.execBankSwap s

end Sys2Proof.Machine
end

