-- ==== Sys2Proof/Machine/Auto.lean ====
section
/-! DEFINITION. The order of moves that the machine takes when the schedule names none (log entry 1): each move that may be due in turn. -/

namespace Sys2Proof.Machine

/-- The moves of an operation in flight. -/
def opTurns (c t : Nat) (o : Op) : List Turn :=
  match o.kind with
  | .redt .. => [.event (.redtApply c t o.uid)]
  | .copy .. => [.event (.classLCompletion c t o.uid), .event (.boundCopyCompletion c t o.uid)]
  | _ => [.event (.classLCompletion c t o.uid)]

/-- The moves of a thread. -/
def threadTurns (c t : Nat) (th : Thread) : List Turn :=
  th.ops.flatMap (opTurns c t) ++
  (if th.late.isEmpty then [] else [.event (.deferredFaultDelivery c t)]) ++
  (match th.status with
   | .paused _ false => [.event (.pauseExpiry c t)]
   | .paused _ true => [.event (.yieldPauseExpiry c t)]
   | .parked (.xlate _ _) => [.event (.replayWalk (.thread c t))]
   | .parked .rate => [.event (.egressRateRelease th.ctx)]
   | .parked (.vector ..) => [.event (.deferredFaultDelivery c t)]
   | _ => [])

/-- The moves of a core's engines. -/
def engineTurns (c : Nat) (k : Core) : List Turn :=
  (match k.mq with
   | [] => []
   | m :: _ =>
     match m.kind with
     | .wld .. => [.event (.wldExecute c)]
     | .mloop .. => [.event (.mloopExecute c 1)]
     | .mzero .. => [.event (.mzeroExecute c)]
     | .dcfg _ => [.event (.dcfgApply c)]) ++
  (if k.vq.isEmpty then [] else [.event (.vectorOpExecute c 1)])

/-- The moves of a core: the gang that issues, or the next cycle, and what is in flight. -/
def coreTurns (c : Nat) (k : Core) : List Turn :=
  (match k.grant with
   | j :: _ => [.issue c j]
   | [] => if k.threads.isEmpty then [] else [.event (.gangPick c)]) ++
  k.threads.flatMap (fun e => threadTurns c e.1 e.2) ++ engineTurns c k

/-- The moves of a Ladle stream. -/
def streamTurns (n : Nat) (y : Stream) : List Turn :=
  if !y.live then []
  else
    .stream (n / 16) (n % 16) ::
      (match y.stalled with
       | some _ => [.event (.replayWalk (.stream (n / 16) (n % 16)))]
       | none => [])

/-- The moves of a command queue. -/
def queueTurns (q : Nat) (x : LQ) : List Turn :=
  if !x.en then []
  else
    .queue q ::
      (match x.missed with
       | some _ => [.event (.replayWalk (.queue q))]
       | _ => [])

/-- The moves of a launch. -/
def launchTurns (s : State) (l : Launch) : List Turn :=
  .event .dispatch :: ((s.blocks.filter fun b => b.bid.launch == l.uid).map fun b => .event (.blockRetirement l.uid b.bid.idx)) ++
    [.event (.sequencerApply l.uid), .event (.launchCompletion l.uid)]

/-- The moves of a context that is halting or being killed. -/
def ctxTurns (c : Nat) (x : Ctx) : List Turn :=
  (if x.killing then [.event (.killCompletion c)] else []) ++
  (match x.pre with
   | .halting _ _ => [.event (if x.policy then .recomputeDiscard c else .contextSave c)]
   | _ => [])

/-- The moves of a Carillon slot. -/
def collTurns (k : Nat) (o : Coll) : List Turn :=
  [.event (if o.fired then .collCompletion k else .collFire k)] ++
  (match o.stalled with
   | some _ => [.event (.replayWalk (.coll k))]
   | none => [])

/-- The arrival of a packet that the device sent to itself. A heartbeat arrives as its event, a stripe's pieces as one arrival. -/
def arrival (s : State) (p : Packet) : List Turn :=
  if p.kind = kRequest then [.event (.remoteRequest p)]
  else if p.kind = kChunk then [.event (.chunkReceive p)]
  else if p.kind = kHeartbeat then [.event (.heartbeatReceive p)]
  else if p.kind = kNotice then [.event (.noticeReceive p)]
  else if p.oper = oStripe then [.event (.stripeRequest p)]
  else if p.fcls = 2 then [.event (.chunkAck p)]
  else if p.fcls ≠ 3 then [.event (.remoteResponse p)]
  else
    match s.fab.plan.bind fun x => x.running.find? fun (r : StripeRun) => r.tag == p.tag.toNat with
    | none => [.event (.packetForward p)]
    | some r =>
      let mine := s.fab.loopback.filter fun (q : Packet) => q.kind == p.kind && q.tag == p.tag && q.fcls == 3
      let pieces := mine.dropLast
      let bad := pieces.flatMap fun (q : Packet) =>
        (List.range 512).filterMap fun i => if q.opc.getLsbD (i / 8) then some (q.offset.toNat + i) else none
      let digest := ((mine.getLast?).map fun (q : Packet) => q.data.take 32).getD []
      [.event (.stripeReceive {
        i := r.i, dev := r.dev, status := if p.kind = kStripe then 0 else BitVec.ofNat 8 p.opcode.toNat,
        bytes := pieces.flatMap fun (q : Packet) => q.data, bad := bad, digest := digest, packets := mine })]

/-- The diversions of pages that accesses wait for. -/
def divertTurns (s : State) : List Turn := s.tables.diverts.map fun d => .event (.pageDiversion d.ctx (BitVec.ofNat 64 (65536 * d.page)))

/-- The moves of the fabric's engines. -/
def fabricTurns (s : State) : List Turn :=
  (match s.fab.loopback with
   | [] => []
   | p :: _ => arrival s p) ++
  s.fab.colls.flatMap (fun e => collTurns e.1 e.2) ++
  (if s.fab.fence.isSome then [.event .bankSwap] else []) ++
  (if s.fab.reorder.isEmpty then [] else [.event (.replayWalk .remote)]) ++
  (match s.fab.plan with
   | none => []
   | some p =>
     (List.range (min p.count 65536)).map (fun i => .event (.stripeAttempt i)) ++
       p.waiting.map fun (x : Landing) => .event (.replayWalk (.stripe x.i)))

/-- What is left of two-wide atomics of the host (R214). -/
def hostTurns (s : State) : List Turn := (List.range s.hostHalves.length).map .hostHalf

/-- Every move that may be due. -/
def State.turns (s : State) : List Turn :=
  s.cores.flatMap (fun e => coreTurns e.1 e.2) ++ s.streams.flatMap (fun e => streamTurns e.1 e.2) ++
    s.lqs.flatMap (fun e => queueTurns e.1 e.2) ++ s.launches.flatMap (launchTurns s) ++ s.ctxs.flatMap (fun e => ctxTurns e.1 e.2) ++
    fabricTurns s ++ divertTurns s ++ hostTurns s

/-- The move that the machine takes next when none is scheduled: the moves that may be due, in rotation. -/
def State.autoTurn (s : State) : Option Turn :=
  let ts := s.turns
  ts[s.rot % ts.length]?

end Sys2Proof.Machine
end

