-- ==== Sys2Proof/Machine/Turn.lean ====
section
/-! DEFINITION. One move of the machine: a gang's instruction in one member, a stream's command, a queue's record, or an event. -/

namespace Sys2Proof.Machine

/-- The state after a move: no agent is in turn. -/
def rest : Out → Out
  | .next s => .next { s with cur := .none }
  | .fault f => .fault f
  | .refused r => .refused r

/-- The state after a member of a gang has issued; a member whose instruction must wait is offered again. -/
def afterIssue (c k t : Nat) : Out → Out
  | .next s => .next { (if s.cur = .held then s else s.finish c k t) with cur := .none }
  | .fault f => .fault f
  | .refused r => .refused r

/-- Issues the instruction of the gang in a slot in its next member (R88, R288, R291). -/
def issueTurn (c k : Nat) (s : State) : Out :=
  match s.granted c k with
  | none => .next s
  | some g =>
    match g.todo with
    | [] => .next (s.gangDone c k g)
    | t :: _ =>
      match decode g.rest with
      | .ok i => afterIssue c k t (exec i (s.prepare c t g))
      | .error e => afterIssue c k t (.next ((s.prepare c t g).badWord c t g.rest e))

/-- The halves of command words. -/
def ladleWords (bs : List Byte) : Nat → List LWord
  | 0 => []
  | n + 1 => (BitVec.ofNat 64 (leNat (bs.take 8)), BitVec.ofNat 64 (leNat ((bs.drop 8).take 8))) :: ladleWords (bs.drop 16) n

/-- Runs the command at a stream's LPC (R311, R325 to R327). -/
def commandTurn (l k : Nat) (y : Stream) (s : State) : Out :=
  let run (n : Nat) (f : List Byte → State → Out) : Out :=
    match s.agentRead y.ctx y.lpc n with
    | .ok (bs, bad, s1) => if bad.isEmpty then f bs s1 else .next (s1.streamErr l k errPoisonCmd)
    | .held s1 => .next (s.withRecalls s1)
    | .miss va e => .next (s.streamStall l k va 0 (some e))
    | .divert va => .next (s.streamStall l k va 0 none)
    | .fail va _ => .next (s.streamXlate l k va)
  run 16 fun bs0 _ =>
    let n := ladleLen (BitVec.ofNat 64 (leNat (bs0.take 8)))
    run (16 * n) fun bs s1 =>
      match decodeLadle (ladleWords bs n) with
      | .error e => .next (s1.streamErr l k (if e = .badOp then errBadOp else errBadField))
      | .ok i =>
        rest (exec i { s1.setStream l k { y with lpc := y.lpc + BitVec.ofNat 64 (16 * n) } with cur := .stream l k })

/-- A stream's move: a row of its emission, its WAITM again, or its next command, once its issuer has performed what comes before its
LDL.START (R238, R329). -/
def streamTurn (l k : Nat) (s : State) : Out :=
  let y := s.stream l k
  if !y.live || y.stalled.isSome || !s.streamClear y then .next s
  else if y.emit.isSome then rest (exec (.tileDelivery l k) s)
  else if y.halted then .next s
  else
    match y.waitm with
    | some x => rest (exec (.waitm x) { s with cur := .stream l k })
    | none => commandTurn l k y s

/-- A queue's move: its record (R277 to R279). -/
def queueTurn (q : Nat) (s : State) : Out :=
  match s.queueFetch q with
  | .idle s1 => .next s1
  | .run i s1 => rest (exec i { s1 with cur := .queue q })

/-- An event: one that is no event of the device does nothing. -/
def eventTurn (i : Instr) (s : State) : Out :=
  match exec i { s with cur := .none } with
  | .next s1 => .next { s1 with cur := .none }
  | .fault _ => .next s
  | .refused _ => .next s

/-! ## Parts of 8 bytes (R218, R228) and evictions -/

/-- A part of a copy that may be performed moves ahead of the other. -/
def partTurn (c t u k : Nat) (s : State) : State :=
  match s.thread? c t with
  | none => s
  | some th =>
    match th.ops.find? fun o => o.uid == u with
    | none => s
    | some o => if s.copyReady c t th o then s.movePart c t th o k else s

/-- A part of a stream's row in hand is delivered ahead of the others. -/
def spartTurn (l k i : Nat) (s : State) : State :=
  if (s.stream l k).stalled.isNone && s.streamClear (s.stream l k) then s.streamPart l k i else s

/-- A line leaves an L1, as it may at any time (log entry 1). -/
def State.dropL1 (s : State) (c line : Nat) : State := s.setCore c { s.core c with l1 := FMap.del (s.core c).l1 line }

/-- A line that no gang uses leaves an instruction buffer (R198). -/
def State.dropIb (s : State) (c line : Nat) : State :=
  if (s.core c).ibUsed line then s else s.setCore c { s.core c with ibuf := FMap.del (s.core c).ibuf line }

/-- Runs a move. -/
def runTurn (t : Turn) (s : State) : Out :=
  match t with
  | .issue c k => issueTurn c k s
  | .stream l k => streamTurn l k s
  | .queue q => queueTurn q s
  | .event i => eventTurn i s
  | .evictL1 c n => .next (s.dropL1 c n)
  | .evictIb c n => .next (s.dropIb c n)
  | .part c t u k => .next (partTurn c t u k s)
  | .vpart c k => .next (s.vecPart c k)
  | .spart l k i => .next (spartTurn l k i s)
  | .evictL2 n => .next (s.evictSector n)
  | .halves hi => .next { s with hiFirst := hi }
  | .hostHalf i => .next (s.hostRest i)
  | .cpart k i => .next (s.collPartTurn k i)

/-- The next move, and the state that has taken it from the schedule. An unpowered package takes none but the cold reset (R121). -/
def State.nextTurn (s : State) : Option Turn × State :=
  match s.schedule with
  | t :: ts => (if s.dev.dead && t != .event .coldReset then none else some t, { s with schedule := ts })
  | [] => (if s.dev.dead then none else s.autoTurn, { s with rot := s.rot + 1 })

/-! ## A program of one instruction -/

/-- The role whose threads run an instruction word (R23). -/
def roleFor (w : Word) : Role :=
  let o := (majorOf w).toNat
  if (0xA0 ≤ o ∧ o ≤ 0xA3) ∨ o = 0xA6 ∨ o = 0xA7 then .matrix
  else if 0xB0 ≤ o ∧ o ≤ 0xBF then .vector
  else if o = 0x80 ∨ o = 0xC0 ∨ o = 0xC1 then .feed
  else .general

/-- A launch of one block of one crew with every buffer. -/
def probeLaunch (r : Role) : Launch :=
  { uid := 0, ctx := 0, queue := 0, prio := 0, number := 0, gx := 1, gy := 1, gz := 1, first := 0, count := 1, cursor := 0, next := 0,
    retired := [], ticket := 0, applied := 0, half := none, waited := false, logs := [], again := [], killed := false, complete := false,
    desc := { entry := 0, cbase := 0, prvbase := 0, csize := 0, barriers := 16, nofair := false, twin := false, crews := 1, width := 16,
              regs := 256, loc := Config.locBytes, wbuf := Config.wbufBytes, abuf := Config.abufBytes, cbuf := Config.cbufBytes,
              prv := 65536, stack := 4096, rings := [16], roles := [r] } }

/-- Puts a thread with a gang of one instruction into issue slot 0 of core 0, as its next move. -/
def State.withWords (s : State) (ws : List Word) : State :=
  let l := probeLaunch (roleFor (ws.getD 0 0))
  let th : Thread := { startThread l 0 0 with status := .running 0, crun := some 0 }
  let g : Gang :=
    { start := 0, id := 0, run := 0, hdrAddr := 0, lines := [0], words := [0x00444000#32, 0] ++ ws, index := 0, addr := 8, members := [0], todo := [0],
      roomM := 1, roomV := 1, gap := false }
  let b : Block :=
    { bid := { launch := 0, idx := 0 }, ctx := 0, core := 0, desc := l.desc, threads := [(0, 0)], masks := startMasks l.desc,
      loc := Store.empty, bufs := [], bars := [], rings := [], binds := [], streams := [] }
  let k := s.core 0
  let s1 := s.setCore 0
    { k with ctx := some 0, threads := FMap.put k.threads 0 th, gangs := FMap.put k.gangs 0 g, grant := [0] }
  { s1 with blocks := b :: s1.blocks.filter (fun x => x.bid != b.bid), schedule := .issue 0 0 :: s1.schedule,
            dev := { s1.dev with dead := false } }

end Sys2Proof.Machine
end

