-- ==== Sys2Proof/Machine/Step.lean ====
section
/-! DEFINITION. The step of the machine, and the instruction that a step runs first. -/

namespace Sys2Proof.Machine

/-- One step: the next move (log entry 1). -/
def step (s : State) : Host.Outcome State Fault Refusal :=
  match s.nextTurn with
  | (some t, s1) => runTurn t s1
  | (none, s1) => .next s1

/-- `s` with an instruction where its next step takes one: in the gang that issues next (log entry 10). -/
def State.withFetchWord (s : State) (nbits w : Nat) : State :=
  let v := w % 2 ^ nbits
  s.withWords [BitVec.ofNat 32 v, BitVec.ofNat 32 (v / 2 ^ 32), BitVec.ofNat 32 (v / 2 ^ 64), BitVec.ofNat 32 (v / 2 ^ 96)]

end Sys2Proof.Machine
end

