-- ==== Sys2Proof/Safety.lean ====
section
/-! DEFINITION. What a safe run is, the invariants that statements name, and the words in which statements speak of
agents, bytes and frames. -/

namespace Sys2Proof.Safety

open Sys2Proof.Machine

/-- A run of `n` steps that ends in a next state: no step faults and none is refused. -/
def safeRun (n : Nat) (s : State) : Prop := ∃ t, Sys2Proof.core.run n s = .next t

/-! ## Invariants -/

/-- Device memory and host memory keep their canonical form. -/
def memoriesWf (s : State) : Prop :=
  Memory.wf s.mem = true ∧ Memory.wf s.hostMem = true

/-- The device registers hold values that the manual admits: CORE_MAX and CORE_NOW (R114), PWR_LIMIT (R115), the reserved bits of
ERR_STAT and ERR_MASK (R116), of FEAT_OFFER and FEAT_ACCEPT (R392), and the low bits of BOOT_ADDR (R117). -/
def registersLegal (s : State) : Prop :=
  8 ≤ s.dev.coreMax ∧ s.dev.coreMax ≤ 24 ∧ 8 ≤ s.dev.coreNow ∧ s.dev.coreNow ≤ s.dev.coreMax ∧
  600 ≤ s.dev.pwrLimit.toNat ∧ s.dev.pwrLimit.toNat ≤ Config.pwrClamp.toNat ∧
  s.dev.errStat >>> 11 = 0 ∧ s.dev.errMask >>> 11 = 0 ∧
  s.dev.offer >>> 16 = 0 ∧ s.dev.accept >>> 16 = 0 ∧ s.dev.bootAddr &&& 0xFFF = 0

/-! ## Values of encodings -/

/-- The rational that a finite value of R68 stands for. -/
def value : XR → Option Rat
  | .fin s m e => some ((if s then -1 else 1) * (m : Rat) * (2 : Rat) ^ e)
  | _ => none

/-- The strict order of two values that are not NaN, infinities included. -/
def below (x y : XR) : Prop :=
  match x, y with
  | .inf s, .inf t => s = true ∧ t = false
  | .inf s, .fin _ _ _ => s = true
  | .fin _ _ _, .inf t => t = false
  | .fin _ _ _, .fin _ _ _ => ∃ p q, value x = some p ∧ value y = some q ∧ p < q
  | _, _ => False

/-- The first encoding of a pair of operands lies below the second. -/
def codeBelow (f : Fmt) (a b : Nat) : Prop := below (toReal f a) (toReal f b)

/-- An encoding of a NaN. -/
def codeNan (f : Fmt) (a : Nat) : Prop := (toReal f a).isNan = true

/-! ## What rounding a magnitude means (R50 to R53) -/

/-- A nonzero number: an integer times a power of two, or a fourth root of two to a power that is no whole one. -/
def Proper : XR → Prop
  | .fin _ m _ => m ≠ 0
  | .quart _ q => q % 4 ≠ 0
  | _ => False

def orderRat (z x : Rat) : Ordering := if z < x then .lt else if z = x then .eq else .gt

/-- How a rational that is not negative compares with the magnitude of a number. -/
def magOrder : XR → Rat → Ordering
  | .fin _ m e, z => orderRat z ((m : Rat) * 2 ^ e)
  | .quart _ q, z => orderRat (z ^ 4) ((2 : Rat) ^ q)
  | _, _ => .lt

/-- The magnitude at place `j` among those of a binary format with the exponent range unbounded above (R39, R50 step 3). -/
def gridAt (f : Fmt) (j : Nat) : Rat :=
  if j < 2 ^ Fmt.frac f then (j : Rat) * 2 ^ Fmt.emin f
  else ((2 ^ Fmt.frac f + j % 2 ^ Fmt.frac f : Nat) : Rat) * 2 ^ (Fmt.emin f + (j / 2 ^ Fmt.frac f : Nat) - 1)

/-- Whether a magnitude between `lo`, at place `j`, and the next one, `hi`, rounds up (R50 step 3, R51): `ord` compares with it, `w` is the
random word. -/
def roundsUp (rm : Rm) (neg : Bool) (w j : Nat) (lo hi : Rat) (ord : Rat → Ordering) : Bool :=
  ord lo != .eq && match rm with
    | .rn => ord ((lo + hi) / 2) == .lt || (ord ((lo + hi) / 2) == .eq && j % 2 == 1)
    | .rz => false
    | .rd => neg
    | .ru => !neg
    | .rs => ord (lo + (hi - lo) * (2 ^ 32 - w) / 2 ^ 32) != .gt

/-- What stands for a magnitude beyond the largest finite one (R52). -/
def pastEnd (f : Fmt) (rm : Rm) (neg sat : Bool) : Nat :=
  let sign := if neg then 2 ^ (Fmt.n f - 1) else 0
  let inf := 2 ^ (Fmt.n f - 1) - 2 ^ Fmt.frac f
  if sat then sign + Fmt.maxCode f
  else if f = .e4m3 then 0x7F
  else if Fmt.hasInf f = false then sign + Fmt.maxCode f
  else sign + match rm with
    | .rn | .rs => inf
    | .rz => inf - 1
    | .rd => if neg then inf else inf - 1
    | .ru => if neg then inf - 1 else inf

/-- `r` is the encoding to which R50 takes a nonzero value of the sign `neg` with whose magnitude `ord` compares. -/
def RoundsTo (f : Fmt) (rm : Rm) (sat : Bool) (w : Nat) (neg : Bool) (ord : Rat → Ordering) (r : Nat) : Prop :=
  ∀ j : Nat, ord (gridAt f j) ≠ .gt → ord (gridAt f (j + 1)) = .gt →
    let k := if roundsUp rm neg w j (gridAt f j) (gridAt f (j + 1)) ord then j + 1 else j
    r = if k ≤ Fmt.maxCode f then (if neg then 2 ^ (Fmt.n f - 1) else 0) + k else pastEnd f rm neg sat

/-- `z` is the integer to which a mode takes a magnitude with which `ord` compares (R53). -/
def IntegerOf (rm : Rm) (neg : Bool) (ord : Rat → Ordering) (z : Nat) : Prop :=
  ∀ j : Nat, ord j ≠ .gt → ord (j + 1 : Nat) = .gt → z = if roundsUp rm neg 0 j j (j + 1 : Nat) ord then j + 1 else j

/-! ## Who acts -/

/-- The thread in slot `t` of core `c` is in turn, and its guard `g` lets it execute (R77). -/
def Runs (s : State) (c t : Nat) (th : Thread) (g : BitVec 4) : Prop :=
  s.cur = .thread c t ∧ s.thread? c t = some th ∧ g ≠ 8 ∧ th.guard g = true

/-- A class L instruction's header gives it a completion flag, or none (R70, R79). -/
def FlagOf (s : State) (c : Nat) (th : Thread) (h : LHdr) (fl : Option Nat) : Prop :=
  slotFlag (((s.gangOf c th).map Gang.header).getD 0) h.flag = .ok fl

/-- The running stream in slot `k` of Ladle `l` is in turn. -/
def StreamRuns (s : State) (l k : Nat) : Prop := s.cur = .stream l k ∧ (s.stream l k).live = true

/-! ## Bytes and frames -/

/-- A byte of a buffer of a resident block: `loc`, or a typed buffer of one half of a twin. -/
def bufferByte (s : State) (b : Bid) (half : Nat) (sp : Space) (a : Nat) : Option Byte :=
  (s.block? b).map fun k => (k.store half sp).get a

/-- Every byte of device memory, of host memory and of every buffer reads as before. -/
def SameBytes (s s' : State) : Prop :=
  (∀ a, s'.mem.get a = s.mem.get a) ∧ (∀ a, s'.hostMem.get a = s.hostMem.get a) ∧
  ∀ b half sp a, bufferByte s' b half sp a = bufferByte s b half sp a

/-- The registers of one span. -/
def spanRegs (p : Nat × Nat) : List Nat := (List.range p.2).map (p.1 + ·)

/-! ## What instructions may change -/

/-- The general registers and the predicates that a register-only instruction writes; none for every other instruction. -/
def registersWritten : Instr → Option (List Nat × List Nat)
  | .nop _ | .bra _ | .brx _ | .yield _ => some ([], [])
  | .iadd x | .isub x | .imul x | .imulh x | .idiv x | .irem x | .imin x | .imax x | .and x | .or x | .xor x | .shl x | .shr x =>
    some (spanRegs (spT x.t x.d), [])
  | .imad x => some (spanRegs (spT x.t x.d), [])
  | .iabs x | .mov x | .brev x => some (spanRegs (spT x.t x.d), [])
  | .popc x | .clz x => some ([x.d.toNat], [])
  | .lea x => some (spanRegs (sp2 x.d), [])
  | .icmp x => some ([], [x.pd.toNat])
  | .isel x => some (spanRegs (spT x.t x.d), [])
  | .movi x => some (spanRegs (match x.v with | .n32 _ => sp1 x.d | _ => sp2 x.d), [])
  | .movs x => some ([x.d.toNat], [])
  | .lut3 x => some (spanRegs (if x.wide then sp2 x.d else sp1 x.d), [])
  | .rot x => some (spanRegs (spT x.t x.d), [])
  | .bfe x => some (spanRegs (spT x.t x.d), [])
  | .bfi x => some (spanRegs (spT x.t x.d), [])
  | .bsel x => some ([x.d.toNat], [])
  | .plut x => some ([], [x.pd.toNat])
  | .fadd x | .fsub x | .fmul x | .fdiv x | .fmin x | .fmax x => some (spanRegs (spF x.f x.d), [])
  | .fma x => some (spanRegs (spF x.f x.d), [])
  | .fcmp x => some ([], [x.pd.toNat])
  | .hadd2 x | .hsub2 x | .hmul2 x | .hmin2 x | .hmax2 x | .pack x => some ([x.d.toNat], [])
  | .hfma2 x => some ([x.d.toNat], [])
  | .hcmp2 x => some ([], [x.pd.toNat, x.pd.toNat + 1])
  | .fclass x => some ([x.d.toNat], [])
  | .cvt x => some (spanRegs (spC x.dt x.d), [])
  | .cvts x => some (spanRegs (spF x.dt x.d), [])
  | .frint x | .fexp2 x | .flog2 x | .frcp x | .frsq x | .fsqrt x | .fsin x | .fcos x | .ftanh x => some (spanRegs (spF x.f x.d), [])
  | .unpk x => some (spanRegs (x.d.toNat, if x.f.n = 16 then 2 else 4), [])
  | .rnd x => some (spanRegs (sp4 x.d), [])
  | .rndLo x => some ([x.d.toNat], [])
  | .xshf x => some ([x.d.toNat], [x.pd.toNat])
  | .xvote x => some (spanRegs (sp2 x.e), [x.pd.toNat])
  | .xbal x => some (spanRegs (sp2 x.d) ++ spanRegs (sp2 x.e), [])
  | .xred x => some ([x.d.toNat], [])
  | .msetRd x => some (spanRegs (sp2 x.r), [])
  | .mstat x => some (spanRegs (sp2 x.d), [])
  | .srd x => some (spanRegs (spSys x.r x.x), [])
  | .cycr x => some (spanRegs (sp2 x.d), [])
  | .perfr x => some (spanRegs (sp2 x.d), [])
  | _ => none

/-- The instructions of class L of the memory, matrix and tile vector families, which issue an operation and write nothing until it is
performed (R79, R201). -/
def issuesOnly : Instr → Bool
  | .ld _ | .st _ | .ldc _ | .atom _ | .cas _ | .red _ | .redt _ | .cpyIn _ | .cpyOut _ | .wld _ | .wlds _ | .mloop _ | .mzero _ | .dcfg _
  | .vadd _ | .vsub _ | .vmul _ | .vfma _ | .vmin _ | .vmax _ | .vexp2 _ | .vrmax _ | .vrsum _ | .vscl _ | .vcvt _ | .vcmp _ | .vmov _
  | .vst _ => true
  | _ => false

/-- The registers of a thread that only special instructions, the call stack, faults and handlers change. -/
def keptRegisters (a b : Thread) : Prop :=
  b.ctx = a.ctx ∧ b.bid = a.bid ∧ b.crew = a.crew ∧ b.tid = a.tid ∧ b.width = a.width ∧ b.role = a.role ∧ b.nregs = a.nregs ∧
  b.f = a.f ∧ b.csp = a.csp ∧ b.cslo = a.cslo ∧ b.cshi = a.cshi ∧ b.hs0 = a.hs0 ∧ b.hs1 = a.hs1 ∧ b.nofair = a.nofair ∧
  b.unord = a.unord ∧ b.ops = a.ops ∧ b.late = a.late ∧ b.ckCount = a.ckCount ∧ b.preck = a.preck ∧ b.logLen = a.logLen

/-- The fault registers and the handler mode stand, or the thread has entered its handler. -/
def keptFaults (a b : Thread) : Prop :=
  (b.hm = a.hm ∧ b.fcause = a.fcause ∧ b.fpc = a.fpc ∧ b.fhdr = a.fhdr ∧ b.faddr = a.faddr ∧ b.finfo = a.finfo) ∨
  (a.hm = false ∧ b.hm = true)

end Sys2Proof.Safety
end

