-- ==== Sys2Proof/Certificates/Slice0/Obligations.lean ====
section
/-! DEFINITION. The statements for the provers. -/

open Sys2Proof Sys2Proof.Machine Sys2Proof.Safety

/-! ## Integer family -/

/-- Integer arithmetic completes and writes the exact result of R126 to R129, narrowed or clamped, to its destination; IDIV and IREM complete
on every operand: all ones and A for a divisor of 0, and the quotient truncated toward zero with its remainder otherwise (R128). The next
state differs in nothing else. -/
def Obligations.IntegerArithmeticResults : Prop :=
  (∀ (s : State) (c t : Nat) (th : Thread),
     (∀ x : Alu3Args, Runs s c t th x.g → regsOk th (spT x.t x.d :: spT x.t x.a :: spSrc x.t x.b) = true →
       let a := th.int x.t x.a
       let b := th.srcInt x.t x.b
       let puts (i : Instr) (v : Int) : Prop := exec i s = .next (s.setThread c t (th.setInt x.t x.d (narrow x.t x.sat v)))
       puts (.iadd x) (a + b) ∧ puts (.isub x) (a - b) ∧ puts (.imul x) (a * b) ∧ puts (.imulh x) (a * b / 2 ^ x.t.n) ∧
       puts (.imin x) (min a b) ∧ puts (.imax x) (max a b)) ∧
     (∀ x : ImadArgs, Runs s c t th x.g → regsOk th (spT x.t x.d :: spT x.t x.a :: spT x.t x.b :: spSrc x.t x.c) = true →
       exec (.imad x) s = .next (s.setThread c t
         (th.setInt x.t x.d (narrow x.t x.sat (th.int x.t x.a * th.int x.t x.b + th.srcInt x.t x.c))))) ∧
     (∀ x : UnArgs, Runs s c t th x.g → regsOk th [spT x.t x.d, spT x.t x.a] = true →
       exec (.iabs x) s = .next (s.setThread c t (th.setInt x.t x.d (narrow x.t x.sat ((th.int x.t x.a).natAbs : Int))))) ∧
     (∀ x : LeaArgs, Runs s c t th x.g → regsOk th (sp2 x.d :: sp2 x.a :: spSrc x.t x.b) = true →
       exec (.lea x) s = .next (s.setThread c t (th.setPair x.d.toNat
         (th.pair x.a.toNat + BitVec.ofInt 64 (th.srcInt x.t x.b * 2 ^ x.k.toNat)))))) ∧
  (∀ (s : State) (c t : Nat) (th : Thread) (x : Alu3Args), x.sat = false → Runs s c t th x.g →
     regsOk th (spT x.t x.d :: spT x.t x.a :: spSrc x.t x.b) = true →
     let a := th.int x.t x.a
     let b := th.srcInt x.t x.b
     let q : Int := if b = 0 then 2 ^ x.t.n - 1 else a.sign * b.sign * (a.natAbs / b.natAbs : Nat)
     let m : Int := if b = 0 then a else a - q * b
     exec (.idiv x) s = .next (s.setThread c t (th.setInt x.t x.d (wrap x.t.n q))) ∧
     exec (.irem x) s = .next (s.setThread c t (th.setInt x.t x.d (wrap x.t.n m))))

/-- An exact result without `.sat` is taken modulo 2^n and with `.sat` clamped to the range of the type (R38). Operands of an integer type are
the low n bits of one register, signed for `.i` types, or a pair for 64 bits; a narrow result fills its whole register with copies of bit
n − 1 or with zeros; other registers stand (R123). -/
def Obligations.IntegerOperandsAndResults : Prop :=
  (∀ (t : IType) (v : Int),
     (narrow t false v : Int) = v % 2 ^ t.n ∧
     asInt t (narrow t true v) =
       (if t.signed then max (-2 ^ (t.n - 1)) (min (2 ^ (t.n - 1) - 1) v) else max 0 (min (2 ^ t.n - 1) v))) ∧
  (∀ (th : Thread) (t : IType) (r : GReg),
     (t.n ≤ 32 → th.int t r = if t.signed then ((th.reg r.toNat).extractLsb' 0 t.n).toInt
       else (((th.reg r.toNat).extractLsb' 0 t.n).toNat : Int)) ∧
     (t.n = 64 → th.int t r = if t.signed then (th.reg (r.toNat + 1) ++ th.reg r.toNat).toInt
       else ((th.reg (r.toNat + 1) ++ th.reg r.toNat).toNat : Int)) ∧
     ∀ v : Nat,
       (t.n ≤ 32 → (th.setInt t r v).reg r.toNat =
         if t.signed then (BitVec.ofNat t.n v).signExtend 32 else (BitVec.ofNat t.n v).setWidth 32) ∧
       (t.n = 64 → (th.setInt t r v).reg (r.toNat + 1) ++ (th.setInt t r v).reg r.toNat = BitVec.ofNat 64 v) ∧
       ∀ q, q ∉ spanRegs (spT t r) → (th.setInt t r v).reg q = th.reg q)

/-- Logic, shifts and bit fields complete, and each bit of the n-bit result is the bit that R134 to R139 give; the next state differs
only in the destination. -/
def Obligations.BitwiseResults : Prop :=
  ∀ (s : State) (c t : Nat) (th : Thread),
    (∀ x : Alu3Args, Runs s c t th x.g → regsOk th (spT x.t x.d :: spT x.t x.a :: spSrc x.t x.b) = true →
      let a := th.bitsOf x.t x.a
      let b := wrap x.t.n (th.srcInt x.t x.b)
      let bits (i : Instr) (f : Nat → Bool) : Prop :=
        ∃ v, exec i s = .next (s.setThread c t (th.setInt x.t x.d v)) ∧ v < 2 ^ x.t.n ∧ ∀ j < x.t.n, v.testBit j = f j
      bits (.and x) (fun j => a.testBit j && b.testBit j) ∧ bits (.or x) (fun j => a.testBit j || b.testBit j) ∧
      bits (.xor x) (fun j => a.testBit j != b.testBit j)) ∧
    (∀ x : Lut3Args, Runs s c t th x.g →
      let ty : IType := if x.wide then .n64 else .n32
      regsOk th [spT ty x.d, spT ty x.a, spT ty x.b, spT ty x.c] = true →
      ∃ v, exec (.lut3 x) s = .next (s.setThread c t (th.setInt ty x.d v)) ∧ v < 2 ^ ty.n ∧ ∀ j < ty.n,
        v.testBit j = x.table.getLsbD (((th.bitsOf ty x.a).testBit j).toNat + 2 * ((th.bitsOf ty x.b).testBit j).toNat +
          4 * ((th.bitsOf ty x.c).testBit j).toNat)) ∧
    (∀ x : Alu3Args, Runs s c t th x.g → regsOk th (spT x.t x.d :: spT x.t x.a :: spAmount x.b) = true →
      let a := th.bitsOf x.t x.a
      let k := th.amount x.b
      let bits (i : Instr) (f : Nat → Bool) : Prop :=
        ∃ v, exec i s = .next (s.setThread c t (th.setInt x.t x.d v)) ∧ v < 2 ^ x.t.n ∧ ∀ j < x.t.n, v.testBit j = f j
      bits (.shl x) (fun j => decide (k ≤ j) && a.testBit (j - k)) ∧
      bits (.shr x) (fun j => if j + k < x.t.n then a.testBit (j + k) else x.t.signed && a.testBit (x.t.n - 1))) ∧
    (∀ x : RotArgs, Runs s c t th x.g → regsOk th (spT x.t x.d :: spT x.t x.a :: spAmount x.b) = true →
      let a := th.bitsOf x.t x.a
      let k := th.amount x.b % x.t.n
      ∃ v, exec (.rot x) s = .next (s.setThread c t (th.setInt x.t x.d v)) ∧ v < 2 ^ x.t.n ∧ ∀ j < x.t.n,
        v.testBit j = a.testBit ((if x.right then j + k else j + (x.t.n - k)) % x.t.n)) ∧
    (∀ x : BfeArgs, Runs s c t th x.g → regsOk th [spT x.t x.d, spT x.t x.a] = true → x.p.toNat + (x.len1.toNat + 1) ≤ x.t.n →
      let a := th.bitsOf x.t x.a
      ∃ v, exec (.bfe x) s = .next (s.setThread c t (th.setInt x.t x.d v)) ∧ v < 2 ^ x.t.n ∧ ∀ j < x.t.n,
        v.testBit j = if j ≤ x.len1.toNat then a.testBit (x.p.toNat + j)
          else x.t.signed && a.testBit (x.p.toNat + x.len1.toNat)) ∧
    (∀ x : BfiArgs, Runs s c t th x.g → regsOk th [spT x.t x.d, spT x.t x.a, spT x.t x.b] = true →
      x.p.toNat + (x.len1.toNat + 1) ≤ x.t.n →
      ∃ v, exec (.bfi x) s = .next (s.setThread c t (th.setInt x.t x.d v)) ∧ v < 2 ^ x.t.n ∧ ∀ j < x.t.n,
        v.testBit j = if x.p.toNat ≤ j ∧ j ≤ x.p.toNat + x.len1.toNat then (th.bitsOf x.t x.b).testBit (j - x.p.toNat)
          else (th.bitsOf x.t x.a).testBit j) ∧
    (∀ x : UnArgs, Runs s c t th x.g → regsOk th [spT x.t x.d, spT x.t x.a] = true →
      ∃ v, exec (.brev x) s = .next (s.setThread c t (th.setInt x.t x.d v)) ∧ v < 2 ^ x.t.n ∧ ∀ j < x.t.n,
        v.testBit j = (th.bitsOf x.t x.a).testBit (x.t.n - 1 - j))

/-- Counts, byte selection, comparison, selection, moves and NOP complete with the results of R89, R130 to R133, R136, R139 and R140. -/
def Obligations.CountAndMoveResults : Prop :=
  ∀ (s : State) (c t : Nat) (th : Thread),
    (∀ x : NopArgs, Runs s c t th x.g → exec (.nop x) s = .next (s.setThread c t th)) ∧
    (∀ x : UnArgs, Runs s c t th x.g → regsOk th [sp1 x.d, spT x.t x.a] = true →
      let a := th.bitsOf x.t x.a
      exec (.popc x) s = .next (s.setThread c t (th.setReg x.d.toNat
        (BitVec.ofNat 32 ((List.range x.t.n).countP fun j => a.testBit j)))) ∧
      ∃ z, exec (.clz x) s = .next (s.setThread c t (th.setReg x.d.toNat (BitVec.ofNat 32 z))) ∧ z ≤ x.t.n ∧
        (∀ j, j < z → a.testBit (x.t.n - 1 - j) = false) ∧ (z < x.t.n → a.testBit (x.t.n - 1 - z) = true)) ∧
    (∀ x : UnArgs, Runs s c t th x.g → regsOk th [spT x.t x.d, spT x.t x.a] = true →
      exec (.mov x) s = .next (s.setThread c t (th.setInt x.t x.d (th.bitsOf x.t x.a)))) ∧
    (∀ x : BselArgs, Runs s c t th x.g → regsOk th [sp1 x.d, sp1 x.a, sp1 x.b, sp1 x.c] = true →
      exec (.bsel x) s = .next (s.setThread c t (th.setReg x.d.toNat (bselOf (th.reg x.a.toNat) (th.reg x.b.toNat) (th.reg x.c.toNat))))) ∧
    (∀ x : IcmpArgs, Runs s c t th x.g → regsOk th (spT x.t x.a :: spSrc x.t x.b) = true →
      let a := th.int x.t x.a
      let b := th.srcInt x.t x.b
      exec (.icmp x) s = .next (s.setThread c t (th.setPred x.pd.toNat (match x.c with
        | .eq => decide (a = b) | .ne => decide (a ≠ b) | .lt => decide (a < b) | .le => decide (a ≤ b)
        | .gt => decide (b < a) | .ge => decide (b ≤ a))))) ∧
    (∀ x : IselArgs, Runs s c t th x.g → regsOk th [spT x.t x.d, spT x.t x.a, spT x.t x.b] = true →
      exec (.isel x) s = .next (s.setThread c t (th.setInt x.t x.d (th.bitsOf x.t (if th.psrc x.p then x.a else x.b))))) ∧
    (∀ x : PlutArgs, Runs s c t th x.g →
      exec (.plut x) s = .next (s.setThread c t (th.setPred x.pd.toNat (x.table.getLsbD
        ((th.psrc x.p1).toNat + 2 * (th.psrc x.p2).toNat + 4 * (th.psrc x.p3).toNat))))) ∧
    (∀ (g : BitVec 4) (d : GReg) (v : Word) (w : Dword), Runs s c t th g →
      (regsOk th [sp1 d] = true → exec (.movi ⟨g, d, .n32 v⟩) s = .next (s.setThread c t (th.setReg d.toNat v))) ∧
      (regsOk th [sp2 d] = true →
        exec (.movi ⟨g, d, .n64 v⟩) s = .next (s.setThread c t (th.setPair d.toNat (v.setWidth 64))) ∧
        exec (.movi ⟨g, d, .i64 v⟩) s = .next (s.setThread c t (th.setPair d.toNat (v.signExtend 64))) ∧
        exec (.movi ⟨g, d, .n64w w⟩) s = .next (s.setThread c t (th.setPair d.toNat w)) ∧
        exec (.movi ⟨g, d, .i64w w⟩) s = .next (s.setThread c t (th.setPair d.toNat w)))) ∧
    (∀ x : MovsArgs, Runs s c t th x.g → regsOk th [sp1 x.d] = true →
      exec (.movs x) s = .next (s.setThread c t (th.setReg x.d.toNat (match x.r with
        | .tid => BitVec.ofNat 32 th.tid | .lane => BitVec.ofNat 32 th.lane | .crew => BitVec.ofNat 32 th.crew
        | .blkx => th.blkx | .blky => th.blky | .blkz => th.blkz | .core => BitVec.ofNat 32 c
        | .clu => BitVec.ofNat 32 (c / 16) | .twin => BitVec.ofNat 32 (c / 2) | .ctx => BitVec.ofNat 32 th.ctx
        | .rank => s.rank | .gen => s.tables.gen.setWidth 32))))

/-! ## Floating-point and packed families -/

/-- Scalar arithmetic completes on every operand and writes the operation's result in its format to the destination (R151, R152, R153,
R161, R164); the next state differs in nothing else.
Exact sums and products of finite values have the rational value of R68, and a sum that is zero takes the sign of R50 step 2. A quotient and a
square root are correctly rounded, with R152's special cases; FRINT gives the integer that the mode takes the value to, with the sign of A. -/
def Obligations.FloatArithmeticResults : Prop :=
  (∀ (s : State) (c t : Nat) (th : Thread),
     (∀ x : Fp3Args, Runs s c t th x.g → regsOk th (spF x.f x.d :: spF x.f x.a :: spRI x.f x.b) = true →
       let A := toReal x.f (th.flt x.f x.a)
       let B := toReal x.f (th.fltRI x.f x.b)
       let puts (i : Instr) (v : Nat) : Prop := exec i s = .next (s.setThread c t (th.setFlt x.f x.d v))
       puts (.fadd x) (round (xadd x.rm A B) x.f x.rm 0 x.sat) ∧ puts (.fsub x) (round (xadd x.rm A B.neg) x.f x.rm 0 x.sat) ∧
       puts (.fmul x) (round (xmul A B) x.f x.rm 0 x.sat) ∧ puts (.fdiv x) (round (xdiv A B) x.f x.rm 0 false) ∧
       puts (.fmin x) (fMinMax x.f false (th.flt x.f x.a) (th.fltRI x.f x.b)) ∧
       puts (.fmax x) (fMinMax x.f true (th.flt x.f x.a) (th.fltRI x.f x.b))) ∧
     (∀ x : FmaArgs, Runs s c t th x.g → regsOk th (spF x.f x.d :: spF x.f x.a :: spF x.f x.b :: spRI x.f x.c) = true →
       exec (.fma x) s = .next (s.setThread c t (th.setFlt x.f x.d
         (round (xadd x.rm (xmul (toReal x.f (th.flt x.f x.a)) (toReal x.f (th.flt x.f x.b))) (toReal x.f (th.fltRI x.f x.c)))
           x.f x.rm 0 x.sat)))) ∧
     (∀ x : F1Args, Runs s c t th x.g → regsOk th [spF x.f x.d, spF x.f x.a] = true →
       let A := toReal x.f (th.flt x.f x.a)
       let puts (i : Instr) (v : Nat) : Prop := exec i s = .next (s.setThread c t (th.setFlt x.f x.d v))
       puts (.frint x) (fRint x.f x.rm (th.flt x.f x.a)) ∧ puts (.frcp x) (round (xdiv (.fin false 1 0) A) x.f x.rm 0 false) ∧
       puts (.fsqrt x) (round (xsqrt A) x.f x.rm 0 false))) ∧
  (∀ (rm : Rm) (a b : Bool) (m n : Nat) (e f : Int) (x y : Rat), value (.fin a m e) = some x → value (.fin b n f) = some y →
     value (xadd rm (.fin a m e) (.fin b n f)) = some (x + y) ∧ value (xmul (.fin a m e) (.fin b n f)) = some (x * y) ∧
     (x + y = 0 → ∃ z, xadd rm (.fin a m e) (.fin b n f) = .fin (if a = b then a else rm == .rd) 0 z) ∧
     (x * y = 0 → ∃ z, xmul (.fin a m e) (.fin b n f) = .fin (a != b) 0 z) ∧
     (m ≠ 0 → xmul (.fin a m e) (.inf b) = .inf (a != b)) ∧ xmul (.fin a 0 e) (.inf b) = .nan ∧
     xadd rm (.inf a) (.inf (!a)) = .nan) ∧
  (∀ f rm, f ∈ [Fmt.f32, .f64] → rm ≠ .rs →
     let div (x y : XR) := round (xdiv x y) f rm 0 false
     let root (x : XR) := round (xsqrt x) f rm 0 false
     let sign (neg : Bool) := if neg then 2 ^ (f.n - 1) else 0
     let inf := 2 ^ (f.n - 1) - 2 ^ Fmt.frac f
     (∀ (a b : Bool) (m n : Nat) (d e : Int) (y : XR),
       (m ≠ 0 → n ≠ 0 →
         RoundsTo f rm false 0 (a != b) (fun z => orderRat z ((m : Rat) * 2 ^ d / (n * 2 ^ e))) (div (.fin a m d) (.fin b n e))) ∧
       (m ≠ 0 → div (.fin a m d) (.fin b 0 e) = sign (a != b) + inf) ∧ (n ≠ 0 → div (.fin a 0 d) (.fin b n e) = sign (a != b)) ∧
       div (.fin a 0 d) (.fin b 0 e) = canonicalNan f ∧ div (.inf a) (.inf b) = canonicalNan f ∧
       div (.fin a m d) (.inf b) = sign (a != b) ∧ div (.inf a) (.fin b n e) = sign (a != b) + inf ∧
       div .nan y = canonicalNan f ∧ div y .nan = canonicalNan f ∧
       (m ≠ 0 → RoundsTo f rm false 0 false (fun z => orderRat (z * z) ((m : Rat) * 2 ^ d)) (root (.fin false m d))) ∧
       root (.fin a 0 d) = sign a ∧ (m ≠ 0 → root (.fin true m d) = canonicalNan f) ∧ root (.inf false) = inf ∧
       root (.inf true) = canonicalNan f ∧ root .nan = canonicalNan f) ∧
     (∀ k < 2 ^ f.n,
       (∀ a m e, toReal f k = .fin a m e → (fRint f rm k).testBit (f.n - 1) = a ∧ (m = 0 → fRint f rm k = k) ∧
         ((2 : Rat) ^ Fmt.frac f ≤ (m : Rat) * 2 ^ e → fRint f rm k = k) ∧
         ∃ z : Nat, (m ≠ 0 → IntegerOf rm a (magOrder (.fin a m e)) z) ∧
           value (toReal f (fRint f rm k)) = some ((if a then -1 else 1) * (z : Rat))) ∧
       (∀ a, toReal f k = .inf a → fRint f rm k = k) ∧ (toReal f k = .nan → fRint f rm k = canonicalNan f)))

/-- Rounding (R50 step 3): no finite encoding of the format lies nearer to the exact value than a finite result to nearest, and on a tie the
result's last fraction bit is even; `.rz` leaves no encoding between the result and the exact value and never passes it; `.rd` and `.ru`
take the nearest encoding below and above, in formats with infinities; `.rs` takes, of the two encodings that bracket the magnitude, the
upper one exactly when the random word reaches the rest of the way to 2^32 (R51).
Of every nonzero number, whatever its size, a rounding in each mode gives the neighbour of its magnitude on the format's grid with the range
unbounded above, and beyond the largest finite magnitude what R52 names for the mode and `.sat`; an infinity and a NaN follow R50 and R52.
Into LNS6 the code is that of R44, in both modes. -/
def Obligations.RoundingModes : Prop :=
  (∀ (f : Fmt) (sat : Bool) (w : Nat) (v : XR) (x y z : Rat) (k : Nat), f ≠ .lns6 → value v = some x →
     value (toReal f (round v f .rn w sat)) = some y → k < 2 ^ f.n → value (toReal f k) = some z →
     (y - x).abs ≤ (z - x).abs ∧ ((y - x).abs = (z - x).abs → y ≠ z → round v f .rn w sat % 2 = 0)) ∧
  (∀ (f : Fmt) (sat : Bool) (w : Nat) (v : XR) (x y z : Rat) (k : Nat), f ≠ .lns6 → value v = some x → k < 2 ^ f.n →
     value (toReal f k) = some z →
     (value (toReal f (round v f .rz w sat)) = some y → y.abs ≤ x.abs ∧ 0 ≤ x * y ∧ (z.abs ≤ x.abs → 0 ≤ x * z → z.abs ≤ y.abs)) ∧
     (Fmt.hasInf f = true → value (toReal f (round v f .rd w false)) = some y → y ≤ x ∧ (z ≤ x → z ≤ y)) ∧
     (Fmt.hasInf f = true → value (toReal f (round v f .ru w false)) = some y → x ≤ y ∧ (x ≤ z → y ≤ z))) ∧
  (∀ (f : Fmt) (sat : Bool) (w k : Nat) (v : XR) (x lo hi : Rat), f ≠ .lns6 → w < 2 ^ 32 → value v = some x → k + 1 < 2 ^ (f.n - 1) →
     value (toReal f k) = some lo → value (toReal f (k + 1)) = some hi → lo ≤ x.abs → x.abs < hi →
     value (toReal f (round v f .rs w sat)) =
       some ((if x < 0 then -1 else 1) * (if 2 ^ 32 ≤ ((x.abs - lo) / (hi - lo) * 2 ^ 32).floor + (w : Int) then hi else lo))) ∧
  (∀ (f : Fmt) (rm : Rm) (sat a : Bool) (w : Nat) (v : XR), f ≠ .lns6 → w < 2 ^ 32 →
     (Proper v → RoundsTo f rm sat w (isNeg v) (magOrder v) (round v f rm w sat)) ∧
     (∀ e, round (.fin a 0 e) f rm w sat = if a then 2 ^ (f.n - 1) else 0) ∧ round .nan f rm w sat = canonicalNan f ∧
     round (.inf a) f rm w sat = if Fmt.hasInf f && !sat then (if a then 2 ^ (f.n - 1) else 0) + (2 ^ (f.n - 1) - 2 ^ Fmt.frac f)
       else if f = .e4m3 ∧ sat = false then 0x7F else (if a then 2 ^ (f.n - 1) else 0) + Fmt.maxCode f) ∧
  [Fmt.f32, .f16, .bf16, .e4m3, .e5m2, .e2m3, .e3m2, .e2m1, .f64].map Fmt.maxCode =
    [0x7F7FFFFF, 0x7BFF, 0x7F7F, 0x7E, 0x7B, 0x1F, 0x1F, 7, 0x7FEFFFFFFFFFFFFF] ∧
  (∀ (rm : Rm) (sat a : Bool) (w m : Nat) (e l q : Int),
     let code (l : Int) : Nat := if l < 1 then 0 else (if a then 32 else 0) + (min l 31).toNat
     let x : Rat := (m : Rat) * 2 ^ e
     (2 ^ (2 * l - 33) < x ^ 8 → x ^ 8 < 2 ^ (2 * l - 31) → round (.fin a m e) .lns6 .rn w sat = code l) ∧
     (2 ^ (l - 16) ≤ x ^ 4 → x ^ 4 < 2 ^ (l - 15) → round (.fin a m e) .lns6 .rz w sat = code l) ∧
     (rm = .rn ∨ rm = .rz → round (.quart a q) .lns6 rm w sat = code (16 + q) ∧ round (.fin a 0 e) .lns6 rm w sat = 0 ∧
       round (.inf a) .lns6 rm w sat = (if a then 63 else 31) ∧ round .nan .lns6 rm w sat = 0x20))

/-- Converting an encoding to its own format returns it in every rounding mode, but a NaN becomes the canonical NaN, and an infinity
under `.sat` the largest finite value of its sign (R159). -/
def Obligations.ConversionToOwnFormat : Prop :=
  ∀ (f : Fmt) (rm : Rm) (w : Nat) (sat : Bool) (k : Nat), k < 2 ^ f.n → w < 2 ^ 32 →
    round (toReal f k) f rm w sat = (match toReal f k with
      | .nan => canonicalNan f
      | .inf s => if sat then (if s then 2 ^ (f.n - 1) else 0) + (Fmt.maxCode f) else k
      | _ => k)

/-- FMIN and FMAX follow the table of R153 on every pair of encodings. FCMP and FCLASS complete: the predicate is the condition of R154, and
exactly the class bit of R155 is set. -/
def Obligations.MinMaxCompareAndClass : Prop :=
  (∀ (f : Fmt) (a b : Nat), f ≠ .lns6 →
     let lo := fMinMax f false a b
     let hi := fMinMax f true a b
     (codeNan f a → codeNan f b → lo = canonicalNan f ∧ hi = canonicalNan f) ∧
     (codeNan f a → ¬ codeNan f b → lo = b ∧ hi = b) ∧ (¬ codeNan f a → codeNan f b → lo = a ∧ hi = a) ∧
     (codeBelow f a b → lo = a ∧ hi = b) ∧ (codeBelow f b a → lo = b ∧ hi = a) ∧
     (∀ x y, toReal f a = .fin true 0 x → toReal f b = .fin false 0 y → lo = a ∧ hi = b) ∧
     (∀ x y, toReal f a = .fin false 0 x → toReal f b = .fin true 0 y → lo = b ∧ hi = a)) ∧
  (∀ (s : State) (c t : Nat) (th : Thread),
     (∀ x : FcmpArgs, x.f ≠ .lns6 → Runs s c t th x.g → regsOk th (spF x.f x.a :: spRI x.f x.b) = true →
       let a := th.flt x.f x.a
       let b := th.fltRI x.f x.b
       let u := codeNan x.f a ∨ codeNan x.f b
       ∃ v, exec (.fcmp x) s = .next (s.setThread c t (th.setPred x.pd.toNat v)) ∧ (v = true ↔ match x.c with
         | .eq => ¬ u ∧ ¬ codeBelow x.f a b ∧ ¬ codeBelow x.f b a
         | .ne => u ∨ codeBelow x.f a b ∨ codeBelow x.f b a
         | .lt => ¬ u ∧ codeBelow x.f a b
         | .le => ¬ u ∧ ¬ codeBelow x.f b a
         | .gt => ¬ u ∧ codeBelow x.f b a
         | .ge => ¬ u ∧ ¬ codeBelow x.f a b
         | .nan => u
         | .num => ¬ u)) ∧
     (∀ x : F1Args, x.f = .f32 ∨ x.f = .f64 → Runs s c t th x.g → regsOk th [sp1 x.d, spF x.f x.a] = true →
       let a := th.flt x.f x.a
       let neg := a.testBit (x.f.n - 1)
       let e := a / 2 ^ (Fmt.frac x.f) % 2 ^ (Fmt.ebits x.f)
       let m := a % 2 ^ (Fmt.frac x.f)
       exec (.fclass x) s = .next (s.setThread c t (th.setReg x.d.toNat (1 <<<
         (if e = 2 ^ (Fmt.ebits x.f) - 1 then (if m ≠ 0 then 8 else if neg then 0 else 7)
         else if e = 0 then (if m = 0 then (if neg then 3 else 4) else if neg then 2 else 5)
         else if neg then 1 else 6))))))

/-- The packed instructions complete and treat their two 16-bit elements apart, each as the scalar operation (R156, R157); PACK and
UNPK convert between two FP32 values and a packed word (R162, R163). -/
def Obligations.PackedResults : Prop :=
  ∀ (s : State) (c t : Nat) (th : Thread),
    (∀ x : Fp3Args, Runs s c t th x.g → regsOk th (sp1 x.d :: sp1 x.a :: spRI1 x.b) = true →
      let both (i : Instr) (f : Nat → Nat → Nat) : Prop := ∃ v : Word,
        exec i s = .next (s.setThread c t (th.setReg x.d.toNat v)) ∧
        ∀ e < 2, elem16 v e = f (elem16 (th.reg x.a.toNat) e) (elem16 (th.ri x.b) e) % 65536
      both (.hadd2 x) (fAdd x.f x.rm x.sat) ∧ both (.hsub2 x) (fSub x.f x.rm x.sat) ∧ both (.hmul2 x) (fMul x.f x.rm x.sat) ∧
      both (.hmin2 x) (fMinMax x.f false) ∧ both (.hmax2 x) (fMinMax x.f true) ∧
      ∃ v : Word, exec (.pack x) s = .next (s.setThread c t (th.setReg x.d.toNat v)) ∧
        elem16 v 0 = round (toReal .f32 (th.reg x.a.toNat).toNat) x.f x.rm 0 x.sat % 65536 ∧
        elem16 v 1 = round (toReal .f32 (th.ri x.b).toNat) x.f x.rm 0 x.sat % 65536) ∧
    (∀ x : FmaArgs, Runs s c t th x.g → regsOk th (sp1 x.d :: sp1 x.a :: sp1 x.b :: spRI1 x.c) = true →
      ∃ v : Word, exec (.hfma2 x) s = .next (s.setThread c t (th.setReg x.d.toNat v)) ∧
        ∀ e < 2, elem16 v e = fFma x.f x.rm x.sat (elem16 (th.reg x.a.toNat) e) (elem16 (th.reg x.b.toNat) e) (elem16 (th.ri x.c) e) % 65536) ∧
    (∀ x : FcmpArgs, Runs s c t th x.g → regsOk th (sp1 x.a :: spRI1 x.b) = true →
      let q (e : Nat) : Bool := fCond x.c x.f (elem16 (th.reg x.a.toNat) e) (elem16 (th.ri x.b) e)
      exec (.hcmp2 x) s = .next (s.setThread c t ((th.setPred x.pd.toNat (q 0)).setPred (x.pd.toNat + 1) (q 1)))) ∧
    (∀ x : F1Args, Runs s c t th x.g → x.f ∈ [Fmt.f16, .bf16, .e4m3, .e5m2] →
      let n := 32 / x.f.n
      regsOk th [(x.d.toNat, n), sp1 x.a] = true →
      ∃ th' : Thread, exec (.unpk x) s = .next (s.setThread c t th') ∧
        (∀ e < n, th'.reg (x.d.toNat + e) = BitVec.ofNat 32 (roundRne (toReal x.f
          ((th.reg x.a.toNat).extractLsb' (x.f.n * e) x.f.n).toNat) .f32)) ∧
        (∀ q, q < x.d.toNat ∨ x.d.toNat + n ≤ q → th'.reg q = th.reg q) ∧ th' = { th with g := th'.g })

/-- CVT and CVTS complete with the conversions of R159 and R160, and RND and RND.lo with the words of the pseudocode of R167. A conversion to an
integer takes the value to an integer by the mode and clamps that to the range of the type; a NaN gives 0 and an infinity the limit of its
sign (R53). CVTS multiplies the exact value by the power of two, and leaves a NaN and an infinity (R160). -/
def Obligations.ConversionAndRandomResults : Prop :=
  (∀ (rm : Rm) (u : IType), rm ≠ .rs →
    let lo : Int := if u.signed then -2 ^ (u.n - 1) else 0
    let hi : Int := if u.signed then 2 ^ (u.n - 1) - 1 else 2 ^ u.n - 1
    (∀ v, Proper v → ∃ z : Nat, IntegerOf rm (isNeg v) (magOrder v) z ∧ toInt v u rm = max lo (min hi (if isNeg v then -(z : Int) else z))) ∧
    (∀ a e, toInt (.fin a 0 e) u rm = 0) ∧ toInt .nan u rm = 0 ∧ toInt (.inf true) u rm = lo ∧ toInt (.inf false) u rm = hi) ∧
  (∀ (v : XR) (k : Int), isNeg (xscale v k) = isNeg v ∧
    (∀ x, value v = some x → value (xscale v k) = some (x * 2 ^ k)) ∧
    (∀ z, Proper v → magOrder (xscale v k) (z * 2 ^ k) = magOrder v z) ∧ (v = .nan ∨ (∃ a, v = .inf a) → xscale v k = v)) ∧
  ∀ (s : State) (c t : Nat) (th : Thread),
    (∀ x : CvtArgs, Runs s c t th x.g → (∀ n ∈ [1, 2, 12], s.lacksFeature n = false) →
      regsOk th (spC x.dt x.d :: spC x.st x.a :: (if x.rm = .rs then [sp1 x.w] else [])) = true →
      let w := if x.rm = .rs then (th.reg x.w.toNat).toNat else 0
      (∀ f k, x.dt = .flt f → x.st = .flt k →
        exec (.cvt x) s = .next (s.setThread c t (th.setFlt f x.d (round (toReal k (th.flt k x.a)) f x.rm w x.sat)))) ∧
      (∀ u k, x.dt = .int u → x.st = .flt k →
        exec (.cvt x) s = .next (s.setThread c t (th.setInt u x.d (wrap u.n (toInt (toReal k (th.flt k x.a)) u x.rm))))) ∧
      (∀ f u, x.dt = .flt f → x.st = .int u →
        exec (.cvt x) s = .next (s.setThread c t (th.setFlt f x.d (round (ofInteger (th.int u x.a)) f x.rm w x.sat)))) ∧
      (∀ u v, x.dt = .int u → x.st = .int v →
        exec (.cvt x) s = .next (s.setThread c t (th.setInt u x.d (narrow u x.sat (th.int v x.a)))))) ∧
    (∀ x : CvtsArgs, Runs s c t th x.g → (∀ n ∈ [1, 2, 12], s.lacksFeature n = false) →
      regsOk th (spF x.dt x.d :: spF x.st x.a :: sp1 x.s :: (if x.rm = .rs then [sp1 x.w] else [])) = true →
      let w := if x.rm = .rs then (th.reg x.w.toNat).toNat else 0
      let e := (th.reg x.s.toNat).toNat % 256
      let k : Int := if x.div then 127 - (e : Int) else (e : Int) - 127
      exec (.cvts x) s = .next (s.setThread c t (th.setFlt x.dt x.d
        (if e = 255 then (if (Fmt.hasNan x.dt) then canonicalNan x.dt else 0)
        else round (xscale (toReal x.st (th.flt x.st x.a)) k) x.dt x.rm w x.sat)))) ∧
    (∀ x : RndArgs, Runs s c t th x.g → regsOk th [sp2 x.k, sp4 x.c] = true →
      let k0 := th.reg x.k.toNat
      let k1 := th.reg (x.k.toNat + 1)
      let turn (x0 x1 x2 x3 rc : Word) : Word × Word × Word × Word :=
        let p0 := x0 + k0 + rc + (x1 + k1)
        let p3 := (x3 ^^^ p0).rotateLeft 13
        let p2 := x2 + p3
        let p1 := ((x1 + k1) ^^^ p2).rotateLeft 19
        let q0 := p0 + p1
        let q3 := (p3 ^^^ q0).rotateLeft 7
        let q2 := p2 + q3
        ((p1 ^^^ q2).rotateLeft 24, q2, q3, q0)
      let z0 := turn (th.reg x.c.toNat) (th.reg (x.c.toNat + 1)) (th.reg (x.c.toNat + 2)) (th.reg (x.c.toNat + 3)) 0x9E3779B9
      let z1 := turn z0.1 z0.2.1 z0.2.2.1 z0.2.2.2 0x7F4A7C15
      let z2 := turn z1.1 z1.2.1 z1.2.2.1 z1.2.2.2 0xF39CC060
      let z := turn z2.1 z2.2.1 z2.2.2.1 z2.2.2.2 0x5CEDC834
      (regsOk th [sp4 x.d] = true → exec (.rnd x) s = .next (s.setThread c t
        ((((th.setReg x.d.toNat (z.1 + k1)).setReg (x.d.toNat + 1) (z.2.1 ^^^ k0)).setReg (x.d.toNat + 2) (z.2.2.1 + k0)).setReg
          (x.d.toNat + 3) (z.2.2.2 ^^^ k1)))) ∧
      (regsOk th [sp1 x.d] = true → exec (.rndLo x) s = .next (s.setThread c t (th.setReg x.d.toNat (z.1 + k1)))))

/-- The special functions complete (R164); at NaN, ±∞ and ±0 they give the values of R165. What the approximations give elsewhere is the
model's (assumption 8), and no clause rests on it. -/
def Obligations.SpecialFunctionResults : Prop :=
  (∀ (s : State) (c t : Nat) (th : Thread) (x : F1Args), x.f = .f32 → Runs s c t th x.g → regsOk th [sp1 x.d, sp1 x.a] = true →
    let a := th.reg x.a.toNat
    let puts (i : Instr) (v : Nat) : Prop := exec i s = .next (s.setThread c t (th.setReg x.d.toNat (BitVec.ofNat 32 v)))
    puts (.fexp2 x) (fExp2 a) ∧ puts (.flog2 x) (fLog2 a) ∧ puts (.frsq x) (fRsq a) ∧ puts (.fsin x) (fSin a) ∧
    puts (.fcos x) (fCos a) ∧ puts (.ftanh x) (fTanh a) ∧ puts (.frcp x) (fRcp .f32 x.rm a.toNat) ∧
    puts (.fsqrt x) (fSqrt .f32 x.rm a.toNat)) ∧
  (∀ a : Word, codeNan .f32 a.toNat → ∀ rm,
    [fExp2 a, fLog2 a, fRcp .f32 rm a.toNat, fRsq a, fSqrt .f32 rm a.toNat, fSin a, fCos a, fTanh a] = List.replicate 8 0x7FC00000) ∧
  (∀ rm, let row (a : Word) := [fExp2 a, fLog2 a, fRcp .f32 rm a.toNat, fRsq a, fSqrt .f32 rm a.toNat, fSin a, fCos a, fTanh a]
    row 0x7F800000 = [0x7F800000, 0x7F800000, 0, 0, 0x7F800000, 0x7FC00000, 0x7FC00000, 0x3F800000] ∧
    row 0xFF800000 = [0, 0x7FC00000, 0x80000000, 0x7FC00000, 0x7FC00000, 0x7FC00000, 0x7FC00000, 0xBF800000] ∧
    row 0x00000000 = [0x3F800000, 0xFF800000, 0x7F800000, 0x7F800000, 0, 0, 0x3F800000, 0] ∧
    row 0x80000000 = [0x3F800000, 0xFF800000, 0xFF800000, 0xFF800000, 0x80000000, 0x80000000, 0x3F800000, 0x80000000])

/-! ## Control flow -/

/-- BRA and BRX complete: the target is the address of the instruction plus the sign-extended offset, or the pair in A (R142). EXIT ends the
thread, with its flags, and takes it out of its crew's masks and its block's barriers (R146); YIELD and PAUSE hold it for 32 cycles and for
C cycles, at most 1,048,575 (R147, R148, R295). -/
def Obligations.BranchExitAndPause : Prop :=
  (∀ (s : State) (c t : Nat) (th : Thread) (g : Gang), s.gangOf c th = some g →
     (∀ x : BraArgs, Runs s c t th x.g → exec (.bra x) s = .next (s.setThread c t { th with pc := g.addr + x.off.signExtend 64 })) ∧
     (∀ x : AArgs, Runs s c t th x.g → regsOk th [sp2 x.a] = true →
       exec (.brx x) s = .next (s.setThread c t { th with pc := th.reg (x.a.toNat + 1) ++ th.reg x.a.toNat }))) ∧
  (∀ (s : State) (c t : Nat) (th : Thread) (gd : BitVec 4), Runs s c t th gd →
     exec (.exit ⟨gd⟩) s = .next (((s.setThread c t
       { th with status := .exited, f := [], res := none, ops := th.ops.filter fun o => o.kind.outlives }).leaveMasks th).leaveBars th) ∧
     exec (.yield ⟨gd⟩) s = .next (s.setThread c t { th with status := .paused ((s.core c).cycle + 32) true, w := 0 }) ∧
     (∀ x : PauseArgs, x.g = gd → regsOk th (spAmount x.c) = true → exec (.pause x) s = .next (
       if th.amount x.c = 0 then s
       else s.setThread c t { th with status := .paused ((s.core c).cycle + min (th.amount x.c) 1048575) false })))

/-- CALL and CALLX push the address of the first multiple of 8 at or after their own end below CSP and branch; RET pops it (R142, R143).
The stack stays between CSLO and CSHI, else STACK_LIMIT with CSP in FADDR; that an access which may not be performed yet leaves its
instruction to be offered again is the model's (assumption 30). -/
def Obligations.CallAndReturn : Prop :=
  ∀ (s : State) (c t : Nat) (th : Thread) (g : Gang) (gd : BitVec 4), s.gangOf c th = some g → Runs s c t th gd →
    let below : Int := (th.csp.toNat : Int) - 8
    let push (n : Nat) : Dword := (g.addr + BitVec.ofNat 64 n + 7) &&& ~~~7
    let stack (ea : Int) (kind : Nat) : Acc := { space := .prv, scope := .thr, ea := BitVec.ofInt 64 ea, size := 3, kind := kind }
    let op (k : OpKind) (a : Acc) : Op := { uid := s.uid, clause := 0, gang := 0, index := 0, sc := .thr, flag := none, acc := a, kind := k }
    let full (i : Instr) : Prop :=
      exec i s = .next (s.takeFault c t { code := fStackLimit, faddr := th.csp, finfo := 0 } (s.site c th))
    (∀ off, let x : BraArgs := ⟨gd, off⟩
      (below < th.cslo.toNat → full (.call x)) ∧
      ∀ tgt, th.cslo.toNat ≤ below → s.checkAccess th (stack below 1) below 8 0 = .ok (.ok tgt) →
        (s.eligible c t th (op (.store tgt 8 0 false) (stack below 1)) = true →
          exec (.call x) s = .next (((s.accessWalk c th (stack below 1)).writeTgt c th.bid tgt (leBytes 8 (push 12).toNat) []).setThread c t
            { th with pc := g.addr + off.signExtend 64, csp := th.csp - 8 })) ∧
        (s.eligible c t th (op (.store tgt 8 0 false) (stack below 1)) = false →
          exec (.call x) s = .next (s.waits c t th (op (.store tgt 8 0 false) (stack below 1))).stall)) ∧
    (∀ a, let x : AArgs := ⟨gd, a⟩
      regsOk th [sp2 a] = true →
      (below < th.cslo.toNat → full (.callx x)) ∧
      ∀ tgt, th.cslo.toNat ≤ below → s.checkAccess th (stack below 1) below 8 0 = .ok (.ok tgt) →
        s.eligible c t th (op (.store tgt 8 0 false) (stack below 1)) = true →
        exec (.callx x) s = .next (((s.accessWalk c th (stack below 1)).writeTgt c th.bid tgt (leBytes 8 (push 8).toNat) []).setThread c t
          { th with pc := th.pair a.toNat, csp := th.csp - 8 })) ∧
    (let x : Bare := ⟨gd⟩
      let top : Int := th.csp.toNat
      ((th.cshi.toNat : Int) < top + 8 → full (.ret x)) ∧
      ∀ tgt bs s1, top + 8 ≤ th.cshi.toNat → s.checkAccess th (stack top 0) top 8 0 = .ok (.ok tgt) →
        s.eligible c t th (op (.load tgt .n64 0 false) (stack top 0)) = true → (s.accessWalk c th (stack top 0)).readTgt c th.bid tgt 8 false = (bs, [], s1) →
        exec (.ret x) s = .next (s1.setThread c t { th with pc := BitVec.ofNat 64 (leNat bs), csp := th.csp + 8 }))


/-! ## Memory family -/

/-- Loads, stores, atomics and compare-and-swap complete: once the checks of R202 pass, each is in flight at the place that its effective
address translates to, and its flag has counted up (R78, R201, R204, R205, R213, R215, R400). An LDC is a load performed at `.blk` (R206). -/
def Obligations.AccessesIssue : Prop :=
  ∀ (s : State) (c t : Nat) (th : Thread) (fl : Option Nat) (tgt : Tgt),
    let fliesAt (at_ : Scope) (i : Instr) (sp : Space) (sc : Scope) (ea : Int) (n kind : Nat) (perm : BitVec 10) (k : OpKind) : Prop :=
      let acc : Acc := { space := sp, scope := sc, ea := BitVec.ofInt 64 ea, size := log2Size n, kind := kind }
      s.checkAccess th acc ea n perm = .ok (.ok tgt) →
      exec i s = .next ((s.accessWalk c th acc).issueAt c t th fl k acc at_)
    let flies (i : Instr) (sp : Space) (sc : Scope) := fliesAt sc i sp sc
    (∀ x : LdArgs, Runs s c t th x.h.g → FlagOf s c th x.h fl → regsOk th [spT x.t x.d, spBase x.space x.a] = true →
      flies (.ld x) x.space x.scope (effAddr x.space (th.baseOf x.space x.a) (Off.val x.off)) (x.t.n / 8) 0 0x001
        (.load tgt x.t x.d.toNat x.acq)) ∧
    (∀ x : StArgs, Runs s c t th x.h.g → FlagOf s c th x.h fl → regsOk th [spBase x.space x.a, spT x.t x.b] = true →
      flies (.st x) x.space x.scope (effAddr x.space (th.baseOf x.space x.a) (Off.val x.off)) (x.t.n / 8) 1 0x002
        (.store tgt (x.t.n / 8) (BitVec.ofNat 64 (th.bitsOf x.t x.b)) x.rel)) ∧
    (∀ x : AtomArgs, Runs s c t th x.h.g → FlagOf s c th x.h fl →
      regsOk th [spAtom x.op x.d, spBase x.space x.a, spAtom x.op x.b] = true →
      s.detScope th x.space x.scope (effAddr x.space (th.baseOf x.space x.a) (Off.val x.off)) true = false →
      flies (.atom x) x.space x.scope (effAddr x.space (th.baseOf x.space x.a) (Off.val x.off)) (x.op.n / 8) 2 0x003
        (.atom tgt x.op (th.atomData x.op x.b) (some x.d.toNat) x.ord none)) ∧
    (∀ x : CasArgs, Runs s c t th x.h.g → FlagOf s c th x.h fl →
      regsOk th [spT x.t x.d, spBase x.space x.a, spT x.t x.b, spT x.t x.c] = true →
      s.detScope th x.space x.scope (effAddr x.space (th.baseOf x.space x.a) 0) true = false →
      flies (.cas x) x.space x.scope (effAddr x.space (th.baseOf x.space x.a) 0) (x.t.n / 8) 2 0x003
        (.cas tgt x.t (BitVec.ofNat 64 (th.bitsOf x.t x.b)) (BitVec.ofNat 64 (th.bitsOf x.t x.c)) x.d.toNat x.ord)) ∧
    (∀ x : RedArgs, Runs s c t th x.h.g → FlagOf s c th x.h fl → regsOk th [spBase x.space x.a, spAtom x.op x.b] = true →
      s.detScope th x.space x.scope (effAddr x.space (th.baseOf x.space x.a) (Off.val x.off)) false = false →
      ((s.ctx th.ctx).det = false ∨ x.scope.code < 4) →
      flies (.red x) x.space x.scope (effAddr x.space (th.baseOf x.space x.a) (Off.val x.off)) (x.op.n / 8) 2 0x003
        (.atom tgt x.op (th.atomData x.op x.b) none (if x.rel then .rel else .plain) none)) ∧
    (∀ x : RedtArgs, Runs s c t th x.h.g → FlagOf s c th x.h fl → s.lacksFeature 10 = false →
      regsOk th [sp2 x.a, spAtom x.op x.b, sp1 x.tag] = true → (s.ctx th.ctx).det = false →
      flies (.redt x) .glb .dev (effAddr .glb (th.baseOf .glb x.a) x.off.toInt) (x.op.n / 8) 2 0x003
        (.redt tgt x.op (th.atomData x.op x.b) (th.reg x.tag.toNat) x.rel none)) ∧
    (∀ x : LdcArgs, Runs s c t th x.h.g → FlagOf s c th x.h fl → regsOk th [spT x.t x.d, sp1 x.a] = true → ∀ k, s.block? th.bid = some k →
      let off : Int := ((th.reg x.a.toNat).toNat : Int) + x.off.toInt
      let va : Dword := k.desc.cbase + BitVec.ofInt 64 off
      0 ≤ off → off + (x.t.n / 8 : Nat) ≤ k.desc.csize → canonical va = true →
      fliesAt .blk (.ldc x) .glb .thr va.toNat (x.t.n / 8) 0 0 (.load tgt x.t x.d.toNat false)) ∧
    (∀ (x : CpyArgs) (bt : Tgt), Runs s c t th x.h.g → FlagOf s c th x.h fl → regsOk th [sp2 x.a, sp1 x.b] = true → th.role = .feed →
      let n := cpyBytes x.size
      let ea := effAddr .glb (th.baseOf .glb x.a) (Off.val x.off)
      let b : Int := (th.reg x.b.toNat).toNat
      canonical (BitVec.ofInt 64 ea) = true →
      (s.checkAccess th (accOf x.space x.scope b n 1) b n 0x004 = .ok (.ok bt) →
        flies (.cpyIn x) .glb x.scope ea n 0 0 (.copy tgt bt n x.scope [] false)) ∧
      (s.checkAccess th (accOf x.space x.scope b n 0) b n 0x008 = .ok (.ok bt) →
        flies (.cpyOut x) .glb x.scope ea n 1 0 (.copy bt tgt n x.scope [] false)))

/-- CLASS_L_COMPLETION performs a load, a store or a compare-and-swap that may be performed (R401): the old contents go to the register,
unless its clause is still in progress, and memory takes the new contents; a compare-and-swap writes only when the old contents equal its
comparand (R215). A poisoned byte among those a load reads gives a late DATA_POISON fault instead (R221, R222). A performed value lands in
the register, which its bits fill as R123 says, when its clause has ended; until then it waits, and an exited thread discards it; in every
case but the waiting one the operation has left and its flag has counted down (R79, R146, R400). That a store reaches its home slice at
once is the model's choice (assumption 7).
CLASS_L_COMPLETION performs a copy that no transaction barrier binds (R218, R401): each 8-byte part of the destination takes what the
source part holds, its poison marks with it (R219), nothing else in memory changes, and the copy has left its thread. -/
def Obligations.AccessesPerform : Prop :=
  ((∀ (s : State) (c t u : Nat) (th : Thread) (o : Op), s.thread? c t = some th → th.ops.find? (fun y => y.uid == u) = some o →
      s.eligible c t th o = true →
      let wide := o.acc.space == .glb && wideScope (s.inTwin th) o.sc
      let s0 := s.acquireL1 c th o
      (∀ tgt ty d a bs s1, o.kind = .load tgt ty d a → s0.readTgt c th.bid tgt (ty.n / 8) wide = (bs, [], s1) →
        exec (.classLCompletion c t u) s = .next ((s1.mapThread c t fun y => y.finishOp o (some (leNat bs))).after c [t])) ∧
      (∀ tgt ty d a bs b off s1, o.kind = .load tgt ty d a → s0.readTgt c th.bid tgt (ty.n / 8) wide = (bs, off :: b, s1) →
        exec (.classLCompletion c t u) s = .next ((s1.mapThread c t fun y => y.failOp o fDataPoison off).after c [t])) ∧
      (∀ tgt n v r, o.kind = .store tgt n v r →
        exec (.classLCompletion c t u) s =
          .next (((s.writeTgt c th.bid tgt (leBytes n v.toNat) []).mapThread c t fun y => y.finishOp o none).after c [t])) ∧
      (∀ tgt ty b v d r bs s1, o.kind = .cas tgt ty b v d r → (s0.recall tgt o.acc).readTgt c th.bid tgt (ty.n / 8) true = (bs, [], s1) →
        exec (.classLCompletion c t u) s = .next (((if leNat bs = b.toNat then s1.writeTgt c th.bid tgt (leBytes (ty.n / 8) v.toNat) []
          else s1).mapThread c t fun y => y.finishOp o (some (leNat bs))).after c [t]))) ∧
   (∀ (th : Thread) (o : Op) (tgt : Tgt) (ty : IType) (d v : Nat) (a : Bool), o.kind = .load tgt ty d a → d < 256 →
      let left : List Op := th.ops.filter fun y => y.uid != o.uid
      (th.status ≠ .exited → th.crun ≠ some o.clause →
        (∀ q, (th.finishOp o (some v)).reg q = ({ th with ops := left }.setInt ty (BitVec.ofNat 8 d) v).reg q) ∧
        (th.finishOp o (some v)).ops = left) ∧
      (th.status = .exited → (th.finishOp o (some v)).g = th.g ∧ (th.finishOp o (some v)).ops = left) ∧
      (th.status ≠ .exited → th.crun = some o.clause → (th.finishOp o (some v)).g = th.g ∧ (th.finishOp o (some v)).f = th.f ∧
        (th.finishOp o (some v)).ops = th.ops.map fun y => if y.uid = o.uid then { o with kind := .land d ty v } else y) ∧
      (th.status = .exited ∨ th.crun ≠ some o.clause → ∀ i, (th.finishOp o (some v)).flagCount i =
        if o.flag = some i then th.flagCount i - 1 else th.flagCount i))) ∧
  (∀ (s : State) (c t u : Nat) (th : Thread) (o : Op) (src dst : Tgt) (n : Nat) (sc : Scope), n ∈ [4, 8, 16] →
     s.thread? c t = some th → th.ops = [o] → o.uid = u → o.kind = .copy src dst n sc [] false → th.preck = [] →
     s.bound th u = false → s.copyReady c t th o = true →
     let part (s : State) (k : Nat) : State :=
       let r := s.readHome c th.bid (src.add (8 * k)) (min 8 (n - 8 * k))
       r.2.2.writeHome c th.bid (dst.add (8 * k)) r.1 r.2.1
     let w := if n = 16 then part (part s 0) 1 else part s 0
     ∃ s', exec (.classLCompletion c t u) s = .next s' ∧ s'.mem = w.mem ∧ s'.hostMem = w.hostMem ∧
       (∀ b half sp a, bufferByte s' b half sp a = bufferByte w b half sp a) ∧ (s'.thread? c t).map Thread.ops = some [])

/-- A read of the bytes just written, at any place and through the L1 or past it, gives those bytes (R187, R196, R205); a whole 64-bit word
loses its poison mark. The CFG words of command queue pages, which only the host and Lanterns write, and the reserved bytes of those pages
and of the pool page are apart (R11, R276, R277, R383).
A write at a place changes no byte outside it (R205): not in device memory, host memory or any buffer of any block. -/
def Obligations.ReadsAfterWrites : Prop :=
  (∀ (s : State) (c : Nat) (b : Bid) (p : Tgt) (bs : List Byte) (wide : Bool), bs.length ∈ [1, 2, 4, 8] → tgtAddr p % bs.length = 0 →
     (∀ pa, p = .dev pa → ∀ i < bs.length, isCfgByte (pa + i) = false ∧ isPageZero (pa + i) = false ∧ isPoolZero (pa + i) = false) → (∀ sp a, p = .buf sp a → (s.block? b).isSome = true) →
     let r := (s.writeTgt c b p bs []).readTgt c b p bs.length wide
     r.1 = bs ∧ (bs.length = 8 → r.2.1 = [])) ∧
  (∀ (s : State) (c : Nat) (b : Bid) (p : Tgt) (bs : List Byte) (bad : List Nat),
     (∀ sp x, p = .buf sp x → sp ∈ [Space.loc, .wbuf, .abuf, .cbuf]) →
     let s' := s.writeTgt c b p bs bad
     (∀ a, (∀ pa, p = .dev pa → a < pa ∨ pa + bs.length ≤ a) → s'.mem.get a = s.mem.get a) ∧
     (∀ a, (∀ pa, p = .host pa → a < pa ∨ pa + bs.length ≤ a) → s'.hostMem.get a = s.hostMem.get a) ∧
     (∀ b' half sp a, (∀ sp' x, p = .buf sp' x → b' = b → sp' = sp → a < x ∨ x + bs.length ≤ a) →
       sp ∈ [Space.loc, .wbuf, .abuf, .cbuf] → bufferByte s' b' half sp a = bufferByte s b' half sp a))

/-- The new value of an atomic (R213, R214): addition modulo 2^n, minimum and maximum in the type's order, bitwise logic, exchange, and on
floating-point types of 32 and 64 bits the scalar operation, and on 16-bit pairs the scalar addition element by element; R213 has no minimum or
maximum of pairs, and none is well formed. A gang's merged additions give each member the old value
plus the operands of the members before it, in home-lane order, and memory the sum of all (R211).
CLASS_L_COMPLETION performs an ATOM or a RED that merges with no other (R211, R213): memory takes the new value of R213 in one
read-modify-write, the old value goes to the register of an ATOM, a poisoned target gives DATA_POISON (R221). A two-wide one is two
independent atomics on 16 bits, with a step each: which half goes first is data of the state, the other follows, and the old values make the
word that ATOM returns (R214; how the order is chosen is the model's, assumption 76). -/
def Obligations.AtomicValues : Prop :=
  (((∀ (t : IType) (m b : Nat), m < 2 ^ t.n → b < 2 ^ t.n →
      atomNew (.int .add t) m b = (m + b) % 2 ^ t.n ∧ atomNew (.int .exch t) m b = b ∧
      atomNew (.int .and t) m b = m &&& b ∧ atomNew (.int .or t) m b = m ||| b ∧ atomNew (.int .xor t) m b = m ^^^ b ∧
      asInt t (atomNew (.int .min t) m b) = min (asInt t m) (asInt t b) ∧
      asInt t (atomNew (.int .max t) m b) = max (asInt t m) (asInt t b)) ∧
    (∀ (f : Fmt) (m b : Nat), f = .f32 ∨ f = .f64 → m < 2 ^ f.n → b < 2 ^ f.n → atomNew (.flt .add f) m b = fAdd f .rn false m b ∧
      atomNew (.flt .min f) m b = fMinMax f false m b ∧ atomNew (.flt .max f) m b = fMinMax f true m b) ∧
    (∀ (f : Fmt) (exch : Bool), f = .f16 ∨ f = .bf16 → atomOpWf exch (.flt .min f) = false ∧ atomOpWf exch (.flt .max f) = false) ∧
    (∀ (f : Fmt) (m b : Nat), f = .f16 ∨ f = .bf16 → m < 2 ^ 32 → b < 2 ^ 32 →
      let v := atomNew (.flt .add f) m b
      v % 65536 = fAdd f .rn false (m % 65536) (b % 65536) ∧ v / 65536 = fAdd f .rn false (m / 65536) (b / 65536))) ∧
   (∀ (t : IType) (old : Nat) (vs : List Nat), old < 2 ^ t.n → (∀ v ∈ vs, v < 2 ^ t.n) → vs ≠ [] →
      let f := atomNew (.int .add t)
      f old (combined f vs) = (old + vs.sum) % 2 ^ t.n ∧ (prefixes f old vs none).length = vs.length ∧
      ∀ i < vs.length, (prefixes f old vs none).getD i 0 = (old + (vs.take i).sum) % 2 ^ t.n)) ∧
  (∀ (s : State) (c t u : Nat) (th : Thread) (o : Op) (tgt : Tgt) (op : AtomOp) (v : Dword) (d : Option Nat) (ord : Ord4) (done : Option (Nat × Nat)),
     s.thread? c t = some th → th.ops.find? (fun y => y.uid == u) = some o → o.kind = .atom tgt op v d ord done →
     s.mergeGroup c t th o = [(t, th, o)] → s.groupReady c t th o = true →
     (∀ bs s1, twoWide op = false → ((s.acquireL1 c th o).recall tgt o.acc).readTgt c th.bid tgt (op.n / 8) true = (bs, [], s1) →
       exec (.classLCompletion c t u) s =
         .next (((s1.writeTgt c th.bid tgt (leBytes (op.n / 8) (atomNew op (leNat bs) v.toNat)) []).mapThread c t fun y =>
           y.finishOp o (some (leNat bs))).after c [t])) ∧
     (∀ bs i b s1, twoWide op = false → ((s.acquireL1 c th o).recall tgt o.acc).readTgt c th.bid tgt (op.n / 8) true = (bs, i :: b, s1) →
       exec (.classLCompletion c t u) s = .next ((s1.mapThread c t fun y => y.failOp o fDataPoison i).after c [t])) ∧
     (∀ k, twoWide op = true → k = (match done with | some e => 1 - e.1 | none => s.hiFirst.toNat) →
       let s0 := s.acquireL1 c th o
       let s2 := if done.isSome then s0 else s0.recall tgt o.acc
       (∀ bs s1, s2.readTgt c th.bid (tgt.add (2 * k)) 2 true = (bs, [], s1) →
         exec (.classLCompletion c t u) s =
           .next (((s1.writeTgt c th.bid (tgt.add (2 * k)) (leBytes 2 (halfNew op (leNat bs) (v.toNat / 65536 ^ k % 65536))) []).mapThread c t fun y =>
             match done with
             | none => y.mapOp o.uid (OpKind.setDone k (leNat bs))
             | some e => y.finishOp o (some (if k = 0 then leNat bs + 65536 * e.2 else e.2 + 65536 * leNat bs))).after c [t])) ∧
       (∀ bs i b s1, s2.readTgt c th.bid (tgt.add (2 * k)) 2 true = (bs, i :: b, s1) →
         exec (.classLCompletion c t u) s = .next ((s1.mapThread c t fun y => y.failOp o fDataPoison (i + 2 * k)).after c [t]))))

/-- Waiting and cache instructions of the memory family complete: FENCE holds the thread (R208), which is idle again
when the accesses that the fence orders are performed, PREF fetches a line that translates to
sound device memory and drops anything else (R207), CCTL invalidates (R209), RCLOSE holds the thread until its
tagged reduce-stores are done, and removes the receipts of its range (R217). -/
def Obligations.FenceAndCacheControl : Prop :=
  ∀ (s : State) (c t : Nat) (th : Thread),
    (∀ x : FenceArgs, Runs s c t th x.g →
      exec (.fence x) s = .next (s.setThread c t { th with wsite := s.site c th, status := .blocked (.fence x.ord x.scope) }) ∧
      (th.fenceDone x.ord x.scope = true → th.halted = false → th.late = [] → th.preck = [] → th.yieldTill ≤ (s.core c).cycle →
        ∃ s' th', exec (.fence x) s = .next s' ∧ s'.thread? c t = some th' ∧ th'.idle (s'.core c).cycle = true)) ∧
    (∀ x : PrefArgs, Runs s c t th x.g → regsOk th [sp2 x.a] = true →
      let va : Dword := BitVec.ofInt 64 (effAddr .glb (th.baseOf .glb x.a) (Off.val x.off))
      (∀ pa, s.translate th.ctx va 0 = .ok (.dev pa) → s.mem.badOffsets (pa / 64 * 64) 64 = [] → s.lineHeld noSkip pa 1 = false →
        s.walkHeld th.ctx va = false →
        let s1 := (s.tlbFill c th.ctx va).l2Read (pa / 64 * 64) 64
        exec (.pref x) s = .next (if x.l1 then s1.l1Fill c pa else s1)) ∧
      ((∀ pa, s.translate th.ctx va 0 = .ok (.dev pa) → s.mem.badOffsets (pa / 64 * 64) 64 ≠ []) → exec (.pref x) s = .next s)) ∧
    (∀ gd, Runs s c t th gd →
      (∃ s', exec (.cctlL1inv ⟨gd⟩) s = .next s' ∧ (s'.core c).l1 = [] ∧ s' = s.setCore c { s.core c with l1 := [] }) ∧
      (∃ s', exec (.cctlIinvall ⟨gd⟩) s = .next s' ∧ ((s.core c).gangs = [] → (s'.core c).ibuf = []) ∧
        (∀ e ∈ (s'.core c).ibuf, e.2.stale = true) ∧ s' = s.setCore c { s.core c with ibuf := (s'.core c).ibuf })) ∧
    (∀ x : IinvArgs, Runs s c t th x.g → regsOk th [sp2 x.a] = true →
      let key := ibKey (BitVec.ofInt 64 (effAddr .glb (th.baseOf .glb x.a) x.off.toInt))
      ∃ s', exec (.cctlIinv x) s = .next s' ∧ s' = s.setCore c { s.core c with ibuf := (s'.core c).ibuf } ∧
        (∀ e ∈ (s'.core c).ibuf, e.1 = key → e.2.stale = true) ∧
        ((s.core c).ibUsed key = false → ∀ e ∈ (s'.core c).ibuf, e.1 ≠ key) ∧
        ∀ e ∈ (s.core c).ibuf, e.1 ≠ key → e ∈ (s'.core c).ibuf) ∧
    (∀ x : RcloseArgs, Runs s c t th x.g → s.lacksFeature 10 = false → regsOk th [sp1 x.a, sp1 x.b] = true → (s.ctx th.ctx).det = false →
      exec (.rclose x) s = .next (s.setThread c t { th with
        wsite := s.site c th, status := .blocked (.rclose (th.reg x.a.toNat) (th.reg x.b.toNat)) }) ∧
      (th.ops = [] → th.preck = [] → th.yieldTill ≤ (s.core c).cycle → ∃ s', exec (.rclose x) s = .next s' ∧
        ((s'.threadHook c t).thread? c t).map Thread.status = some .ready ∧
        ∀ e ∈ (s'.threadHook c t).tables.receipts, e.1 % 64 = th.ctx → ∀ y ∈ e.2,
          ¬ (y.launch = s.launchNumber th.bid ∧ th.reg x.a.toNat ≤ y.tag ∧ y.tag ≤ th.reg x.b.toNat)))

/-- In deterministic mode the device-wide reduce-stores, REDT and RCLOSE are staged (R212, R241, R410): one record is appended to the
thread's log, and a reduce-store's flag counts an operation that only that record's write ends. ATOM and CAS beyond `.blk` raise
DET_SCOPE with their access in the fault registers, and so does RED at `.clu` (assumption 91). The record's layout and its place in `prv` are the model's (assumption 18). -/
def Obligations.StagedReductions : Prop :=
  ∀ (s : State) (c t : Nat) (th : Thread) (fl : Option Nat) (p q : Tgt), (s.ctx th.ctx).det = true → 0 ≤ th.logAddr → th.logLen < 2048 →
    s.checkAccess th { space := .prv, scope := .thr, ea := BitVec.ofInt 64 th.logAddr, size := 5, kind := 1 } th.logAddr 32 0 = .ok (.ok q) →
    s.tgtHeld noSkip (ownCk c t) true q 32 = false →
    let th1 := { th with logLen := th.logLen + 1 }
    let logged (r : LogRec) : State :=
      ((s.accessWalk c th { space := .prv, scope := .thr, ea := BitVec.ofInt 64 th.logAddr, size := 5, kind := 1 }).setThread c t th1).writeTgt c th.bid q
        r.bytes []
    (∀ x : RedArgs, Runs s c t th x.h.g → FlagOf s c th x.h fl → regsOk th [spBase x.space x.a, spAtom x.op x.b] = true → 4 ≤ x.scope.code →
      let ea := effAddr x.space (th.baseOf x.space x.a) (Off.val x.off)
      let acc := accAt x.space x.scope ea (x.op.n / 8) 2
      apertureEa x.space ea = false → s.checkAccess th acc ea (x.op.n / 8) 0x003 = .ok (.ok p) →
      exec (.red x) s = .next ((logged { va := acc.ea, kind := 0, op := x.op.op, ty := x.op.ty, v := th.atomData x.op x.b, lo := 0, hi := 0
        }).issueOp c t th1 fl .log acc)) ∧
    (∀ x : RedtArgs, Runs s c t th x.h.g → FlagOf s c th x.h fl → s.lacksFeature 10 = false →
      regsOk th [sp2 x.a, spAtom x.op x.b, sp1 x.tag] = true →
      let ea := effAddr .glb (th.baseOf .glb x.a) x.off.toInt
      let acc := accOf .glb .dev ea (x.op.n / 8) 2
      let tag := th.reg x.tag.toNat
      s.checkAccess th acc ea (x.op.n / 8) 0x003 = .ok (.ok p) →
      exec (.redt x) s = .next ((logged { va := acc.ea, kind := 1, op := x.op.op, ty := x.op.ty, v := th.atomData x.op x.b, lo := tag, hi := tag
        }).issueOp c t th1 fl .log acc)) ∧
    (∀ x : RcloseArgs, Runs s c t th x.g → s.lacksFeature 10 = false → regsOk th [sp1 x.a, sp1 x.b] = true →
      exec (.rclose x) s = .next (logged { va := 0, kind := 2, op := 0, ty := 0, v := 0, lo := th.reg x.a.toNat, hi := th.reg x.b.toNat })) ∧
    (∀ x : AtomArgs, Runs s c t th x.h.g → FlagOf s c th x.h fl → regsOk th [spAtom x.op x.d, spBase x.space x.a, spAtom x.op x.b] = true →
      2 < x.scope.code →
      let ea := effAddr x.space (th.baseOf x.space x.a) (Off.val x.off)
      let why : Flt := { code := fDetScope, faddr := BitVec.ofInt 64 ea, finfo := (accAt x.space x.scope ea (x.op.n / 8) 2).info }
      exec (.atom x) s = .next (s.takeFault c t why (s.site c th))) ∧
    (∀ x : RedArgs, Runs s c t th x.h.g → FlagOf s c th x.h fl → regsOk th [spBase x.space x.a, spAtom x.op x.b] = true → x.scope.code = 3 →
      let ea := effAddr x.space (th.baseOf x.space x.a) (Off.val x.off)
      let why : Flt := { code := fDetScope, faddr := BitVec.ofInt 64 ea, finfo := (accAt x.space x.scope ea (x.op.n / 8) 2).info }
      exec (.red x) s = .next (s.takeFault c t why (s.site c th))) ∧
    (∀ x : CasArgs, Runs s c t th x.h.g → FlagOf s c th x.h fl → regsOk th [spT x.t x.d, spBase x.space x.a, spT x.t x.b, spT x.t x.c] = true →
      2 < x.scope.code →
      let ea := effAddr x.space (th.baseOf x.space x.a) 0
      let why : Flt := { code := fDetScope, faddr := BitVec.ofInt 64 ea, finfo := (accAt x.space x.scope ea (x.t.n / 8) 2).info }
      exec (.cas x) s = .next (s.takeFault c t why (s.site c th)))

/-! ## Rendezvous family -/

/-- Transaction barrier instructions complete on an aligned record inside the block's `loc` (R402 to R405): TBARI initialises it, TBARA and
TBARA.n arrive, TBARVD also adds the sectors of the thread's outstanding copies, TBARW passes or holds the thread. An arrival, a release,
waits as an operation for the thread's earlier accesses, and the thread's own next instruction on the record but an arrival waits for it
(the model's form, assumption 25). The record keeps its fields in its 128 bits (R403); an arrival takes n from the pending count or
sets ERR, a completed sector one from the sector count, and the phase flips exactly when both counts are zero (R404). -/
def Obligations.TransactionBarriers : Prop :=
  (∀ (s : State) (c t : Nat) (th : Thread) (k : Block), s.block? th.bid = some k →
     let at_ (a : GReg) : Nat := (th.reg a.toNat).toNat
     let placed (a : GReg) : Prop := at_ a % 16 = 0 ∧ at_ a + 16 ≤ k.desc.loc
     let own (a : GReg) : Prop := ∃ o ∈ th.ops, ∃ n, o.kind = .act (.tbar (at_ a) n)
     let after (i : Instr) (a : GReg) (s' : State) : Prop := (own a → exec i s = .next s.stall) ∧ (¬ own a → exec i s = .next s')
     let arrives (i : Instr) (a : GReg) (n : Nat) : Prop :=
       (th.accessesDone = true → exec i s = .next (s.updateTbar th.bid (at_ a) fun r => r.arrive n)) ∧
       (th.accessesDone = false →
         exec i s = .next (s.issueOp c t th none (.act (.tbar (at_ a) n)) { space := .loc, scope := .blk, ea := 0, size := 0, kind := 0 }))
     (∀ x : TbarArgs, Runs s c t th x.g → regsOk th (sp1 x.a :: spR8 x.b) = true → placed x.a →
       let n := if (th.r8 x.b).toNat % 2 ^ 20 = 0 then 1 else (th.r8 x.b).toNat % 2 ^ 20
       let s' := s.setBlock { k with loc := k.loc.write (at_ x.a) (leBytes 16 (n * 2 ^ 4 + n * 2 ^ 52)) }
       after (.tbari x) x.a s' ∧ s'.tbar th.bid (at_ x.a) = { err := false, expected := n, sectors := 0, pending := n, phase := 0 } ∧
       arrives (.tbaraN x) x.a ((th.r8 x.b).toNat % 2 ^ 20)) ∧
     (∀ x : AArgs, Runs s c t th x.g → regsOk th [sp1 x.a] = true → placed x.a →
       arrives (.tbara x) x.a 1 ∧ (¬ own x.a → th.copies = [] → arrives (.tbarvd x) x.a 1) ∧ (own x.a → exec (.tbarvd x) s = .next s.stall) ∧
       (th.copies ≠ [] → after (.tbarvd x) x.a
         (((s.updateTbar th.bid (at_ x.a) fun r => r.bindSectors ((th.copies.map Prod.snd).eraseDups).length).addBind th.bid (at_ x.a)
           th.copies).issueOp c t th none (.act (.tbarv (at_ x.a)))
           { space := .loc, scope := .blk, ea := BitVec.ofInt 64 (at_ x.a), size := 4, kind := 2 }))) ∧
     (∀ x : TbarwArgs, Runs s c t th x.g → regsOk th (sp1 x.a :: spR8 x.b) = true → placed x.a →
       let ph := (th.r8 x.b).toNat % 16
       let r := s.tbar th.bid (at_ x.a)
       after (.tbarw x) x.a (
         if r.phase ≠ ph then (s.setThread c t (th.setPred x.pd.toNat (!r.err))).l1Invalidate c
         else s.setThread c t { th with wsite := s.site c th, status := .blocked (.tbar (at_ x.a) ph x.pd.toNat) }))) ∧
  (∀ (r : TBar) (n : Nat), r.expected < 2 ^ 20 → r.sectors < 2 ^ 28 → r.pending < 2 ^ 20 → r.phase < 16 →
     tbarOf r.bits = r ∧
     (n ≤ r.pending → r.arrive n =
       if r.pending = n ∧ r.sectors = 0 then { r with phase := (r.phase + 1) % 16, pending := r.expected } else { r with pending := r.pending - n }) ∧
     (r.pending < n → (r.arrive n).err = true ∧ (r.arrive n).pending = (if r.sectors = 0 then r.expected else 0)) ∧
     (0 < r.sectors → r.sectorDone =
       if r.sectors = 1 ∧ r.pending = 0 then { r with sectors := 0, phase := (r.phase + 1) % 16, pending := r.expected }
       else { r with sectors := r.sectors - 1 }) ∧
     (r.sectors = 0 → r.sectorDone.err = true))

/-- Block barriers and stage rings complete (R406, R407): BAR.arv arrives and goes on, BAR arrives and holds until the last live
thread's arrival, which releases it; RINGP flips its slot's phase
bit once the thread's earlier accesses are performed, RINGW passes when the bit has the awaited value and else holds; a post of its own
thread to the slot comes before it (the model's form, assumption 25). -/
def Obligations.BarriersAndRings : Prop :=
  ∀ (s : State) (c t : Nat) (th : Thread) (k : Block), s.block? th.bid = some k →
    (∀ x : BarArgs, Runs s c t th x.g → x.k.toNat < k.desc.barriers →
      let v := s.barrier th.bid x.k.toNat
      v.arr.contains th.linear = false → th.ops = [] →
      exec (.barArv x) s = .next (s.setBarrier th.bid x.k.toNat { v with arr := insertAsc th.linear v.arr }) ∧
      ∃ s', exec (.bar x) s = .next s' ∧ s'.barrier th.bid x.k.toNat = { v with arr := insertAsc th.linear v.arr } ∧
        s'.thread? c t = some { th with wsite := s.site c th, status := .blocked (.bar x.k.toNat .arrived false) } ∧
        ((c, t) ∈ k.threads → th.status ≠ .exited → v.arr.length + 1 = s.liveCount th.bid →
          let done := s'.testBar th.bid x.k.toNat
          (done.barrier th.bid x.k.toNat).phase = !v.phase ∧
          (done.thread? c t).map Thread.status = some (if (s.core c).cycle < th.yieldTill then .paused th.yieldTill true else .ready))) ∧
    (∀ x : RingArgs, Runs s c t th x.g → regsOk th (spR8 x.b) = true → 0 < k.desc.rings.getD x.q.toNat 0 →
      let i := (th.r8 x.b).toNat % k.desc.rings.getD x.q.toNat 0
      let bit := (FMap.getD k.rings x.q.toNat []).getD i false
      let own : Prop := ∃ o ∈ th.ops, o.kind = .act (.ringp x.q.toNat i)
      let waits (j : Instr) (full : Bool) : Prop := (own → exec j s = .next s.stall) ∧ (¬ own → exec j s = .next (
        if bit = full then (if k.desc.twin then s.l1Invalidate c else s)
        else s.setThread c t { th with wsite := s.site c th, status := .blocked (.ring x.q.toNat i full) }))
      waits (.ringwEmpty x) false ∧ waits (.ringwFull x) true ∧
      (th.accessesDone = true → exec (.ringp x) s = .next (s.ringPost th.bid x.q.toNat (k.desc.rings.getD x.q.toNat 0) i)) ∧
      ((∀ l, FMap.find? k.rings x.q.toNat = some l → l.length = k.desc.rings.getD x.q.toNat 0) →
        (s.ringPost th.bid x.q.toNat (k.desc.rings.getD x.q.toNat 0) i).ringBit th.bid x.q.toNat i = !bit))

/-- Tokens (R359, R408): TOKEN adds one, at most 2^32 − 1, clears the abort bit and serves waiters in order; TWAIT joins the queue and takes
a token at once when one is free and nobody waits; with a zero count and the abort bit set it raises GEN_CHANGED; operand bits above
[11:0] raise ILLEGAL_FIELD. -/
def Obligations.Tokens : Prop :=
  ∀ (s : State) (c t : Nat) (th : Thread) (x : TokArgs), Runs s c t th x.g → s.lacksFeature 7 = false → regsOk th (spRI1 x.t) = true →
    th.role = .general →
    let v := th.ri x.t
    let k := v.toNat % 4096
    let y := s.ctx th.ctx
    (2 ^ 12 ≤ v.toNat → exec (.twait x) s = .next (s.takeFault c t (Flt.plain fIllegalField) (s.site c th)) ∧
      exec (.token x) s = .next (s.takeFault c t (Flt.plain fIllegalField) (s.site c th))) ∧
    (v.toNat < 2 ^ 12 →
      (th.accessesDone = true → exec (.token x) s = .next (s.tokenAdd th.ctx k)) ∧
      (y.tokq = [] → (s.tokenAdd th.ctx k).ctx th.ctx = y.setTok k { count := min ((y.tok k).count + 1) 0xFFFFFFFF, abort := false }) ∧
      ((y.tok k).count = 0 → (y.tok k).abort = true →
        exec (.twait x) s = .next (s.takeFault c t (Flt.plain fGenChanged) (s.site c th))) ∧
      ((y.tok k).count = 0 → (y.tok k).abort = false → y.tokq = [] →
        exec (.twait x) s = .next ((s.setThread c t { th with wsite := s.site c th, status := .blocked (.token k) }).setCtx th.ctx
          { y with tokq := [(k, .thread c t)] })) ∧
      (0 < (y.tok k).count → y.tokq = [] → ∃ s', exec (.twait x) s = .next s' ∧
        (s'.ctx th.ctx).tok k = { y.tok k with count := (y.tok k).count - 1 } ∧ (s'.ctx th.ctx).tokq = [] ∧
        (s'.thread? c t).map Thread.status = some (if (s.core c).cycle < th.yieldTill then .paused th.yieldTill true else .ready)))

/-! ## Crew family -/

/-- Membership and exchange instructions complete (R174, R175, R183 to R185): JOIN and LEAVE change the thread's own bit, MSET replaces the
membership with live threads, MSET.rd reads it, and the exchanges read the captured deposits of arrived members.
XRED folds its operation over their values in home-lane order, from the first on. -/
def Obligations.CrewMasks : Prop :=
  ∀ (s : State) (c t : Nat) (th : Thread),
    let m (n : BitVec 4) : Mask := s.mask th.bid th.crew n.toNat
    let me : Dword := (1 : Dword) <<< th.tid
    (∀ x : MaskArgs, Runs s c t th x.g →
      exec (.join x) s = .next (s.setMask th.bid th.crew x.m.toNat { m x.m with mem := (m x.m).mem ||| me }) ∧
      exec (.leave x) s = .next (s.setMask th.bid th.crew x.m.toNat
        { m x.m with mem := (m x.m).mem &&& ~~~me, arr := (m x.m).arr &&& ~~~me })) ∧
    (∀ x : MsetArgs, Runs s c t th x.g → regsOk th [sp2 x.r] = true →
      let new := th.pair x.r.toNat &&& s.liveMask c th.bid th.crew
      exec (.mset x) s = .next ((s.setMask th.bid th.crew x.m.toNat { m x.m with mem := new, arr := (m x.m).arr &&& new }).releaseAt
        c th.bid th.crew x.m.toNat (~~~new)) ∧
      exec (.msetRd x) s = .next (s.setThread c t (th.setPair x.r.toNat (m x.m).mem))) ∧
    (∀ x : XshfArgs, Runs s c t th x.g → regsOk th [sp1 x.d, sp1 x.b] = true →
      let b := th.reg x.b.toNat
      let i : Int := match x.mode with
        | .at => b.toNat | .off => (th.tid : Int) + b.toInt | .wrap => ((th.tid : Int) + b.toInt) % th.width
        | .xor => ((BitVec.ofNat 32 th.tid) ^^^ b).toNat
      let src := i.toNat
      let hit := decide (0 ≤ i) && decide (i < th.width) && ((m x.m).cap &&& (m x.m).mem).getLsbD src
      exec (.xshf x) s = .next (s.setThread c t
        ((th.setReg x.d.toNat (if hit then (FMap.getD (m x.m).cdep src { v := 0, p := false }).v else 0)).setPred x.pd.toNat hit))) ∧
    (∀ x : XvoteArgs, Runs s c t th x.g → regsOk th [sp2 x.e] = true → ∃ bal : Dword,
      (∀ i < 64, bal.getLsbD i = (((m x.m).cap &&& (m x.m).mem).getLsbD i && (FMap.getD (m x.m).cdep i { v := 0, p := false }).p)) ∧
      let arrived := (m x.m).cap &&& (m x.m).mem
      let v : Bool := match x.mode with | .all => bal == arrived | .any => bal != 0 | .same => bal == arrived || bal == 0
      exec (.xvote x) s = .next (s.setThread c t ((th.setPred x.pd.toNat v).setPair x.e.toNat ((m x.m).mem &&& ~~~(m x.m).cap)))) ∧
    (∀ x : XbalArgs, Runs s c t th x.g → regsOk th [sp2 x.d, sp2 x.e] = true → ∃ bal : Dword,
      (∀ i < 64, bal.getLsbD i = (((m x.m).cap &&& (m x.m).mem).getLsbD i && (FMap.getD (m x.m).cdep i { v := 0, p := false }).p)) ∧
      exec (.xbal x) s = .next (s.setThread c t ((th.setPair x.d.toNat bal).setPair x.e.toNat ((m x.m).mem &&& ~~~(m x.m).cap)))) ∧
    (∀ x : XredArgs, Runs s c t th x.g → regsOk th [sp1 x.d] = true → ∃ w : Word,
      exec (.xred x) s = .next (s.setThread c t (th.setReg x.d.toNat w)) ∧
      let vs := ((if th.width = 64 then (List.range 32).flatMap fun i => [i, i + 32] else List.range th.width).filter fun i =>
        ((m x.m).cap &&& (m x.m).mem).getLsbD i).map fun i => (FMap.getD (m x.m).cdep i { v := 0, p := false }).v
      let step (a b : Word) : Word := match x.op, x.t with
        | .add, .f32 => BitVec.ofNat 32 (round (xadd .rn (toReal .f32 a.toNat) (toReal .f32 b.toNat)) .f32 .rn 0 false)
        | .add, .i32 => BitVec.ofInt 32 (if x.sat then max (-2 ^ 31) (min (2 ^ 31 - 1) (a.toInt + b.toInt)) else a.toInt + b.toInt)
        | .add, .n32 => BitVec.ofNat 32 (if x.sat then min (2 ^ 32 - 1) (a.toNat + b.toNat) else a.toNat + b.toNat)
        | .min, .f32 => BitVec.ofNat 32 (fMinMax .f32 false a.toNat b.toNat)
        | .max, .f32 => BitVec.ofNat 32 (fMinMax .f32 true a.toNat b.toNat)
        | .min, .i32 => if b.toInt < a.toInt then b else a
        | .max, .i32 => if a.toInt < b.toInt then b else a
        | .min, .n32 => if b.toNat < a.toNat then b else a
        | .max, .n32 => if a.toNat < b.toNat then b else a
        | .and, _ => a &&& b
        | .or, _ => a ||| b
        | .xor, _ => a ^^^ b
      (vs = [] → w = 0) ∧
      ∀ v rest, vs = v :: rest → (x.t = .f32 → x.op ∉ [RedOp.and, .or, .xor]) → w = rest.foldl step v)

/-- WAIT and WAIT.put (R177): a thread that is no member passes; a member whose earlier accesses are performed arrives with its deposit and
is held. When every member has arrived the mask completes: the deposits of those that arrived are captured, the others stand, and the
members that the mask holds go on (R178), ready only from the next core cycle.
When every live thread of a crew is blocked at a mask and no mask is complete, the test that ends the cycle withdraws the arrival and the
deposit of each, and each takes RDV_DEADLOCK at its WAIT; no membership changes. Otherwise that test raises nothing (R181).
WAIT and WAIT.put complete (R177, R178): when the thread that arrives is the last of its mask's members, the test that ends the cycle
captures every arrival, this thread's deposit among them, and the thread goes on. -/
def Obligations.CrewRendezvous : Prop :=
  (∀ (s : State) (c t : Nat) (th : Thread) (k : Block), s.block? th.bid = some k →
     let waits (i : Instr) (n : BitVec 4) (v : Word) (p : Bool) : Prop :=
       let m := s.mask th.bid th.crew n.toNat
       (m.mem.getLsbD th.tid = false → exec i s = .next s) ∧
       (m.mem.getLsbD th.tid = true → th.accessesDone = true → ∃ s', exec i s = .next s' ∧
         s'.mask th.bid th.crew n.toNat = { m with arr := m.arr ||| (1 : Dword) <<< th.tid, dep := FMap.put m.dep th.tid { v := v, p := p } } ∧
         s'.thread? c t = some { th with wsite := s.site c th, status := .blocked (.mask n.toNat) }) ∧
       (m.mem.getLsbD th.tid = true → th.accessesDone = false → exec i s = .next (s.setThread c t
         { th with wsite := s.site c th, status := .blocked (.maskPre n.toNat v p) }))
     (∀ x : MaskArgs, Runs s c t th x.g → waits (.wait x) x.m 0 false) ∧
     (∀ x : WaitPutArgs, Runs s c t th x.g → regsOk th [sp1 x.a] = true → waits (.waitPut x) x.m (th.reg x.a.toNat) (th.psrc x.p)) ∧
     (∀ n : Nat, let m := s.mask th.bid th.crew n
       let m' := (s.testMask c th.bid th.crew n).mask th.bid th.crew n
       (m.mem ≠ 0 ∧ m.arr &&& m.mem = m.mem → m'.cap = m.arr ∧ m'.arr = 0 ∧ m'.mem = m.mem ∧
         ((m.dep.map Prod.fst).Nodup → ∀ i d, FMap.find? m.dep i = some d → m.arr.getLsbD i = true → FMap.find? m'.cdep i = some d) ∧
         (∀ i, m.arr.getLsbD i = false → FMap.find? m'.cdep i = FMap.find? m.cdep i) ∧
         ∀ u x, s.thread? c u = some x → x.bid = th.bid → x.crew = th.crew → x.status = .blocked (.mask n) → m.arr.getLsbD x.tid = true →
           (s.testMask c th.bid th.crew n).thread? c u =
             some { x with status := if (s.core c).cycle < x.yieldTill then .paused x.yieldTill true else .ready } ∧
           u ∈ ((s.testMask c th.bid th.crew n).core c).woken) ∧
       (m.mem = 0 ∨ m.arr &&& m.mem ≠ m.mem → s.testMask c th.bid th.crew n = s))) ∧
  (∀ (s : State) (c crew : Nat) (k : Block), s.block? k.bid = some k →
     (∀ n < 12, (s.mask k.bid crew n).mem = 0 ∨ (s.mask k.bid crew n).arr &&& (s.mask k.bid crew n).mem ≠ (s.mask k.bid crew n).mem) →
     let live := (s.core c).threads.filter fun e => e.2.bid == k.bid && e.2.crew == crew && e.2.status != .exited
     let stuck : Prop := live ≠ [] ∧ ∀ e ∈ live, e.2.halted = false ∧ ∃ n, e.2.status = .blocked (.mask n)
     let done := s.settleCrew c k.bid crew
     (¬ stuck → done = s) ∧
     (stuck → done = live.foldl (fun u e => match e.2.status with
         | .blocked (.mask n) =>
           let m := u.mask k.bid crew n
           (u.setMask k.bid crew n { m with arr := m.arr &&& ~~~((1 : Dword) <<< e.2.tid), dep := FMap.del m.dep e.2.tid }).takeFault c e.1
             (Flt.plain 0x10) e.2.wsite
         | _ => u) s ∧
       ∀ n, (done.mask k.bid crew n).mem = (s.mask k.bid crew n).mem ∧ ∀ e ∈ live, e.2.status = .blocked (.mask n) →
         (done.mask k.bid crew n).arr.getLsbD e.2.tid = false ∧ FMap.find? (done.mask k.bid crew n).dep e.2.tid = none)) ∧
  (∀ (s : State) (c t : Nat) (th : Thread) (k : Block), s.block? th.bid = some k → th.accessesDone = true → th.yieldTill = 0 → th.tid < 64 →
     let goesOn (i : Instr) (n : BitVec 4) (v : Word) (p : Bool) : Prop :=
       let m := s.mask th.bid th.crew n.toNat
       let all := m.arr ||| (1 : Dword) <<< th.tid
       m.mem.getLsbD th.tid = true → all &&& m.mem = m.mem → (m.dep.map Prod.fst).Pairwise (· < ·) →
       ∃ s', exec i s = .next s' ∧
         let done := s'.testMask c th.bid th.crew n.toNat
         (done.mask th.bid th.crew n.toNat).cap = all ∧ (done.mask th.bid th.crew n.toNat).arr = 0 ∧
         (done.mask th.bid th.crew n.toNat).captured th.tid = { v := v, p := p } ∧
         done.thread? c t = some { th with wsite := s.site c th, status := .ready }
     (∀ x : MaskArgs, Runs s c t th x.g → goesOn (.wait x) x.m 0 false) ∧
     (∀ x : WaitPutArgs, Runs s c t th x.g → regsOk th [sp1 x.a] = true → goesOn (.waitPut x) x.m (th.reg x.a.toNat) (th.psrc x.p)))

/-! ## Matrix family -/

/-- WLD, WLDS, MLOOP, MZERO and DCFG complete in a matrix-role thread (R244, R252 to R259): with operands aligned and inside their buffers
each enters the matrix queue once, behind what stands there, in an entry that its gang has reserved (R245), and is in flight in its thread
until it has been performed. MSTAT is read, MSCLR clears exactly the bits that its mask names among [6:0] and, under bit 32, the count
(R262), but the events of the same core cycle stand (R263); MSYNC holds the thread (R260). -/
def Obligations.MatrixOperationsEnqueue : Prop :=
  (∀ (s : State) (c t : Nat) (th : Thread) (fl : Option Nat), th.role = .matrix →
     let enters (i : Instr) (fl : Option Nat) (k : MKind) : Prop :=
       let s1 := (s.issueOp c t th fl (.engine s.uid) engineAcc).useEntry c th fun g => { g with roomM := g.roomM - 1 }
       let op : MOp := { uid := s.uid, slot := t, bid := th.bid, half := s.halfOf c th.bid, kind := k, done := 0 }
       exec i s = .next (s1.setCore c { s1.core c with mq := (s.core c).mq ++ [op] })
     let has (f : Fmt) (scaled : Bool) : Prop :=
       (f = .lns6 → s.lacksFeature 1 = false) ∧ (scaled = true → isFp8 f = true → s.lacksFeature 2 = false)
     let at_ (r : GReg) : Nat := (th.reg r.toNat).toNat
     (∀ x : WldArgs, Runs s c t th x.h.g → FlagOf s c th x.h fl → regsOk th [sp1 x.a] = true → has x.fmt x.scaled →
       let addr : Int := at_ x.a + ((x.off.map fun v => v.toInt).getD 0)
       let fit (sparse : Bool) : Prop := addr % 64 = 0 ∧ 0 ≤ addr ∧ addr + recordSize x.fmt x.scaled sparse ≤ s.alloc th.bid .wbuf
       (fit false → enters (.wld x) fl (.wld x.fmt x.scaled false addr.toNat)) ∧
       (s.lacksFeature 0 = false → fit true → enters (.wlds x) fl (.wld x.fmt x.scaled true addr.toNat))) ∧
     (∀ x : MzeroArgs, Runs s c t th x.h.g → FlagOf s c th x.h fl → regsOk th [sp1 x.a] = true →
       at_ x.a % 64 = 0 → at_ x.a + x.len.toNat ≤ s.alloc th.bid .cbuf → enters (.mzero x) fl (.mzero (at_ x.a) x.len.toNat)) ∧
     (∀ x : DcfgArgs, Runs s c t th x.g → regsOk th (spRI1 x.v) = true →
       (th.ri x.v).extractLsb' 16 16 = 0 → (th.ri x.v).extractLsb' 4 4 = 0 → (th.ri x.v).getLsbD 1 = false →
       enters (.dcfg x) none (.dcfg (th.ri x.v))) ∧
     (∀ x : MloopArgs, Runs s c t th x.h.g → FlagOf s c th x.h fl → regsOk th [sp1 x.c, sp1 x.a, sp1 x.s] = true → has x.fmt x.scaled →
       (x.sparse = true → s.lacksFeature 0 = false) →
       let sa := at_ x.s % 65536
       let sc := at_ x.s / 65536
       let rows := x.rows1.toNat + 1
       let steps := x.steps1.toNat + 1
       let acc : Opd := ⟨.cbuf, at_ x.c, 256 * x.dc.toNat, steps, sc, rows, 4 * nOf x.fmt, 4, [sc], 2⟩
       let act : Opd := ⟨if x.cb then .cbuf else .abuf, at_ x.a, 16 * x.da.toNat, steps, sa, rows, actSize x.fmt x.cb x.scaled x.sparse, 16, [sa], 0⟩
       s.checkOpds th.bid [acc, act] = none →
       enters (.mloop x) fl (.mloop x.fmt x.cb x.scaled x.sparse x.init (at_ x.c) (at_ x.a) sa sc rows steps (16 * x.da.toNat)
         (64 * x.dw.toNat) (256 * x.dc.toNat)))) ∧
  (∀ (s : State) (c t : Nat) (th : Thread),
     (∀ x : DArgs, Runs s c t th x.g → regsOk th [sp2 x.d] = true →
       exec (.mstat x) s = .next (s.setThread c t (th.setPair x.d.toNat (s.core c).mstat))) ∧
     (∀ x : AArgs, Runs s c t th x.g → regsOk th [sp2 x.a] = true → ∃ v : Dword,
       exec (.msclr x) s = .next (s.setCore c { s.core c with mstat := v }) ∧
       ∀ i < 64, v.getLsbD i =
         if (i < 7 ∧ (th.pair x.a.toNat).getLsbD i = true) ∨ (32 ≤ i ∧ (th.pair x.a.toNat).getLsbD 32 = true) then
           (s.core c).mevents.getLsbD i
         else (s.core c).mstat.getLsbD i) ∧
     (∀ x : Bare, Runs s c t th x.g → th.role = .matrix →
       exec (.msync x) s = .next (s.setThread c t { th with wsite := s.site c th, status := .blocked .msync }) ∧
       ((∀ o ∈ th.ops, ∀ e, o.kind ≠ .engine e) → th.halted = false → th.late = [] → th.preck = [] → th.yieldTill ≤ (s.core c).cycle →
         ∃ s' th', exec (.msync x) s = .next s' ∧ s'.thread? c t = some th' ∧ th'.idle (s'.core c).cycle = true)))

/-- What the heads of the matrix queue do when they are performed (R252 to R259, R261): WLD fills the latch with the record's bytes and their
poison marks, MZERO writes zeros, DCFG sets DCV, MLOOP whose latch does not suit sets MSTAT bit 1 and ends, and one that suits runs its
row-steps in order and moves the latch address on. Each then leaves the queue. -/
def Obligations.MatrixOperationsPerform : Prop :=
  ∀ (s : State) (c : Nat) (m : MOp), s.matrixHead c = some m →
    let w := s.engineBuf m.bid m.half .wbuf
    (∀ f sc sp a, m.kind = .wld f sc sp a → ∃ l : Latch,
      exec (.wldExecute c) s = .next ((s.setCore c { s.core c with latch := l }).matrixPop c m) ∧
      l.fmt = some f ∧ l.scaled = sc ∧ l.sparse = sp ∧ l.addr = a ∧ l.bytes.length = recordSize f sc sp ∧
      (∀ i < recordSize f sc sp, l.bytes.getD i 0 = w.get (a + i)) ∧ ∀ i, i ∈ l.poison ↔ i < recordSize f sc sp ∧ w.bad (a + i) = true) ∧
    (∀ a n, m.kind = .mzero a n → exec (.mzeroExecute c) s = .next
      ((s.setEngineBuf m.bid m.half .cbuf ((s.engineBuf m.bid m.half .cbuf).write a (List.replicate n 0))).matrixPop c m)) ∧
    (∀ v, m.kind = .dcfg v → exec (.dcfgApply c) s = .next ((s.setCore c { s.core c with dcv := v }).matrixPop c m)) ∧
    (∀ af cb scaled sparse init ca aa sa sc rows steps da dw dc n,
      m.kind = .mloop af cb scaled sparse init ca aa sa sc rows steps da dw dc → m.done = 0 →
      let l := (s.core c).latch
      (l.suits af scaled sparse = false → exec (.mloopExecute c n) s = .next ((s.mstatSet c 1).matrixPop c m)) ∧
      (l.suits af scaled sparse = true → s.alloc m.bid .wbuf < l.addr + (steps - 1) * dw + recordSize (l.fmt.getD af) scaled sparse →
        exec (.mloopExecute c n) s = .next ((s.mstatSet c 2).matrixPop c m)) ∧
      (l.suits af scaled sparse = true → l.addr + (steps - 1) * dw + recordSize (l.fmt.getD af) scaled sparse ≤ s.alloc m.bid .wbuf →
        rows * steps ≤ n →
        let s1 := s.mloopSteps c m 0 (rows * steps)
        let l1 := (s1.core c).latch
        exec (.mloopExecute c n) s = .next
          ((s1.setCore c { s1.core c with latch := { l1 with addr := l1.addr + (steps - 1) * dw } }).matrixPop c m)))

/-- One row-step of an MLOOP writes the accumulators of its row and no other byte (R256): every byte of memory and of every buffer outside
them stands. A K-step (R57 to R60, R257): an LNS6 step whose codes or scales hold a NaN gives the canonical NaN; a step over activations
that are all +0 leaves a finite nonzero accumulator as it stands, in every format.
An LNS6 step adds to the accumulator the exact sum of its 64 products under the scales of their blocks, rounded once to FP32, with one more
rounding (R57). A step of FP8, BF16 or FP16 adds the exact scaled sums of four groups of 16 products in turn, each rounded once to FP32
(R59); a NaN, a product of zero and infinity, opposite infinities or a scale 0xFF make a group's sum NaN. An FP32 step is 32 fused
multiply-adds in order (R60). -/
def Obligations.RowStepsAndKSteps : Prop :=
  (∀ (s : State) (c i : Nat) (m : MOp) (af : Fmt) (cb scaled sparse init : Bool) (ca aa sa sc rows steps da dw dc : Nat),
     m.kind = .mloop af cb scaled sparse init ca aa sa sc rows steps da dw dc →
     let s' := s.mloopStep c m i
     let p := ca + i / rows * dc + i % rows * sc
     s'.mem = s.mem ∧ s'.hostMem = s.hostMem ∧
     ∀ b half sp a, sp ∈ [Space.loc, .wbuf, .abuf, .cbuf] →
       (b = m.bid → half = m.half → sp = .cbuf → a < p ∨ p + 4 * nOf af ≤ a) → bufferByte s' b half sp a = bufferByte s b half sp a) ∧
  (∀ (x : Act) (w : Col) (c : Nat), c < 2 ^ 32 →
     ((∃ p < 64, (lnsProd x w p).val = .nan) → kstep .lns6 .lns6 false false x w c = 0x7FC00000) ∧
     (∀ af wf scaled, af ∈ [Fmt.lns6, .e4m3, .e5m2, .bf16, .f16, .f32] →
       (∀ i, x.codes.getD i 0 = 0) → (∀ i, x.scales.getD i 127 ≠ 0xFF) → (∀ i, w.scales.getD i 127 ≠ 0xFF) →
       (∀ i r, toReal wf (w.codes.getD i 0) ≠ .nan ∧ toReal wf (w.codes.getD i 0) ≠ .inf r) → (af = .lns6 ↔ wf = .lns6) → (af = .f32 ↔ wf = .f32) →
       (∃ r m e, toReal .f32 c = .fin r m e ∧ m ≠ 0) → kstep af wf scaled false x w c = c)) ∧
  (∀ (x : Act) (w : Col) (c : Nat) (sparse scaled : Bool),
     let add (c : Nat) (v : XR) : Nat :=
       round (xadd .rn (toReal .f32 c) (toReal .f32 (round v .f32 .rn 0 false))) .f32 .rn 0 false
     let at_ (p : Nat) := w.pos.getD p 0
     let sa (p : Nat) := x.scales.getD (at_ p / 32) 127
     let sw (p : Nat) := w.scales.getD (p / 32) 127
     let la (p : Nat) := x.codes.getD (at_ p) 0 % 64
     let lw (p : Nat) := w.codes.getD p 0 % 64
     let term (p : Nat) : Rat :=
       if la p = 0 ∨ lw p = 0 then 0
       else (if la p / 32 = lw p / 32 then 1 else -1) *
         (2 : Rat) ^ ((((la p % 32 : Nat) : Int) + (lw p % 32 : Nat) - 32) / 4) *
         ((([0x800, 0x983, 0xB50, 0xD74].getD ((la p + lw p) % 4) 0 : Nat) : Rat) / 2 ^ 11)
     ((∀ p < 64, sa p ≠ 0xFF ∧ sw p ≠ 0xFF ∧ la p ≠ 0x20 ∧ lw p ≠ 0x20) → ∃ v,
       let sum := ((List.range 64).map fun p => (2 : Rat) ^ ((sa p : Int) + sw p - 254) * term p).sum
       value v = some sum ∧ (sum = 0 → isNeg v = false) ∧ kstep .lns6 .lns6 scaled sparse x w c = add c v) ∧
     (kstep .f32 .f32 scaled sparse x w c = (List.range 32).foldl (fun c i => round (xadd .rn
       (xmul (toReal .f32 (x.codes.getD i 0)) (toReal .f32 (w.codes.getD i 0))) (toReal .f32 c)) .f32 .rn 0 false) c) ∧
     (∀ af wf, (af, wf) ∈ [(Fmt.e4m3, Fmt.e4m3), (.e4m3, .e5m2), (.e5m2, .e4m3), (.e5m2, .e5m2), (.bf16, .bf16), (.f16, .f16)] →
       ∃ v : Nat → XR, kstep af wf scaled sparse x w c = (List.range 4).foldl (fun c g => add c (v g)) c ∧
       ∀ g < 4,
         let ga := x.scales.getD (if sparse then g else g / 2) 127
         let gw := w.scales.getD (g / 2) 127
         let a (i : Nat) := toReal af (x.codes.getD (at_ (16 * g + i)) 0)
         let b (i : Nat) := toReal wf (w.codes.getD (16 * g + i) 0)
         let neg (i : Nat) : Bool := isNeg (a i) != isNeg (b i)
         let big (i : Nat) : Prop := (∃ r, a i = .inf r) ∨ (∃ r, b i = .inf r)
         let bad : Prop := (scaled = true ∧ (ga = 0xFF ∨ gw = 0xFF)) ∨
           (∃ i < 16, a i = .nan ∨ b i = .nan ∨ (big i ∧ (isZero (a i) = true ∨ isZero (b i) = true))) ∨
           ∃ i < 16, ∃ j < 16, big i ∧ big j ∧ neg i ≠ neg j
         (bad → v g = .nan) ∧ (¬ bad → (∀ i < 16, big i → v g = .inf (neg i)) ∧
           (∀ y z : Nat → Rat, (∀ i < 16, value (a i) = some (y i) ∧ value (b i) = some (z i)) →
             let sum := ((List.range 16).map fun i => y i * z i).sum
             value (v g) = some (sum * if scaled then (2 : Rat) ^ ((ga : Int) + gw - 254) else 1) ∧
             (sum = 0 → (isNeg (v g) = true ↔ sparse = false ∧ ∀ i < 16, neg i = true))))))

/-! ## Tile vector family -/

/-- The tile vector instructions complete in a vector-role thread (R264 to R270): with operands aligned and inside their buffers, and the
pages of a VST translated, each enters the tile vector queue with its function, operands and row count, in an entry that its gang has
reserved (R245). That a row scalar which VRMAX or VRSUM reads and writes is checked as KIND 2 is the model's choice (assumption 79). -/
def Obligations.VectorOperationsEnqueue : Prop :=
  ∀ (s : State) (c t : Nat) (th : Thread) (fl : Option Nat), th.role = .vector →
    let at_ (r : GReg) : Nat := (th.reg r.toNat).toNat
    let sp (b : Bool) : Space := if b then .cbuf else .abuf
    let enters (i : Instr) (acc : Acc) (s0 : State) (op : VOp) : Prop :=
      let s1 := (s0.issueOp c t th fl (.engine s0.uid) acc).useEntry c th fun g => { g with roomV := g.roomV - 1 }
      exec i s = .next (s1.setCore c { s1.core c with vq := (s1.core c).vq ++ [op] })
    (∀ x : VecArgs, Runs s c t th x.h.g → FlagOf s c th x.h fl →
      let op (fn : VFun) : VOp :=
        { uid := s.uid, slot := t, bid := th.bid, half := s.halfOf c th.bid, fn := fn, fmt := x.fmt, rm := x.rm, sat := x.sat,
          sd := sp x.sd, sa := sp x.sa, sb := sp x.sb, sc := sp x.sc, d := at_ x.d, a := at_ x.a, b := at_ x.b, c := at_ x.c,
          rows := x.rows1.toNat + 1, done := 0, parts := [], row := none }
      let runs (i : Instr) (v : VShape) (fn : VFun) : Prop :=
        regsOk th (v.spans x) = true → s.checkOpds th.bid (v.opds x th) = none → enters i engineAcc s (op fn)
      runs (.vadd x) ⟨1, 1, 1, 0⟩ .add ∧ runs (.vsub x) ⟨1, 1, 1, 0⟩ .sub ∧ runs (.vmul x) ⟨1, 1, 1, 0⟩ .mul ∧
      runs (.vfma x) ⟨1, 1, 1, 1⟩ .fma ∧ runs (.vmin x) ⟨1, 1, 1, 0⟩ .min ∧ runs (.vmax x) ⟨1, 1, 1, 0⟩ .max ∧
      runs (.vexp2 x) ⟨1, 1, 0, 0⟩ .exp2 ∧ runs (.vrmax x) ⟨2, 1, 0, 0⟩ (.rmax (x.op == 1)) ∧
      runs (.vrsum x) ⟨2, 1, 0, 0⟩ (.rsum (x.op == 1)) ∧ runs (.vscl x) ⟨1, 1, 2, 0⟩ (.scl x.op.toNat) ∧
      runs (.vcmp x) ⟨1, 1, 1, 0⟩ (.cmp (condOf x.op.toNat)) ∧
      (x.op = 0 → runs (.vmov x) ⟨1, 1, 0, 0⟩ (.mov false)) ∧ (x.op ≠ 0 → runs (.vmov x) ⟨1, 0, 2, 0⟩ (.mov true))) ∧
    (∀ x : VcvtArgs, Runs s c t th x.h.g → FlagOf s c th x.h fl → regsOk th [sp1 x.d, sp1 x.a] = true →
      (x.fmt = .lns6 → s.lacksFeature 1 = false) → (x.scaled = true → isFp8 x.fmt = true → s.lacksFeature 2 = false) →
      let rows := x.rows1.toNat + 1
      let n := actSize x.fmt false x.scaled false
      s.checkOpds th.bid [Opd.rows .abuf (at_ x.d) n rows n 64 1, Opd.rows (sp x.sa) (at_ x.a) 256 rows 256 64 0] = none →
      enters (.vcvt x) engineAcc s
        { uid := s.uid, slot := t, bid := th.bid, half := s.halfOf c th.bid, fn := .cvt x.scaled, fmt := x.fmt, rm := x.rm, sat := x.sat,
          sd := .abuf, sa := sp x.sa, sb := .abuf, sc := .abuf, d := at_ x.d, a := at_ x.a, b := 0, c := 0, rows := rows, done := 0, parts := [], row := none }) ∧
    (∀ (x : VstArgs) (pages : List (Nat × Tgt)), Runs s c t th x.h.g → FlagOf s c th x.h fl → regsOk th [sp2 x.d, sp1 x.a, sp1 x.b] = true →
      let rows := x.rows1.toNat + 1
      let d := (th.pair x.d.toNat).toNat
      let stride := at_ x.b
      let w := 64 * ((if sp x.sa = .cbuf then 32 else x.fmt.n) / 8)
      let firsts := (List.range rows).flatMap fun r => rowPages (d + r * stride) (rowBytes x.fmt)
      d % 16 = 0 → stride % 16 = 0 → s.checkOpds th.bid [Opd.rows (sp x.sa) (at_ x.a) w rows w 64 0] = none →
      s.vstPages th.ctx x.scope firsts [] = .ok pages →
      let s0 := firsts.foldl (fun z v => z.tlbFill c th.ctx (BitVec.ofNat 64 v)) s
      enters (.vst x) (vstAcc x.scope (th.pair x.d.toNat)) s0
        { uid := s.uid, slot := t, bid := th.bid, half := s.halfOf c th.bid, fn := .st stride pages, fmt := x.fmt, rm := x.rm, sat := x.sat,
          sd := .abuf, sa := sp x.sa, sb := .abuf, sc := .abuf, d := d, a := at_ x.a, b := 0, c := 0, rows := rows, done := 0, parts := [], row := none })

/-- One row of a tile vector operation (R264, R266 to R269). Elementwise operations: each of the 64 elements of the destination row is the
operation's exact value on the elements of the source rows and the row scalar, all read first, rounded into the destination's format. VRMAX
and VRSUM write the row's maximum and the sum along the tree of R267, under `.acc` combined with the row scalar that stood. VCVT writes one
dense record: 64 rounded codes, or two quantised blocks with their scale bytes behind them, and an infinity sets MSTAT bit 6. VST writes a
row of its format into the pages that its issue translated, rounded from `cbuf` and copied from `abuf`; the bytes that command queue pages
and the pool page keep are apart (R11, R276, R383). Every byte outside what the row writes stands. VECTOR_OP_EXECUTE runs the rows of the
head of the tile vector queue, once its issuer has performed what comes before it (R238); the last one takes it out and completes it in its
thread (R266, R271). -/
def Obligations.VectorOperationsPerform : Prop :=
  (∀ (s : State) (c r : Nat) (v : VOp) (k : Block), s.block? v.bid = some k →
     let f (sp : Space) : Fmt := if sp = .cbuf then .f32 else v.fmt
     let w (sp : Space) : Nat := (f sp).n / 8
     let elem (sp : Space) (a i : Nat) : XR := toReal (f sp) ((k.store v.half sp).readNat (a + r * 64 * w sp + i * w sp) (w sp))
     let scalar (sp : Space) (a : Nat) : XR := toReal .f32 ((k.store v.half sp).readNat (a + 4 * r) 4)
     let e32 (x : XR) : Nat := roundRne x .f32
     let stands (s' : State) (lo n : Nat) : Prop :=
       ∀ a, a < lo ∨ lo + n ≤ a → (s'.engineBuf v.bid v.half v.sd).get a = (k.store v.half v.sd).get a
     (v.sd ∈ [Space.abuf, .cbuf] → v.sa ∈ [Space.abuf, .cbuf] → v.sb ∈ [Space.abuf, .cbuf] → v.sc ∈ [Space.abuf, .cbuf] →
       v.fmt ∈ [Fmt.f32, .f16, .bf16] →
       let a := elem v.sa v.a
       let b := elem v.sb v.b
       let bs := scalar v.sb v.b
       let rowOf (out : Nat → XR) : Prop :=
         ∃ s', s.vecRow c v r = some s' ∧
           (∀ i < 64, (s'.engineBuf v.bid v.half v.sd).readNat (v.d + r * 64 * w v.sd + i * w v.sd) (w v.sd) =
             round (out i) (f v.sd) v.rm 0 v.sat) ∧ stands s' (v.d + r * 64 * w v.sd) (64 * w v.sd)
       let scalarOf (out : Nat) : Prop :=
         ∃ s', s.vecRow c v r = some s' ∧ (s'.engineBuf v.bid v.half v.sd).readNat (v.d + 4 * r) 4 = out ∧ stands s' (v.d + 4 * r) 4
       (v.fn = .add → rowOf fun i => xadd v.rm (a i) (b i)) ∧ (v.fn = .sub → rowOf fun i => xadd v.rm (a i) (b i).neg) ∧
       (v.fn = .mul → rowOf fun i => xmul (a i) (b i)) ∧
       (v.fn = .fma → rowOf fun i => xadd v.rm (xmul (a i) (b i)) (elem v.sc v.c i)) ∧
       (v.fn = .min → rowOf fun i => toReal .f32 (fMinMax .f32 false (e32 (a i)) (e32 (b i)))) ∧
       (v.fn = .max → rowOf fun i => toReal .f32 (fMinMax .f32 true (e32 (a i)) (e32 (b i)))) ∧
       (v.fn = .exp2 → rowOf fun i => toReal .f32 (fExp2 (BitVec.ofNat 32 (e32 (a i))))) ∧
       (v.fn = .scl 0 → rowOf fun i => xmul (a i) bs) ∧ (v.fn = .scl 1 → rowOf fun i => xadd v.rm (a i) bs) ∧
       (v.fn = .scl 2 → rowOf fun i => xadd v.rm (a i) bs.neg) ∧
       (∀ cond, v.fn = .cmp cond → rowOf fun i => if fCond cond .f32 (e32 (a i)) (e32 (b i)) then .fin false 1 0 else .fin false 0 0) ∧
       (v.fn = .mov false → rowOf a) ∧ (v.fn = .mov true → rowOf fun _ => bs) ∧
       (∀ acc, v.fn = .rmax acc →
         let m := ((List.range 63).map fun i => e32 (a (i + 1))).foldl (fMinMax .f32 true) (e32 (a 0))
         scalarOf (if acc then fMinMax .f32 true (e32 (scalar v.sd v.d)) m else m)) ∧
       (∀ acc (t : Nat → Nat → Nat), v.fn = .rsum acc → (∀ i < 64, t 64 i = e32 (a i)) →
         (∀ n ∈ [32, 16, 8, 4, 2, 1], ∀ i < n, t n i = fAdd .f32 .rn false (t (2 * n) i) (t (2 * n) (i + n))) →
         scalarOf (if acc then fAdd .f32 .rn false (e32 (scalar v.sd v.d)) (t 1 0) else t 1 0))) ∧
     (v.sd = .abuf → v.sa ∈ [Space.abuf, .cbuf] →
       let x (i : Nat) : XR := toReal .f32 ((k.store v.half v.sa).readNat (v.a + 256 * r + 4 * i) 4)
       (v.fn = .cvt false → v.fmt ∈ [Fmt.e4m3, .e5m2] → ∃ s', s.vecRow c v r = some s' ∧ stands s' (v.d + 64 * r) 64 ∧
         ∀ i < 64, ((s'.engineBuf v.bid v.half .abuf).get (v.d + 64 * r + i)).toNat = round (x i) v.fmt v.rm 0 v.sat) ∧
       (v.fn = .cvt true → v.fmt ∈ [Fmt.lns6, .e4m3, .e5m2] →
         let q (j : Nat) : QBlock := quantise v.fmt v.rm ((List.range 32).map fun i => (x (32 * j + i), 0))
         let n := 8 * v.fmt.n
         let at_ := v.d + (if v.fmt = .lns6 then 64 else 80) * r
         ∃ s', s.vecRow c v r = some s' ∧ stands s' at_ (if v.fmt = .lns6 then 64 else 80) ∧
           (s'.engineBuf v.bid v.half .abuf).readBytes at_ n = packElems v.fmt ((q 0).codes ++ (q 1).codes) ∧
           (∀ j < 2, (s'.engineBuf v.bid v.half .abuf).get (at_ + n + j) = BitVec.ofNat 8 (q j).scale) ∧
           ((q 0).inf = true ∨ (q 1).inf = true → (s'.core c).mstat.getLsbD 6 = true))) ∧
     (∀ stride ps, v.fn = .st stride ps → v.parts = [] → v.row = none → v.sa ∈ [Space.abuf, .cbuf] → v.fmt ∈ [Fmt.f32, .f16, .bf16] →
       let w := v.fmt.n / 8
       let base := v.d + r * stride
       let byte (j : Nat) : Byte :=
         if v.sa = .cbuf then BitVec.ofNat 8 (round (elem .cbuf v.a (j / w)) v.fmt v.rm 0 v.sat / 256 ^ (j % w))
         else (k.store v.half .abuf).get (v.a + r * 64 * w + j)
       let place (j : Nat) : Option Tgt := (ps.find? fun e => decide (e.1 / 65536 = (base + j) / 65536)).map Prod.snd
       let off (j : Nat) : Nat := (base + j) % 65536
       s.vstReady v.uid (vstPieces ps base (64 * w)) = true → ∃ s', s.vecRow c v r = some s' ∧
         (∀ j < 64 * w, (∀ pa, place j = some (.host pa) → s'.hostMem.get (pa / 65536 * 65536 + off j) = byte j) ∧
           ∀ pa, place j = some (.dev pa) → let a := pa / 65536 * 65536 + off j
             isCfgByte a = false → isPageZero a = false → isPoolZero a = false → s'.mem.get a = byte j) ∧
         (∀ a, (∀ j < 64 * w, ∀ pa, place j = some (.dev pa) → a ≠ pa / 65536 * 65536 + off j) → s'.mem.get a = s.mem.get a) ∧
         (∀ a, (∀ j < 64 * w, ∀ pa, place j = some (.host pa) → a ≠ pa / 65536 * 65536 + off j) → s'.hostMem.get a = s.hostMem.get a))) ∧
  (∀ (s : State) (c n : Nat) (v : VOp) (rest : List VOp), (s.core c).vq = v :: rest → s.enginesRun c = true →
     s.issuerClear c v.slot v.bid v.uid = true → 0 < n →
     let s1 := s.vecRows c v n
     ∀ v' rest', (s1.core c).vq = v' :: rest' →
       (v'.rows ≤ v'.done → exec (.vectorOpExecute c n) s = .next
         ((s1.setCore c { s1.core c with vq := rest' }).engineDone c v'.slot v'.uid v'.bid (s1.vecScope c v'))) ∧
       (v'.done < v'.rows → exec (.vectorOpExecute c n) s = .next s1) ∧
       (v.done ≤ v.rows → (∀ stride ps, v.fn ≠ .st stride ps) →
         v' = { v with done := min v.rows (v.done + n), parts := if v.done < v.rows then [] else v.parts, row := if v.done < v.rows then none else v.row } ∧
           rest' = rest))

/-! ## Ladle family -/

/-- The thread instructions of the Ladle family complete (R329 to R334): LDL.START takes the lowest free stream slot of the cluster's Ladle
or answers NONE, LDL.STOP and LDL.STAT act on the streams of a handle, LDL.BASE binds and frees a channel, AWAIT holds until the write
pointer has passed its target, ARELS returns slots. -/
def Obligations.LadleThreadInstructions : Prop :=
  ∀ (s : State) (c t : Nat) (th : Thread) (fl : Option Nat),
    let starts (i : Instr) (l : Nat) (d a : GReg) : Prop :=
      let list := th.pair a.toNat
      let acc : Acc := { space := .glb, scope := .dev, ea := list, size := 4, kind := 0 }
      list.toNat % 16 = 0 →
      ((∀ k < 16, (s.stream l k).st ≠ .free) → exec i s = .next (s.issueOp c t th fl (.land d.toNat .n32 0xFFFFFFFF) acc)) ∧
      ∀ k < 16, (s.stream l k).st = .free → (∀ j < k, (s.stream l j).st ≠ .free) →
        let seq := if (s.stream l k).seq = 0x1FFFFE then 0 else (s.stream l k).seq + 1
        let h : Word := BitVec.ofNat 32 (l + 128 * k + 2048 * seq)
        exec i s = .next ((s.issueOp c t th fl (if fl.isSome then .streamEnd h (some d.toNat) else .land d.toNat .n32 h.toNat) acc).setStream
          l k { Stream.free with
            handle := h, st := .run, seq := seq, lpc := list, core := c, slot := t, bid := th.bid, after := s.uid, ctx := th.ctx })
    (∀ x : LdlStartArgs, Runs s c t th x.h.g → FlagOf s c th x.h fl → regsOk th [sp1 x.d, sp2 x.a] = true → th.role = .feed →
      starts (.ldlStart x) (c / 16) x.d x.a) ∧
    (∀ x : LdlStartAtArgs, Runs s c t th x.h.g → FlagOf s c th x.h fl → regsOk th [sp1 x.d, sp2 x.a] = true → th.role = .feed →
      s.lacksFeature 15 = false → starts (.ldlStartAt x) x.n.toNat x.d x.a) ∧
    (∀ x : AArgs, Runs s c t th x.g → regsOk th [sp1 x.a] = true → th.role = .feed →
      exec (.ldlStop x) s = .next (s.stopHandle th.ctx (th.reg x.a.toNat))) ∧
    (∀ x : DAArgs, Runs s c t th x.g → regsOk th [sp2 x.d, sp1 x.a] = true →
      let h := th.reg x.a.toNat
      (s.streamOf th.ctx h = none → exec (.ldlStat x) s = .next (s.setThread c t (th.setPair x.d.toNat 0)) ∧
        exec (.ldlStatFree x) s = .next (s.setThread c t (th.setPair x.d.toNat 0))) ∧
      ∀ y, s.streamOf th.ctx h = some y → ∃ v : Dword,
        exec (.ldlStat x) s = .next (s.setThread c t (th.setPair x.d.toNat v)) ∧
        exec (.ldlStatFree x) s = .next (if y.over then (s.setThread c t (th.setPair x.d.toNat v)).freeHandle th.ctx h
          else s.setThread c t (th.setPair x.d.toNat v)) ∧
        (y.err < 256 → (v.extractLsb' 0 8).toNat = streamCode y.st ∧ (v.extractLsb' 8 8).toNat = y.err ∧
          v.getLsbD 16 = y.satInf ∧ v.getLsbD 17 = y.poison ∧ v.getLsbD 18 = true ∧ v.extractLsb' 32 32 = BitVec.ofNat 32 y.oor)) ∧
    (∀ x : LdlBaseArgs, Runs s c t th x.g → regsOk th (spRI1 x.v) = true →
      let z := s.chan c x.ch.toNat
      let put (ok : Bool) : State := s.setThread c t (th.setPred x.pd.toNat ok)
      (s.baseOk c x.ch.toNat th.bid = false → exec (.ldlBaseBind x) s = .next (put false)) ∧
      (s.baseOk c x.ch.toNat th.bid = true → exec (.ldlBaseBind x) s = .next (((put true).setChan c x.ch.toNat
        { z with block := some th.bid, base := th.ri x.v &&& ~~~15, wp := 0, slots := 0, rel := 0, err := false }).testChan c x.ch.toNat)) ∧
      (z.block = some th.bid → exec (.await x) s = .next ((s.setThread c t { th with
        wsite := s.site c th, status := .blocked (.await x.ch.toNat (th.ri x.v) x.pd.toNat) }).testChan c x.ch.toNat)) ∧
      (z.block ≠ some th.bid → exec (.await x) s = .next (s.takeFault c t (Flt.plain fIllegalField) (s.site c th)))) ∧
    (∀ x : LdlFreeArgs, Runs s c t th x.g →
      let z := s.chan c x.ch.toNat
      exec (.ldlBaseFree x) s = .next (
        if s.baseOk c x.ch.toNat th.bid then (s.setThread c t (th.setPred x.pd.toNat true)).setChan c x.ch.toNat { z with block := none }
        else s.setThread c t (th.setPred x.pd.toNat false))) ∧
    (∀ x : ArelsArgs, Runs s c t th x.g → regsOk th (spRI1 x.b) = true → (s.chan c x.ch.toNat).block = some th.bid →
      th.accessesDone = true →
      let z := s.chan c x.ch.toNat
      exec (.arels x) s = .next (s.setChan c x.ch.toNat
        { z with rel := z.rel + BitVec.ofNat 32 (min (th.ri x.b).toNat (z.slots - z.rel).toNat) }))

/-- The configuring and flow commands of a stream complete (R310 to R315, R325, R326): SRC and QUANT set its source and conversion, DST takes
its channels, LOOP, ENDL, CALL and RET keep their stacks of 4 and raise their errors, FENCE discards what was read ahead, HALT ends the
stream.
The commands that touch memory complete (R317, R318, R325): BR goes to its target exactly when the 32-bit word meets its condition,
WAITM passes then and else waits, SIGNAL stores or adds at its address or emits a token, and WALK and GATHER begin to emit when their
tiles fit; an address that does not translate ends the stream in XLATE. -/
def Obligations.LadleCommands : Prop :=
  (∀ (s : State) (l k : Nat), StreamRuns s l k →
     let y := s.stream l k
     let sets (i : Instr) (y' : Stream) : Prop := exec i s = .next (s.setStream l k y')
     let errs (i : Instr) (e : Nat) : Prop := exec i s = .next (s.endStream l k .error e)
     (∀ x : LSrc, (s.ladleLacks x.fmt x.scaled = false → sets (.ladleSrc x) { y with src := some x, quant := none, cursor := [0, 0, 0, 0, 0] }) ∧
       (s.ladleLacks x.fmt x.scaled = true → errs (.ladleSrc x) errBadField)) ∧
     (∀ x : LQuant, s.ladleLacks x.tfmt x.scaled = false → (x.rm = .rs → s.lacksFeature 12 = false) →
       sets (.ladleQuant x) { y with quant := if x.off then none else some x }) ∧
     (∀ x : LDst, let cs := ((List.range 16).filter fun i => x.rmask.getLsbD i).map (16 * l + ·)
       (cs.all (fun c => s.chanOk y l k c x.ch.toNat) = false → errs (.ladleDst x) errChan) ∧
       (cs.all (fun c => s.chanOk y l k c x.ch.toNat) = true →
         (∀ c ∈ cs, ∀ b, (s.chan c x.ch.toNat).block = some b →
           (s.chan c x.ch.toNat).base.toNat + x.land.toNat + 2 ^ x.logn.toNat * (64 * x.slotsz.toNat) ≤ s.alloc b x.space) →
         exec (.ladleDst x) s = .next ((cs.foldl (fun z c => z.setChan c x.ch.toNat { z.chan c x.ch.toNat with owner := some (l, k) })
           (s.disown l k false)).setStream l k { y with dst := some x, lost := false }))) ∧
     (∀ n : Word, (y.loops.length < 4 → sets (.ladleLoop n) { y with loops := (y.lpc, n.toNat) :: y.loops }) ∧
       (4 ≤ y.loops.length → errs (.ladleLoop n) errDepth)) ∧
     (∀ a, (y.calls.length < 4 → sets (.ladleCall a) { y with calls := (y.lpc, y.loops.length) :: y.calls, lpc := a }) ∧
       (4 ≤ y.calls.length → errs (.ladleCall a) errDepth)) ∧
     (∀ a n rest, y.loops = (a, n) :: rest → y.outer < y.loops.length →
       (n ≤ 1 → sets .endl { y with loops := rest }) ∧ (1 < n → sets .endl { y with loops := (a, n - 1) :: rest, lpc := a })) ∧
     (y.loops.length ≤ y.outer → errs .endl errBadField) ∧
     (y.calls = [] → errs .ladleRet errBadField) ∧
     (∀ a n rest, y.calls = (a, n) :: rest → (y.loops.length ≤ n → sets .ladleRet { y with calls := rest, lpc := a, ahead := [] }) ∧
       (n < y.loops.length → errs .ladleRet errBadField)) ∧
     sets .ladleFence { y with ahead := [] } ∧ exec .halt s = .next (s.endStream l k .done 0)) ∧
  (∀ (s : State) (l k : Nat), StreamRuns s l k →
     let y := s.stream l k
     (∀ (x : LBr) bs s1, s.agentRead y.ctx x.addr 4 = .ok (bs, [], s1) →
       let here := y.lpc - 16
       let took := wordCond x.cond 32 (leNat bs) x.value.toNat
       ∃ y' : Stream, exec (.ladleBr x) s = .next (s1.setStream l k y') ∧
         y'.lpc = (if took then here + 16 * x.off.signExtend 64 else y.lpc) ∧ (y'.ahead = y.ahead ∨ y'.ahead = []) ∧
         y' = { y with lpc := y'.lpc, ahead := y'.ahead, brs := y'.brs }) ∧
     (∀ (x : LWaitm) bs s1, s.agentRead y.ctx x.addr 4 = .ok (bs, [], s1) →
       exec (.waitm x) s = .next (s1.setStream l k (
         if wordCond x.cond 32 (leNat bs) x.value.toNat then { y with waitm := none, ahead := [] } else { y with waitm := some x }))) ∧
     (∀ (x : LWaitm) va e, s.agentRead y.ctx x.addr 4 = .fail va e →
       exec (.waitm x) s = .next (((s.setStream l k { y with waitm := some x }).recordFault y.ctx fXlateEngine y.core y.slot false va).endStream
         l k .error errXlate)) ∧
     (∀ (x : LSignal) s1, y.copy = false → s.agentWrite y.ctx x.addr (leBytes 4 x.value.toNat) [] false = .ok s1 →
       exec (.ladleSignalStore32 x) s = .next (s1.setStream l k { s1.stream l k with ahead := [] })) ∧
     (∀ (x : LSignal) s1, y.copy = false → s.agentAdd y.ctx x.addr 4 x.value.toNat false = .ok (some s1) →
       exec (.ladleSignalAdd32 x) s = .next (s1.setStream l k { s1.stream l k with ahead := [] })) ∧
     (∀ x : LSignal, y.copy = false →
       exec (.ladleSignalToken x) s = .next ((s.setStream l k { y with ahead := [] }).tokenAdd y.ctx (x.value.toNat % 4096))) ∧
     (∀ x : LSignal, y.copy = true → ∀ i ∈ [Instr.ladleSignalStore32 x, .ladleSignalAdd32 x, .ladleSignalToken x],
       exec i s = .next (s.setStream l k { y with ahead := [] })) ∧
     (∀ x : LWalk, exec (.ladleWalk x) s = .next (match emitErr y (x.tc1.toNat + 1) (x.tr1.toNat + 1) with
       | some e => s.endStream l k .error e
       | none => s.setStream l k { y with emit := some (Emit.fresh none x) })) ∧
     (∀ x : LGather, exec (.ladleGather x) s = .next (match emitErr y (x.tc1.toNat + 1) (x.tr1.toNat + 1) with
       | some e => s.endStream l k .error e
       | none => s.setStream l k { y with emit := some (Emit.fresh (some x) ⟨0, 0, 0, 0, 0⟩) })))

/-- A stream that emits moves one step at a time (R320, R321): a tile begins when every receiver's window admits it and else the stream
waits; a row is read, for a conversion into the staging that its tile holds, converted, and written to each receiver whose channel the
stream still owns (R319); a stream that a save left without one of its receivers ends with ERR CHAN (R335). A deadline ends a WAITM in TIMEOUT,
and a line is read ahead while the Ladle's pool has room (R324, R325). The order of the receivers and which lines may be read ahead are the
model's choices (assumptions 37 and 39). -/
def Obligations.LadleEvents : Prop :=
  ∀ (s : State) (l k : Nat),
    let y := s.stream l k
    (∀ e x d, y.emit = some e → y.src = some x → y.dst = some d → y.live = true → y.halted = false → y.stalled = none →
      let rs := ((List.range 16).filter fun i => d.rmask.getLsbD i).map (16 * l + ·)
      (e.begun = false → ((delivered x y.quant).2 = false ∨ y.cursor.getD 0 0 % 32 = 0) →
        exec (.tileDelivery l k) s = .next (s.setStream l k (
          if y.lost || rs.all fun c => decide (((s.chan c d.ch.toNat).slots - (s.chan c d.ch.toNat).rel).toNat < 2 ^ d.logn.toNat) then
            { y with st := .run, emit := some { e with begun := true, row := 0, recv := 0, sbytes := [], sbad := [] } }
          else { y with st := .wait }))) ∧
      (e.begun = true → e.row < e.tr → e.recv = 0 → y.quant = none → ∀ row oor e1 s1, s.nextRow y x e = .ok (row, oor, e1, s1) →
        ∃ y', exec (.tileDelivery l k) s = .next (s1.setStream l k y') ∧ (y'.emit.map Emit.recv) = some 1 ∧ (y'.emit.map Emit.row) = some e1.row ∧
          y'.oor = (if oor then min (y.oor + 1) 0xFFFFFFFF else y.oor)) ∧
      (e.begun = true → e.row < e.tr → e.recv = 0 → y.quant.isSome = true →
        (e.row + e.staged.length < e.tr → s.stageHeld l k = true → ∀ row oor e1 s1,
          s.nextRow y x { e with row := e.row + e.staged.length } = .ok (row, oor, e1, s1) →
          exec (.tileDelivery l k) s =
            .next (s1.setStream l k { y with emit := some { e1 with row := e.row, staged := e.staged ++ [(row, oor)] } })) ∧
        ∀ row rest, e.tr ≤ e.row + e.staged.length → e.staged = row :: rest →
          ∃ y', exec (.tileDelivery l k) s = .next (s.setStream l k y') ∧ (y'.emit.map Emit.recv) = some 1 ∧
            (y'.emit.map Emit.staged) = some rest ∧ y'.oor = (if row.2 then min (y.oor + 1) 0xFFFFFFFF else y.oor)) ∧
      (e.begun = true → ∀ i c, e.recv = i + 1 → rs[i]? = some c → (y.lost = true ∨ s.owns l k c d.ch.toNat = false →
          exec (.tileDelivery l k) s = .next (s.endStream l k .error errChan)) ∧
        (y.lost = false → s.owns l k c d.ch.toNat = true → i + 1 < rs.length →
          exec (.tileDelivery l k) s = .next ((s.deliverTo y d e c).setStream l k { y with emit := some { e with recv := i + 2, parts := [] } })))) ∧
    (∀ x, y.waitm = some x → y.live = true → y.halted = false → x.deadline ≠ 0 →
      exec (.waitmTimeout l k) s = .next (s.endStream l k .error errTimeout)) ∧
    (∀ va bs bad s1, y.live = true → y.halted = false → y.waitm = none → y.stalled = none → s.streamClear y = true → s.aheadBytes l + 64 ≤ Config.runAheadBytes →
      (∀ e, y.emit = some e → e.listed va = false) → s.agentRead y.ctx (va &&& ~~~63) 64 = .ok (bs, bad, s1) →
      exec (.runAheadRead l k va) s = .next (s1.setStream l k
        { y with ahead := FMap.put y.ahead ((va &&& ~~~63).toNat / 64) { bytes := bs, poison := bad } }))

/-! ## Fabric family -/

/-- Remote operations complete (R346 to R349): aligned, through the pod aperture, to a ranked device that the context's egress entry admits,
each sends one request and stays in flight under its tag, RLD with its thread parked, once the accesses that come before it are performed;
FLOWSEL selects the flow (R351). Which accesses those are is the model's reading (assumption 24). -/
def Obligations.RemoteOperations : Prop :=
  ∀ (s : State) (c t : Nat) (th : Thread) (fl : Option Nat), th.role = .general → s.lacksFeature 6 = false →
    let sends (i : Instr) (ea : Dword) (r : RemReq) (fl : Option Nat) (th1 : Thread) : Prop :=
      let acc : Acc := { space := .glb, scope := .pod, ea := ea, size := log2Size r.n, kind := r.kind }
      ∀ dev, ea.toNat % r.n = 0 → canonical ea = true → inAperture ea = true → s.deviceAt (ea.extractLsb' 38 13).toNat = some dev →
        s.egressOk th.ctx dev = true → th.remoteWaits r (s.ownPlace th dev ((ea.extractLsb' 0 38).setWidth 64) r.n) = false → s.rateHolds th.ctx 64 = false →
        (th.unord = false → s.unacked dev th.ctx < 256) →
        exec i s = .next ((s.sendRequest c t th dev ((ea.extractLsb' 0 38).setWidth 64) r acc).issueOp c t th1 fl
          (.remote (s.fab.nextTag % 2 ^ 32) r.dest r.order (s.ownPlace th dev ((ea.extractLsb' 0 38).setWidth 64) r.n)) acc)
    let ea (a : GReg) (off : Int) : Dword := BitVec.ofInt 64 (effAddr .glb (th.baseOf .glb a) off)
    (∀ x : RldArgs, Runs s c t th x.g → regsOk th [spT x.t x.d, sp2 x.a] = true →
      sends (.rld x) (ea x.a (Off.val x.off)) ⟨oRead, 0, x.t.code, if x.acq then .acq else .plain, 0, 0, x.t.n / 8, 0, some (x.d.toNat, x.t)⟩ none
        { th with wsite := s.site c th, status := .parked (.rld (s.fab.nextTag % 2 ^ 32)) }) ∧
    (∀ x : RstArgs, Runs s c t th x.h.g → FlagOf s c th x.h fl → regsOk th [sp2 x.a, spT x.t x.b] = true →
      sends (.rst x) (ea x.a (Off.val x.off))
        ⟨oWrite, 0, x.t.code, if x.rel then .rel else .plain, BitVec.ofNat 64 (th.bitsOf x.t x.b), 0, x.t.n / 8, 1, none⟩ fl th) ∧
    (∀ x : RatomArgs, Runs s c t th x.h.g → FlagOf s c th x.h fl → regsOk th [spAtom x.op x.d, sp2 x.a, spAtom x.op x.b] = true →
      (s.ctx th.ctx).det = false → sends (.ratom x) (ea x.a (Off.val x.off))
        ⟨oAtomic, x.op.op, x.op.ty, x.ord, th.atomData x.op x.b, 0, x.op.n / 8, 2, some (x.d.toNat, atomType x.op)⟩ fl th) ∧
    (∀ x : RatomCasArgs, Runs s c t th x.h.g → FlagOf s c th x.h fl → regsOk th [spT x.t x.d, sp2 x.a, spT x.t x.b, spT x.t x.c] = true →
      (s.ctx th.ctx).det = false → sends (.ratomCas x) (ea x.a 0)
        ⟨oCas, 0, x.t.code, x.ord, BitVec.ofNat 64 (th.bitsOf x.t x.b), BitVec.ofNat 64 (th.bitsOf x.t x.c), x.t.n / 8, 2, some (x.d.toNat, x.t)⟩
        fl th) ∧
    (∀ x : RredArgs, Runs s c t th x.h.g → FlagOf s c th x.h fl → regsOk th [sp2 x.a, spAtom x.op x.b] = true →
      (s.ctx th.ctx).det = false → sends (.rred x) (ea x.a (Off.val x.off))
        ⟨oReduce, x.op.op, x.op.ty, if x.rel then .rel else .plain, th.atomData x.op x.b, 0, x.op.n / 8, 2, none⟩ fl th) ∧
    (∀ g, Runs s c t th g → exec (.flowselOrd ⟨g⟩) s = .next (s.setThread c t { th with unord := false }) ∧
      (s.lacksFeature 11 = false → exec (.flowselUnord ⟨g⟩) s = .next (s.setThread c t { th with unord := true })))

/-- What a packet that has arrived for this device does (R340, R341, R344, R345, R348): its port's sequence and counters move and an
acknowledgement goes out, a flit like those of the packet (R339, R416), and then a
request that repeats an answered one gets that answer, and a new one joins those that wait and is served in turn; a response ends the
operation with its tag; a packet of another device goes on; a broken one is dropped and counted; while a replay
is awaited every other packet on its port is dropped. The form of the notice packet and that drop are the model's (assumptions 41 and
92). -/
def Obligations.PacketArrival : Prop :=
  ∀ (s : State) (p : Packet), s.fab.loopback.contains p = false → p.port.toNat < Config.nPorts → s.tables.fabid ≠ 0xFFFF →
    let n := p.port.toNat
    let s1 := s.arriveAt n p
    (∀ l, (s.port n).rxReplayOf = some l → l ≠ p.lseq → ∃ s', s'.fab.control = s.fab.control ∧ (s'.port n).rxSeq = (s.port n).rxSeq ∧
      FMap.getD s'.portCtr (6 * n + 1) 0 = (FMap.getD s.portCtr (6 * n + 1) 0 + p.flits) % 2 ^ 64 ∧
      ∀ i ∈ [Instr.packetForward p, .remoteRequest p, .remoteResponse p, .chunkReceive p, .chunkAck p, .noticeReceive p, .stripeRequest p,
        .heartbeatReceive p], exec i s = .next s') ∧
    ((s.port n).rxReplayOf = none ∨ (s.port n).rxReplayOf = some p.lseq →
    ((s1.port n).rxSeq = p.lseq + 1 ∧ (s1.port n).rxReplayOf = none ∧ s1.fab.control = s.fab.control ++ [(n, .ack p.lseq)] ∧
      FMap.getD s1.portCtr (6 * n + 1) 0 = (FMap.getD s.portCtr (6 * n + 1) 0 + p.flits) % 2 ^ 64 ∧
      FMap.getD s1.portCtr (6 * n) 0 = (FMap.getD s.portCtr (6 * n) 0 + 1) % 2 ^ 64 ∧
      ∀ j, j ≠ 6 * n → j ≠ 6 * n + 1 → FMap.getD s1.portCtr j 0 = FMap.getD s.portCtr j 0) ∧
    (p.sound = false → ∀ i ∈ [Instr.packetForward p, .remoteRequest p, .remoteResponse p, .chunkReceive p, .chunkAck p, .noticeReceive p,
      .stripeRequest p, .heartbeatReceive p], exec i s = .next (s1.portBump n 2 1)) ∧
    (p.sound = true → p.dstdev ≠ s.tables.fabid → exec (.packetForward p) s = .next (s1.forward p)) ∧
    (p.sound = true → p.dstdev = s.tables.fabid →
      (p.kind = kRequest → p.fcls.toNat < 2 →
        (∀ a, (s1.fab.answered.find? fun y => y.of p) = some a → exec (.remoteRequest p) s = .next (s1.sendPacket a.resp)) ∧
        ((∀ y ∈ s1.fab.answered, y.of p = false) → (p.fcls = 0 → (p.seq - s1.expected p).toNat < 2 ^ 23) →
          (∀ e ∈ s1.fab.reorder, ¬ (e.pkt.srcdev = p.srcdev ∧ e.pkt.srcctx = p.srcctx ∧ e.pkt.fcls = p.fcls ∧ e.pkt.seq = p.seq)) →
          exec (.remoteRequest p) s = .next (({ s1 with fab := { s1.fab with reorder := s1.fab.reorder ++ [⟨p, false, none⟩] } } : State).serveRequests
            (3 * (s1.fab.reorder.length + 1)))) ∧
        (∀ st v s2, (∀ y ∈ s1.fab.answered, y.of p = false) → s1.inTurn p = true → s1.fab.reorder = [] →
          ({ s1 with fab := { s1.fab with reorder := [⟨p, false, none⟩] } } : State).serve ⟨p, false, none⟩ = .answer st v s2 →
          exec (.remoteRequest p) s = .next (s2.answerRequest p st v))) ∧
      (p.kind = kResponse → p.fcls.toNat < 2 →
        exec (.remoteResponse p) s = .next (s1.endRemote p.tag.toNat (p.opcode.toNat % 256) p.opb.toNat)) ∧
      (p.kind = kNotice → (p.fcls = 3 → s.dev.featLock = true) → exec (.noticeReceive p) s =
        .next (({ s1 with fab := { s1.fab with reorder := s1.fab.reorder ++ [⟨p, false, none⟩] } } : State).serveRequests
          (3 * (s1.fab.reorder.length + 1)))) ∧
      (p.kind = kNotice → p.fcls = 3 → s.dev.featLock = true → s1.fab.reorder = [] → ∀ st v s2,
        ({ s1 with fab := { s1.fab with reorder := [⟨p, false, none⟩] } } : State).landNotice p = .answer st v s2 →
        exec (.noticeReceive p) s = .next (s2.endNotice p st))))

/-- What a request does at its target (R346, R349, R388): the lowest valid ingress entry under its key selects context and window, the leaf
must hold EXP and admit the access, and then the bytes at the home slice are read or written; a response carries the old value. A two-wide
atomic is performed half by half, a step each (R214): data of the state says which half goes first, the other follows, and the old halves make
the word that the response carries (assumption 76); another is performed whole. That a write is
performed there at once is the model's choice (assumption 7). -/
def Obligations.RequestService : Prop :=
  ∀ (s : State) (e : Arrived) (i : Ingress) (l : Leaf) (pa : Nat), s.ingressOf e.pkt.pkey = some i → e.pkt.size ≠ 0 →
    let p := e.pkt
    let va : Dword := i.exb + (p.offset.extractLsb' 0 38).setWidth 64
    let o := AtomOp.ofCodes p.aop p.tcode
    va.toNat % p.size = 0 → s.walkHeld i.ctx va = false → s.walk i.ctx va.toNat = .leaf l →
    ((pteExp l.entry = false ∨ leafAdmits l.entry p.accKind = false) → s.serve e = .answer stPerm 0 (s.walked i.ctx va)) ∧
    (pteExp l.entry = true → leafAdmits l.entry p.accKind = true → pteSnap l.entry = false → leafTgt l va.toNat = .dev pa →
      s.agentHeld (p.accKind != 0) pa p.size = false →
      let s0 := s.walked i.ctx va
      let old := leNat (s0.mem.readBytes pa p.size)
      let s1 := s0.l2Read pa p.size
      (p.oper = oWrite → s.serve e = .answer stOk 0 (s0.devWrite pa (leBytes p.size p.opb.toNat) [] false)) ∧
      (s0.mem.badOffsets pa p.size = [] →
        (p.oper = oRead → s.serve e = .answer stOk old s1) ∧
        (p.oper = oCas → s.serve e = .answer stOk old (if old = p.opb.toNat % 2 ^ (8 * p.size) then
          s1.devWrite pa (leBytes p.size p.opc.toNat) [] false else s1)) ∧
        (twoWide o = false → p.oper = oAtomic ∨ p.oper = oReduce → s.serve e = .answer stOk (if p.oper = oAtomic then old else 0)
          (s1.devWrite pa (leBytes p.size (atomNew o old (p.opb.toNat % 2 ^ (8 * p.size)))) [] false))) ∧
      (s0.mem.badOffsets pa p.size ≠ [] → (p.oper = oRead ∨ p.oper = oCas ∨ (p.oper = oAtomic ∨ p.oper = oReduce) ∧ twoWide o = false) →
        s.serve e = .answer stPoison 0 s1) ∧
      (twoWide o = true → p.oper = oAtomic ∨ p.oper = oReduce →
        ∀ k, k = (match e.half with | some d => 1 - d.1 | none => s.hiFirst.toNat) →
        let a := pa + 2 * k
        let half := leNat (s0.mem.readBytes a 2)
        let new := (s0.l2Read a 2).devWrite a (leBytes 2 (halfNew o half (p.opb.toNat / 2 ^ (16 * k) % 2 ^ 16))) [] false
        (s0.mem.badOffsets a 2 ≠ [] → s.serve e = .answer stPoison 0 (s0.l2Read a 2)) ∧
        (s0.mem.badOffsets a 2 = [] → e.half = none → s.serve e = .half k half new) ∧
        (∀ d, s0.mem.badOffsets a 2 = [] → e.half = some d → s.serve e =
          .answer stOk (if p.oper = oAtomic then (if k = 0 then half + 65536 * d.2 else d.2 + 65536 * half) else 0) new)))

/-- The end of a remote operation (R345, R349, R350). A request whose resend interval passes is sent again unchanged, while the egress entry
admits it and against the context's rate (R346). A response with OK lands the value of an operation in flight; that of an acquire operation
invalidates the L1 with it, that of another drops the line that it met. An error gives a late fault with its code, and one that times out fails
with ABSENT. A parked RLD goes on with the value in g[d], or takes the fault of its error or its timeout precisely, at the RLD. -/
def Obligations.RemoteCompletion : Prop :=
  ∀ (s : State) (tag : Word) (q : Pending) (th : Thread) (o : Op) (v : Nat), (s.fab.pending.find? fun y => y.tag == tag.toNat) = some q →
    (let ctx := q.pkt.srcctx.toNat
     (s.egressOk ctx q.pkt.dstdev = false → exec (.requestResend tag) s = .next s) ∧
     (s.egressOk ctx q.pkt.dstdev = true →
       (s.rateHolds ctx (64 * q.pkt.flits) = true ∨ (∃ e ∈ s.fab.rated, e.1 = ctx) →
         exec (.requestResend tag) s = .next { s with fab := { s.fab with rated := s.fab.rated ++ [(ctx, q.pkt)] } }) ∧
       (s.rateHolds ctx (64 * q.pkt.flits) = false → (∀ e ∈ s.fab.rated, e.1 ≠ ctx) →
         exec (.requestResend tag) s = .next ((s.charge ctx (64 * q.pkt.flits)).sendPacket q.pkt)))) ∧
    (s.thread? q.core q.slot = some th →
      (th.ops.find? fun o => match o.kind with | .remote g _ _ _ => g == tag.toNat | _ => false) = some o →
      let s1 := { s with fab := { s.fab with pending := s.fab.pending.filter fun x => x.tag != tag.toNat } }
      let met : State := if o.kind.acquire then s1.l1Invalidate q.core else s1.dropMet q.core o.kind.place
      let fails (code : Nat) : State :=
        if th.status = .parked (.rld tag.toNat) then
          ((s1.setThread q.core q.slot { th.retire o with status := .ready }).takeFault q.core q.slot (Flt.acc code o.acc) th.wsite).after
            q.core [q.slot]
        else (s1.setThread q.core q.slot (th.failOp o code 0)).after q.core [q.slot]
      (th.status ≠ .parked (.rld tag.toNat) →
        s.endRemote tag.toNat stOk v = (met.setThread q.core q.slot (th.finishOp o (some v))).after q.core [q.slot]) ∧
      (∀ g d ty ord place, th.status = .parked (.rld tag.toNat) → o.kind = .remote g (some (d, ty)) ord place →
        s.endRemote tag.toNat stOk v =
          ((met.setThread q.core q.slot ((th.retire o).setInt ty (BitVec.ofNat 8 d) v)).wake q.core q.slot).after q.core [q.slot]) ∧
      (∀ st code, (st, code) ∈ [(stPerm, fXlatePerm), (stAbsent, fXlateAbsent), (stPoison, fDataPoison)] →
        s.endRemote tag.toNat st v = fails code) ∧
      (s.fab.plan = none → exec (.requestTimeout tag) s = .next (fails fXlateAbsent)))

/-- Links (R338, R341, R342, R365): a port trains, loses its link, and is detected down and reported once; an acknowledgement retires packets
up to one; a receiver asks for a replay in a control flit; a replay sends everything from a packet on again, and one after eight in a row of the
same packet loses the link; buffer limits follow
the announcement; every control flit is counted at the port that sends it and at the one that takes it in (R416). That training sends a LINK_UP notice is the model's reading (assumption 42). -/
def Obligations.LinkEvents : Prop :=
  ∀ (s : State) (n : Nat), n < Config.nPorts →
    let x := s.port n
    let counts (s : State) (k : Nat) : Nat := FMap.getD s.portCtr (6 * n + k) 0
    (∀ fast, x.trained = false → s.dev.links = true → exec (.linkTrain ⟨n, fast⟩) s =
      .next (((s.setPort n { Port.reset with trained := true, fast := fast, lost := x.lost }).notice nLinkUp n 0 0).flushHeld)) ∧
    (x.trained = true → exec (.linkLoss n) s = .next (s.setPort n { Port.reset with lost := true })) ∧
    (x.lost = true → ∃ s1 : State, exec (.belfryLinkDetect n) s = .next ((s1.notice nLinkDown n 0 0).flushHeld) ∧
      s1.tables.portDown = s.tables.portDown ||| (1 : BitVec 36) <<< n ∧ s1.dev.errStat = s.dev.errStat ||| 0x20 ∧ (s1.port n).lost = false) ∧
    (∀ lseq, exec (.linkAck n lseq) s = .next (((s.setPort n (x.ack lseq).applyLimits).portBump n 1 1).flushHeld)) ∧
    (∀ lseq i, (x.unacked.findIdx? fun p => p.lseq == lseq) = some i → (x.ack lseq).unacked = x.unacked.drop (i + 1)) ∧
    (∀ lseq, x.trained = true → x.replayOf = some lseq → 7 ≤ x.replays →
      exec (.linkReplay n lseq true) s = .next ((s.setPort n { Port.reset with lost := true }).portBump n 1 1)) ∧
    (∀ lseq i, x.trained = true → (x.replayOf = some lseq → x.replays < 7) → (x.unacked.findIdx? fun p => p.lseq == lseq) = some i →
      ∃ s', exec (.linkReplay n lseq true) s = .next s' ∧ s'.fab.outbox = s.fab.outbox ++ x.unacked.drop i ∧
        counts s' 1 = (counts s 1 + 1) % 2 ^ 64) ∧
    (∀ lseq, x.trained = true → lseq = x.rxSeq → (x.rxReplayOf = some lseq → x.rxReplays < 7) →
      ∃ s', exec (.linkReplay n lseq false) s = .next s' ∧ s'.fab.control = s.fab.control ++ [(n, .replay lseq)] ∧
        (s'.port n).rxReplayOf = some lseq ∧ counts s' 0 = (counts s 0 + 1) % 2 ^ 64) ∧
    (∀ u0 u1 u2, x.trained = true → x.rxFlits = [u0, u1, u2] → ∃ s', exec (.lendInterval n u0 u1 u2) s = .next s' ∧ (s'.port n).rxEpoch = x.rxEpoch + 1 ∧
      (s'.port n).rxFlits = [0, 0, 0] ∧ s'.fab.control = s.fab.control ++ [(n, .lend (x.rxEpoch + 1) (s'.port n).annc)] ∧
      (s'.port n).annc.length = 3 ∧ (s'.port n).annc.sum = 496 ∧ (∀ l ∈ (s'.port n).annc, 32 ≤ l) ∧ counts s' 0 = (counts s 0 + 1) % 2 ^ 64 ∧
      ∀ c, 0 < c → c < 3 → x.rxFlits.sum ≠ 0 →
        (s'.port n).annc.getD c 0 = 32 + 400 * x.rxFlits.getD c 0 / x.rxFlits.sum) ∧
    (∀ epoch l0 l1 l2, x.trained = true → let d := (epoch - x.txEpoch).toNat
      (d = 0 ∨ 2 ^ 15 ≤ d → exec (.lendAnnouncement n epoch l0 l1 l2) s = .next (s.portBump n 1 1)) ∧
      (0 < d → d < 2 ^ 15 → exec (.lendAnnouncement n epoch l0 l1 l2) s = .next
        (((s.portBump n 1 1).setPort n ({ x with txEpoch := epoch, target := [l0.toNat, l1.toNat, l2.toNat] } : Port).applyLimits).flushHeld)))

/-! ## Collectives -/

/-- COLL and MFENCE complete (R354, R363, R364): a collective's status lands, or it waits while a fence is pending or an engine owns a
line it reads; MFENCE answers at once unless the generation named is the pending one. COLL_FIRE reads SRC once its tokens are taken;
COLL_COMPLETION writes what is left of DST, of which aligned 8-byte parts may have gone ahead (R228; assumption 75), and emits OUTTOK. Chunks (R357, R362): a piece of one that is expected is staged once, and the chunk is
acknowledged when it is whole; one whose key selects no context or whose generation differs is dropped and counted; one that a finished
operation expects is acknowledged again; an acknowledgement marks the chunk; an unacknowledged chunk is sent again. The membership fence
notes its deadline, and swaps the banks when nothing of the old generation is left (R363). From when a collective owns its lines, and what
its firing waits for, is the model's reading (assumptions 26, 47), as are the chunk packets and the layouts between phases (assumptions 12, 13); a collective that R355 gives no shard writes free values (assumption
81). -/
def Obligations.CollectivesAndFences : Prop :=
  (∀ (s : State) (c t : Nat) (th : Thread) (fl : Option Nat),
     (∀ x : CollArgs, Runs s c t th x.h.g → FlagOf s c th x.h fl → regsOk th [sp1 x.d, sp2 x.a] = true → s.lacksFeature 7 = false →
       th.role = .general →
       let a := th.pair x.a.toNat
       let acc : Acc := { space := .glb, scope := .dev, ea := a, size := 6, kind := 0 }
       let toks := [x.t0, x.t1, x.t2, x.t3]
       a.toNat % 64 = 0 →
       (s.fab.fence.isSome = true → exec (.coll x) s = .next (s.issueOp c t th fl (.collWait x.d.toNat a toks none) acc)) ∧
       (s.fab.fence = none → ∀ v s1, s.acceptColl c t th s.uid a ((toks.filter (· != 0xFFFF)).map BitVec.toNat) = .status v s1 →
         exec (.coll x) s = .next (s1.issueOp c t th fl (s1.collKind s.uid fl x.d.toNat v) acc)) ∧
       (s.fab.fence = none → ∀ s1, s.acceptColl c t th s.uid a ((toks.filter (· != 0xFFFF)).map BitVec.toNat) = .wait s1 →
         exec (.coll x) s = .next ((s.withRecalls s1).issueOp c t th fl (.collWait x.d.toNat a toks none) acc))) ∧
     (∀ x : MfenceArgs, Runs s c t th x.g → regsOk th [sp1 x.a] = true → s.lacksFeature 7 = false → th.role = .general →
       let v := (th.reg x.a.toNat).extractLsb' 0 16
       (v = s.tables.gen → exec (.mfence x) s = .next (s.setThread c t (th.setPred x.pd.toNat true))) ∧
       (v ≠ s.tables.gen → v ≠ s.tables.genPend → exec (.mfence x) s = .next (s.setThread c t (th.setPred x.pd.toNat false))) ∧
       (v ≠ s.tables.gen → v = s.tables.genPend → exec (.mfence x) s = .next
         ((s.setThread c t { th with wsite := s.site c th, status := .blocked (.mfence x.pd.toNat) }).startFence none))) ∧
     (∀ k o bs bad s1, s.coll? k = some o → o.fired = false → o.stalled = none → s.canFire o = true → s.runs o.ctx = true →
       s.readFor (engineSkip o.opId) o.ctx o.desc.src o.srcLen = .ok (bs, bad, s1) →
       exec (.collFire k) s = .next ((s1.setColl k
         ({ o with fired := true, data := bs.mapIdx fun i b => (b, bad.contains i) } : Coll).begin).pumpColl k)) ∧
     (∀ k o s1, (s.pumpColl k).coll? k = some o → o.ready = true → o.finished = false → o.stalled = none → (s.pumpColl k).runs o.ctx = true →
       let s0 := s.pumpColl k
       let data : List (Byte × Bool) :=
         if o.desc.moved then (List.range o.dstLen).map fun i => (Config.freeByte (s0.fresh + i), false) else o.data.take o.dstLen
       (o.parts = [] → s0.writeFor (engineSkip o.opId) o.ctx o.desc.dst (data.map Prod.fst)
         ((List.range data.length).filter fun i => ((data[i]?).map Prod.snd).getD false) false = .ok s1) →
       (o.parts ≠ [] → s0.collWrite o data = .ok s1) →
       exec (.collCompletion k) s = .next (
         let s2 := { s1 with fresh := s1.fresh + o.dstLen }.setColl k { o with finished := true, data := [], got := [] }
         ((if o.desc.outtok = 0xFFFF then s2 else s2.tokenAdd o.ctx o.desc.outtok).collClear k o true).reapColl k))) ∧
  ((∀ (s : State) (p : Packet), s.fab.loopback.contains p = false → p.port.toNat < Config.nPorts → s.tables.fabid ≠ 0xFFFF → p.sound = true →
     p.dstdev = s.tables.fabid →
     let n := p.port.toNat
     (s.port n).rxReplayOf = none ∨ (s.port n).rxReplayOf = some p.lseq →
     let s1 := s.arriveAt n p
     (p.kind = kChunk → p.fcls ≠ 3 → (s.ingressOf p.pkey = none → exec (.chunkReceive p) s = .next (s1.portBump n 2 1)) ∧
       ∀ e, s.ingressOf p.pkey = some e → (p.gen ≠ s.tables.gen → exec (.chunkReceive p) s = .next (s1.portBump n 3 1)) ∧
         ∀ k o, p.gen = s.tables.gen → s1.collOf e.ctx p = some (k, o) → o.finished = true →
           (o.expects (idPhase p.chunk.toNat)).any (fun x => x.1 == p.srcdev && x.2.1 == p.chunk.toNat) = true →
           exec (.chunkReceive p) s = .next (s1.ackChunk e.ctx p)) ∧
     (p.kind = kChunk → p.fcls ≠ 3 → ∀ e k o len, s.ingressOf p.pkey = some e → p.gen = s.tables.gen → s1.collOf e.ctx p = some (k, o) →
       let id := p.chunk.toNat
       let off := p.offset.toNat
       ((o.expects (idPhase id)).find? fun x => x.1 == p.srcdev && x.2.1 == id) = some (p.srcdev, id, len) → o.finished = false →
       o.phase ≤ idPhase id → off % 512 = 0 → off < len → (∀ g ∈ o.got, ¬ (g.dev = p.srcdev ∧ g.id = id ∧ g.off = off)) →
       let o1 : Coll := { o with got := o.got ++ [⟨p.srcdev, id, off, pieceOf p (min 512 (len - off))⟩] }
       (o1.whole p.srcdev id len = none → exec (.chunkReceive p) s = .next (s1.setColl k o1)) ∧
       ((o1.whole p.srcdev id len).isSome = true →
         exec (.chunkReceive p) s = .next (((s1.setColl k o1).ackChunk e.ctx p).pumpColl k))) ∧
     (p.kind = kResponse → p.fcls = 2 → ∀ e k o, s.ingressOf p.pkey = some e → p.gen = s.tables.gen → s1.collOf e.ctx p = some (k, o) →
       exec (.chunkAck p) s = .next (((s1.setColl k { o with
         sent := o.sent.map fun x => if x.dev == p.srcdev && x.id == p.chunk.toNat then { x with acked := true } else x }).sendChunks
           k (o.unsent.length + 1)).reapColl k))) ∧
   (∀ (s : State) (k i : Nat) (o : Coll) (x : SentChunk), s.coll? k = some o → o.sent[i]? = some x → x.acked = false → s.runs o.ctx = true →
     s.egressOk o.ctx x.dev = true → s.rateHolds o.ctx (chunkCost x) = false → exec (.chunkResend k i) s = .next (s.sendChunk o x)) ∧
   (∀ (s : State) (f : MFence), s.fab.fence = some f →
     (∃ s', exec .fenceAbortDeadline s = .next s' ∧ s'.fab.fence = some { f with deadline := true }) ∧
     (s.fab.colls.all (fun e => e.2.finished) = true →
       let t1 : Tables := ({ s.tables with rankAct := s.tables.rankPend, gen := s.tables.genPend } : Tables).release
       let s1 : State := { s with tables := t1, fab := { s.fab with fence := none, colls := [] } }
       t1.rankAct = s.tables.rankPend ∧ t1.gen = s.tables.genPend ∧ t1.held = [] ∧
       let s2 := s1.cores.foldl (fun z e => e.2.threads.foldl (fun z t => match t.2.status with
         | .blocked (.mfence pd) => (z.mapThread e.1 t.1 fun th => th.setPred pd true).wake e.1 t.1
         | _ => z) z) s1
       exec .bankSwap s = .next ((s2.cores.foldl (fun z e =>
         e.2.threads.foldl (fun z t => t.2.ops.foldl (fun z o => z.retryAt e.1 t.1 o.uid) z) z) s2).mapSaved
           fun v => { v with threads := v.threads.map fun t => (t.1, t.2.1, t.2.2.fenceOver) }))) ∧
   (∀ (s : State) (ctx : Nat), ∃ s', exec (.egressRateRelease ctx) s = .next s' ∧
     (s.fab.colls = [] → s' = s.rateFree ctx ∧ ((∀ e ∈ s.fab.rated, e.1 ≠ ctx) → (s'.ctx ctx).sentBytes = 0))))


/-! ## System family -/

/-- The system instructions complete (R298, R301 to R306, R415): TRAP and BKPT enter the context's handler for their code, or escalate; HRET
leaves handler mode for FPC and HRET.skip for the start of the instruction after it; PRECK notes its request with the pages of its slot
translated; SRD and SWR move the registers of R100, FINFO in the fields that it has after an access fault; FLTR and FLTR.pg drop the
core's translations of the context; ESCL escalates with the
code in FCAUSE, recorded unless another thread is, and before one of a higher slot in the same cycle (R105); CYCR and PERFR read the core's counters.
An HRET whose clause cannot be fetched yet parks at a replayable miss and is offered again where an engine owns the line (R237, R379), and a
fault whose vector an engine owns waits for it. What HRET does with an FHDR that is no header and the bits that SWR keeps of FCAUSE and FINFO are the
model's readings (assumptions 31 and 32), and so are where a thread waits for a vector and a PRECK in a handler (assumptions 67 and 113). -/
def Obligations.SystemInstructions : Prop :=
  ∀ (s : State) (c t : Nat) (th : Thread),
    (∀ (x : TrapArgs), Runs s c t th x.g →
      let raises (i : Instr) (code : Nat) : Prop := ∃ s', exec i s = .next s' ∧
        let at_ := s.site c th
        let v := s.vector th.ctx code
        let held := s.lineHeld noSkip (s.vectorAddr th.ctx code) 8
        (th.hm = false → held = false → v.2 = false → v.1 ≠ 0 → ∃ th', s'.thread? c t = some th' ∧ th'.hm = true ∧ th'.pc = v.1 ∧ th'.status = .ready ∧
          th'.fpc = at_.pc ∧ th'.fhdr = at_.hdr ∧ th'.faddr = 0 ∧ th'.finfo = x.code.setWidth 32 ∧
          th'.fcause = BitVec.ofNat 32 (at_.index % 32 * 2 ^ 16 + at_.clause.toNat * 2 ^ 10 + at_.len.toNat * 2 ^ 8 + code)) ∧
        (th.hm = false → held = true →
          s'.thread? c t = some { th with status := .parked (.vector code 0 (x.code.setWidth 32) at_) }) ∧
        (th.hm = true ∨ held = false ∧ (v.2 = true ∨ v.1 = 0) → s'.thread? c t = some { th.standAt at_ with status := .escalated, crun := none } ∧
          (s'.ctx th.ctx).fault.valid = true)
      th.status ≠ .exited → raises (.trap x) 0x0B ∧ raises (.bkpt x) 0x0C) ∧
    (∀ x : Bare, Runs s c t th x.g → th.hm = true →
      let waits (i : Instr) (e : FetchErr) : Prop :=
        (∀ va entry, e = .replay va entry → exec i s = .next (s.parkMiss c t th va 3 entry (s.site c th))) ∧
        (∀ ps, e = .held ps → exec i s = .next (ps.foldl (fun z p => z.noteRecall noSkip p.1 p.2) s).stall)
      let stands (i : Instr) (pc : Dword) : Prop :=
        (∀ j, s.resumeIndex c th.ctx th.fhdr pc = .ok j →
          exec i s = .next (s.setThread c t { th with hm := false, pc := pc, gap := false, res := j.map fun j => (th.fhdr, j) })) ∧
        (∀ e, s.resumeIndex c th.ctx th.fhdr pc = .error e → waits i e)
      let e : Dword := th.fpc + 4 * ((th.fcause.extractLsb' 8 2).setWidth 64 + 1)
      stands (.hret x) th.fpc ∧
      (th.fcause.getLsbD 10 = false → th.fcause.extractLsb' 8 2 ≠ 0 →
        (∀ n, s.countAt c th.ctx th.fhdr = .ok n → stands (.hretSkip x) (
          if (th.fcause.extractLsb' 16 5).toNat + 1 = n then (e + 7) &&& ~~~7
          else if e.toNat % 32 = 28 then e + 4 else e)) ∧
        (∀ e, s.countAt c th.ctx th.fhdr = .error e → waits (.hretSkip x) e)) ∧
      let f := (s.ctx th.ctx).fault
      let now := (s.core c).cycle
      ∃ s', exec (.escl x) s = .next s' ∧
        let new (more : Bool) : CtxFault := { valid := true, more := more, nested := false, code := th.fcause.toNat % 256, slot := t, core := c,
                                              addr := th.faddr, cycle := now }
        (s'.ctx th.ctx).fault =
          (if f.valid = false then new false else if f.core = c ∧ f.cycle = now ∧ t < f.slot then new true else { f with more := true })) ∧
    (∀ (x : Bare) (pages : List (Nat × Tgt)), Runs s c t th x.g → s.lacksFeature 4 = false →
      let slot := th.ckSlot (th.ckCount.toNat + 1)
      s.ckTranslate th slot 0 ((128 + 4 * th.nregs) / 8) [] = .ok pages →
      exec (.preck x) s = .next ((pages.foldl (fun z p => z.tlbFill c th.ctx (th.prvBase + BitVec.ofInt 64 (slot + p.1))) s).setThread c t 
        { th with preck := { hm := th.hm, count := th.ckCount.toNat + 1, due := false, pages := pages } :: th.preck.filter fun k => k.hm != th.hm })) ∧
    (∀ x : SrArgs, Runs s c t th x.g →
      (th.hm = true ∨ x.r ∈ [SysReg.thstat, .csp, .cslo, .cshi] → regsOk th [(x.x.toNat, if x.r ∈ [SysReg.thstat, .fcause, .finfo] then 1 else 2)] = true →
        let y := s.ctx th.ctx
        let word (v : Word) : Prop := exec (.srd x) s = .next (s.setThread c t (th.setReg x.x.toNat v))
        let pair (v : Dword) : Prop := exec (.srd x) s = .next (s.setThread c t (th.setPair x.x.toNat v))
        match x.r with
        | .thstat => word (BitVec.ofNat 32 (th.hm.toNat + 2 * y.det.toNat + 4 * y.policy.toNat + 8 * th.nofair.toNat))
        | .fcause => word th.fcause | .finfo => word th.finfo | .fpc => pair th.fpc | .fhdr => pair th.fhdr | .faddr => pair th.faddr
        | .hscratch0 => pair th.hs0 | .hscratch1 => pair th.hs1 | .csp => pair th.csp | .cslo => pair th.cslo | .cshi => pair th.cshi) ∧
      (x.r ∉ [SysReg.thstat, .csp, .cslo, .cshi] → th.hm = true → regsOk th [(x.x.toNat, if x.r ∈ [SysReg.fcause, .finfo] then 1 else 2)] = true →
        let w := th.reg x.x.toNat
        let v := th.pair x.x.toNat
        ∃ info : Word, exec (.swr x) s = .next (s.setThread c t (match x.r with
          | .fcause => { th with fcause := w &&& 0x001F07FF } | .finfo => { th with finfo := info } | .fpc => { th with fpc := v }
          | .fhdr => { th with fhdr := v } | .faddr => { th with faddr := v } | .hscratch0 => { th with hs0 := v }
          | .hscratch1 => { th with hs1 := v } | .thstat | .csp | .cslo | .cshi => th)) ∧
        info &&& 0xFFF = w &&& 0xFFF ∧
        (th.fcause.toNat % 256 ∈ [0x07, 0x08, 0x09, 0x11, 0x12, 0x18, 0x19, 0x1A] → info = w &&& 0xFFF))) ∧
    (∀ x : Bare, Runs s c t th x.g → ∃ s', exec (.fltr x) s = .next s' ∧ s' = { s with tlb := s'.tlb } ∧
      ∀ e, e ∈ s'.tlb ↔ e ∈ s.tlb ∧ ¬ (e.core = c ∧ e.ctx = th.ctx)) ∧
    (∀ x : AArgs, Runs s c t th x.g → regsOk th [sp2 x.a] = true → ∃ s', exec (.fltrPg x) s = .next s' ∧ s' = { s with tlb := s'.tlb } ∧
      ∀ e, e ∈ s'.tlb ↔ e ∈ s.tlb ∧ ¬ (e.core = c ∧ e.ctx = th.ctx ∧ e.page = (th.pair x.a.toNat).toNat / (if e.big then 2 ^ 29 else 65536))) ∧
    (∀ x : DArgs, Runs s c t th x.g → regsOk th [sp2 x.d] = true →
      exec (.cycr x) s = .next (s.setThread c t (th.setPair x.d.toNat (BitVec.ofNat 64 (s.core c).cycle)))) ∧
    (∀ x : PerfrArgs, Runs s c t th x.g → regsOk th [sp2 x.d] = true → x.n.toNat ≤ 9 →
      exec (.perfr x) s = .next (s.setThread c t (th.setPair x.d.toNat
        (BitVec.ofNat 64 (if x.n = 0 then (s.core c).cycle else FMap.getD (s.core c).perf x.n.toNat 0)))))

/-! ## Threads, walks, launches and blocks -/

/-- The events of threads and translations complete (R148, R194, R212, R222, R290, R295, R410): a core cycle counts and forms gangs: a
free slot takes threads at the header or resume point of R290's choice, one for each home lane, as many as the room of the engine queues
admits (R245), and a ready thread alone on a core is in a gang at its header; a late fault reaches the thread where it stands, and a fault that waits for its vector is taken; a pause ends when its count has run out; a bound
copy moves its bytes, and the record of the barrier that it is bound to takes the arrival and then its sector (R404); a receipt-guarded
reduction applies once, answers a duplicate without applying it, and waits when its slice's receipts are full, a two-wide one half by half
(R214; assumption 76); a walk that finds its entry lets its agent go on; a page under a snapshot for which an access waits is copied to a frame of
the pool and its entry diverted once no engine owns a line of either, or waits for a frame. The slice of a receipt for a host page is the model's choice (assumption 77). -/
def Obligations.ThreadEvents : Prop :=
  ∀ s : State,
    (∀ c, c < Config.nCores → (s.core c).grant = [] → (s.core c).powered = true → ∃ s', exec (.gangPick c) s = .next s' ∧
      (s'.core c).cycle = ((s.core c).cycle + 1) % 2 ^ 64 ∧
      (∀ k g, FMap.find? (s.core c).gangs k = none → FMap.find? (s'.core c).gangs k = some g → g.todo = g.members ∧ g.index = g.start) ∧
      (((s.core c).threads.map Prod.fst).Pairwise (· < ·) → (s.core c).halt = false → FMap.find? (s.core c).gangs 0 = none →
        ∀ g, FMap.find? ((s.pick c 0).core c).gangs 0 = some g → FMap.find? (s'.core c).gangs 0 = some g) ∧
      (∀ t th h cl s1, (s.core c).threads = [(t, th)] → (s.core c).halt = false → (s.core c).gangs = [] → t ∉ (s.core c).woken →
        th.status = .ready → th.halted = false → th.late = [] → th.preck = [] → th.ops = [] → th.crun = none → th.res = none → th.gap = false →
        (∀ i < 12, th.flagCount i = 0) → s.clauseAt c th.ctx th.pc = .ok h cl s1 →
        (let n := entriesOf cl.starts th.pc cl.words
         n.1 + (s.core c).mq.length ≤ Config.queueEntries ∧ n.2 + (s.core c).vq.length ≤ Config.queueEntries) →
        ∃ g, FMap.find? (s'.core c).gangs 0 = some g ∧ g.hdrAddr = th.pc ∧ g.start = 0 ∧ g.members = [t] ∧ g.words = cl.words ∧
          (s'.thread? c t).map Thread.status = some (.running 0))) ∧
    (∀ c k, k < 2 → c < Config.nCores → FMap.find? (s.core c).gangs k = none → ((s.core c).threads.map Prod.fst).Pairwise (· < ·) →
      let other := (FMap.find? (s.core c).gangs (1 - k)).map fun g => (g.hdrAddr, g.start)
      let cands := (s.readyThreads c).filter fun e => some e.2.place ≠ other && !(s.core c).woken.contains e.1
      let due := cands.filter fun e => e.2.due
      let lanes (p : Dword × Nat) : Nat := ((cands.filter fun e => e.2.place == p).map fun e => e.2.lane).eraseDups.length
      cands ≠ [] → (∀ e ∈ cands, e.2.gap = false ∧ ∃ h cl s1, s.clauseAt c e.2.ctx e.2.place.1 = .ok h cl s1) →
      ∃ g lead h cl s1, FMap.find? ((s.pick c k).core c).gangs k = some g ∧ lead ∈ cands ∧ lead.1 ∈ g.members ∧
        let at_ := cands.filter fun e => e.2.place == lead.2.place
        (g.hdrAddr, g.start) = lead.2.place ∧ g.todo = g.members ∧ (∀ e ∈ at_, e.2.w ≤ lead.2.w) ∧
        s.clauseAt c lead.2.ctx g.hdrAddr = .ok h cl s1 ∧ g.words = cl.words ∧
        (∀ u ∈ g.members, ∃ e ∈ at_, e.1 = u ∧ ∀ f ∈ at_, f.2.lane = e.2.lane → f.2.w < e.2.w ∨ (f.2.w = e.2.w ∧ e.1 ≤ f.1)) ∧
        g.members.Nodup ∧
        (due ≠ [] → ∃ e ∈ due, e ∈ at_ ∧ ∀ f ∈ due, f.2.w < e.2.w ∨ (f.2.w = e.2.w ∧ e.1 ≤ f.1)) ∧
        (due = [] →
          let stays (p : Dword × Nat) : Prop := FMap.getD (s.core c).lastUnfair k false = true ∧ FMap.find? (s.core c).stay k = some p ∧
            ∃ e ∈ cands, e.2.place = p
          (∀ p, stays p → lead.2.place = p) ∧ ((∀ p, ¬ stays p) → ∀ p, lanes p ≤ lanes lead.2.place)) ∧
        let n := entriesOf cl.starts g.hdrAddr cl.words
        let most (need room : Nat) : Nat := if need = 0 then lanes lead.2.place else room / need
        g.members.length = (if hdrSolo h then 1
          else min (lanes lead.2.place) (min (most n.1 (s.core c).room.1) (most n.2 (s.core c).room.2))) ∧
        (hdrSolo h = false → ∀ e ∈ at_, (∀ f ∈ at_, f.1 ∈ g.members → f.2.lane ≠ e.2.lane) →
          ∀ f ∈ at_, f.1 ∈ g.members → f.1 ≠ lead.1 → f.2.lane < e.2.lane)) ∧
    (∀ c t th, s.thread? c t = some th →
      (∀ f fs, th.late = f :: fs →
        let at_ : Site := { pc := th.pc, hdr := (th.res.map Prod.fst).getD th.pc, index := 0, len := 0, clause := false }
        let why : Flt := { code := f.code, faddr := f.acc.ea, finfo := f.acc.info }
        (th.status = .ready → th.halted = false → (s.core c).halt = false →
          exec (.deferredFaultDelivery c t) s = .next ((s.setThread c t { th with late := fs }).takeFault c t why at_)) ∧
        (th.status = .exited → exec (.deferredFaultDelivery c t) s = .next
          ((s.setThread c t { th with late := fs }).escalate c t { th with late := fs } false why at_))) ∧
      (∀ code a i at_, th.late = [] → th.status = .parked (.vector code a i at_) →
        exec (.deferredFaultDelivery c t) s = .next (s.takeFault c t { code := code, faddr := a, finfo := i } at_)) ∧
      (∀ till y, th.status = .paused till y → th.halted = false → till ≤ (s.core c).cycle →
        exec (if y then .yieldPauseExpiry c t else .pauseExpiry c t) s = .next (s.setThread c t { th with status := .ready })) ∧
      (∀ u o p src dst n sc a k, n ∈ [4, 8, 16] → th.ops = [o, p] → o.uid = u → p.uid ≠ u → o.kind = .copy src dst n sc [] false →
        p.kind = .act (.tbarv a) → th.preck = [] → s.block? th.bid = some k →
        (k.binds.filter fun x => x.copies.any fun e => e.1 == u) = [⟨a, [(u, sectorOf dst)]⟩] → s.copyReady c t th o = true →
        let read (z : State) (j : Nat) := z.readHome c th.bid (src.add (8 * j)) (min 8 (n - 8 * j))
        let part (z : State) (j : Nat) : State := (read z j).2.2.writeHome c th.bid (dst.add (8 * j)) (read z j).1 (read z j).2.1
        let w := if n = 16 then part (part s 0) 1 else part s 0
        let bad := (read s 0).2.1 ≠ [] ∨ n = 16 ∧ (read (part s 0) 1).2.1 ≠ []
        let r := (w.tbar th.bid a).arrive 1
        let record := leBytes 16 ({ r with err := r.err || decide bad } : TBar).sectorDone.bits
        ∃ s', exec (.boundCopyCompletion c t u) s = .next s' ∧ s'.mem = w.mem ∧ s'.hostMem = w.hostMem ∧
          (∀ b half sp i, bufferByte s' b half sp i =
            if b = th.bid ∧ sp = .loc ∧ a ≤ i ∧ i < a + 16 then some (record.getD (i - a) 0) else bufferByte w b half sp i) ∧
          (s'.thread? c t).map Thread.ops = some [] ∧ ∀ b, s'.block? th.bid = some b → ∀ x ∈ b.binds, ∀ e ∈ x.copies, e.1 ≠ u) ∧
      (∀ u o p op v tag rel half, th.ops.find? (fun y => y.uid == u) = some o → o.kind = .redt p op v tag rel half → s.eligible c t th o = true →
        let sl := sliceOf (tgtAddr p)
        let mine : Receipt := { tag := tag, launch := s.launchNumber th.bid }
        let rs := s.receiptsAt sl th.ctx
        let noted (z : State) : State := { z with tables := { z.tables with redtWait := z.tables.redtWait.erase u } }
        let entered (z : State) : State := { z with tables := { z.tables with receipts := FMap.put z.tables.receipts (64 * sl + th.ctx) (mine :: rs) } }
        let k0 := s.hiFirst.toNat
        (half = none → rs.contains mine = true →
          exec (.redtApply c t u) s = .next (((s.sliceBump sl 3 1).mapThread c t fun x => x.retire o).after c [t])) ∧
        (half = none → rs.contains mine = false → Config.receiptsPer ≤ rs.length → u ∉ s.tables.redtWait →
          exec (.redtApply c t u) s = .next { s.sliceBump sl 4 1 with tables := { s.tables with redtWait := u :: s.tables.redtWait } }) ∧
        (half = none → twoWide op = false → rs.contains mine = false → rs.length < Config.receiptsPer →
          ∀ bs s1, s.readTgt c th.bid p (op.n / 8) true = (bs, [], s1) →
          let s2 := entered (s1.writeTgt c th.bid p (leBytes (op.n / 8) (atomNew op (leNat bs) v.toNat)) [])
          exec (.redtApply c t u) s = .next (noted ((s2.mapThread c t fun x => x.finishOp o none).after c [t]))) ∧
        (half = none → twoWide op = true → rs.contains mine = false → rs.length < Config.receiptsPer →
          ∀ bs s1, s.readTgt c th.bid (p.add (2 * k0)) 2 true = (bs, [], s1) →
          let s2 := entered (s1.writeTgt c th.bid (p.add (2 * k0)) (leBytes 2 (halfNew op (leNat bs) (v.toNat / 65536 ^ k0 % 65536))) [])
          exec (.redtApply c t u) s = .next (noted (s2.mapThread c t fun x => x.mapOp o.uid (OpKind.setHalf k0)))) ∧
        (∀ k, half = some k → let k1 := 1 - k
          ∀ bs s1, s.readTgt c th.bid (p.add (2 * k1)) 2 true = (bs, [], s1) →
          exec (.redtApply c t u) s = .next (((s1.writeTgt c th.bid (p.add (2 * k1)) (leBytes 2 (halfNew op (leNat bs) (v.toNat / 65536 ^ k1 % 65536)))
            []).mapThread c t fun x => x.finishOp o none).after c [t]))) ∧
      (∀ va e, th.status = .parked (.xlate va e) →
        (s.walkHeld th.ctx va = true → exec (.replayWalk (.thread c t)) s = .next s) ∧
        (s.walkHeld th.ctx va = false → s.missing th.ctx va = true → exec (.replayWalk (.thread c t)) s = .next (s.walked th.ctx va)) ∧
        (s.missing th.ctx va = false → exec (.replayWalk (.thread c t)) s = .next ((s.walked th.ctx va).setThread c t
          { th with status := if (s.core c).cycle < th.yieldTill then .paused th.yieldTill true else .ready })))) ∧
    (∀ l k va, (s.stream l k).stalled = some va → s.missing (s.stream l k).ctx va = false →
      exec (.replayWalk (.stream l k)) s = .next ((s.walked (s.stream l k).ctx va).setStream l k { s.stream l k with stalled := none })) ∧
    (∀ q ctx va, (s.lq q).missed = some (ctx, va) → s.missing ctx va = false →
      exec (.replayWalk (.queue q)) s = .next ((s.walked ctx va).setLq q { s.lq q with missed := none })) ∧
    (∀ k o va, s.coll? k = some o → o.stalled = some va → s.missing o.ctx va = false →
      exec (.replayWalk (.coll k)) s = .next ((s.walked o.ctx va).setColl k { o with stalled := none })) ∧
    (∀ ctx va l d, (s.tables.diverts.find? fun d => d.ctx == ctx && d.page == va.toNat / 65536) = some d → s.walk ctx va.toNat = .leaf l →
      l.page = true → pteSnap l.entry = true → pteDiv l.entry = 0 → s.walkHeld ctx va = false → s.agentHeld true l.addr 8 = false →
      s.agentHeld true poolPa 64 = false → s.agentHeld false (poolPa + 0x4000) 0x4000 = false → s.fab.reorder = [] → s.fab.plan = none →
      let push := s.pool 0 8
      let s0 := (s.walked ctx va).poolRead
      (s.poolTake push 4097 (s.pool 8 8) = none → ∃ s', exec (.pageDiversion ctx va) s = .next s' ∧
        s'.mem = (s0.putWord (poolPa + 8) 8 push).mem ∧
        (d.asked = false → s'.sent.replays = s.sent.replays ++ [{ lantern := d.lantern, pool := true, kind := d.kind, ctx := d.ctx,
                                                                    va := BitVec.ofNat 64 (65536 * d.page), slice := sliceOf l.addr }]) ∧
        (d.asked = true → s'.sent.replays = s.sent.replays)) ∧
      (∀ f pop, s.poolTake push 4097 (s.pool 8 8) = some (f, pop) →
        s.agentHeld false (pteFrame l.entry * 65536) 65536 = false → s.agentHeld true (f * 65536) 65536 = false → ∃ s' s2 : State, exec (.pageDiversion ctx va) s = .next s' ∧
        s2.mem = (((s0.ringRead (s.pool 8 8) pop).putWord (poolPa + 8) 8 pop).evictFrame f).mem.copyRange (pteFrame l.entry * 65536) (f * 65536) 65536 ∧
        s'.mem = (s2.putWord l.addr 8 (l.entry.toNat + f * 2 ^ 40)).mem ∧
        ∀ d ∈ s'.tables.diverts, ¬ (d.ctx = ctx ∧ d.page = va.toNat / 65536)))

/-- The events of launches complete (R29, R30, R31, R241, R286, R287): the dispatcher puts the next block on the first core at or after the
cursor, wrapping once, that takes it; a block whose threads have exited retires and leaves its core; a launch whose blocks have all retired,
and in deterministic mode been applied, completes; the sequencer applies the next record of the log of the block whose
turn it is, and moves to the next block when the log of one is applied. That registers are
0 at a thread's start is the model's choice (assumption 2). -/
def Obligations.LaunchEvents : Prop :=
  ∀ (s : State) (l : Launch),
    (∀ c, s.launches = [l] → s.unplaced = [] → l.prio < 4 → l.again = [] → l.next + 1 = l.gx * l.gy * l.gz → s.mayDispatch l = true →
      s.findCore l none = some c → exec .dispatch s = .next ((s.startBlock l l.next c).setLaunch { l with
        next := l.next + 1, cursor := l.first + (c - l.first + (if l.desc.twin then 2 else 1)) % l.count })) ∧
    (l.first ≤ l.cursor → l.cursor < l.first + l.count →
      let core (i : Nat) := l.first + (l.cursor - l.first + i) % l.count
      let takes (c : Nat) : Prop := s.takes c l.ctx l.desc 0 none = true ∧
        (l.desc.twin = true → c % 2 = 0 ∧ c + 1 < l.first + l.count ∧ s.takes (c + 1) l.ctx l.desc 1 none = true)
      (∀ c, s.findCore l none = some c ↔ ∃ i, i < l.count ∧ core i = c ∧ takes c ∧ ∀ j, j < i → ¬ takes (core j)) ∧
      (s.findCore l none = none ↔ ∀ i, i < l.count → ¬ takes (core i)))  ∧
    (∀ idx j, j < l.desc.crews * l.desc.width → let th := startThread l idx j
      th.status = .ready ∧ th.pc = l.desc.entry ∧ th.crew * l.desc.width + th.tid = j ∧ th.p = 0 ∧ (∀ i, th.flagCount i = 0) ∧
      th.csp = th.cshi ∧ th.w = 0 ∧ th.hm = false ∧ (∀ r, th.reg r = 0)) ∧
    (∀ u idx b, s.block? { launch := u, idx := idx } = some b → s.launch? u = some l → s.mayRetire b = true →
      ∃ s', exec (.blockRetirement u idx) s = .next s' ∧ s'.block? b.bid = none ∧ (∀ e ∈ b.threads, s'.thread? e.1 e.2 = none) ∧
        s'.finals.length = s.finals.length + 1 ∧
        ∃ logs, s'.launch? u = some { l with retired := insertAsc idx l.retired, logs := logs }) ∧
    (∀ u, s.launch? u = some l → l.retired.length = l.gx * l.gy * l.gz → ((s.ctx l.ctx).det = true → l.ticket = l.gx * l.gy * l.gz) →
      ∃ s', exec (.launchCompletion u) s = .next s' ∧ s'.launch? u = none ∧
        ∀ e ∈ s'.tables.receipts, e.1 % 64 = l.ctx → ∀ r ∈ e.2, r.launch ≠ l.number % 65536) ∧
    (∀ u, s.launch? u = some l → (s.ctx l.ctx).det = true → l.ticket < l.gx * l.gy * l.gz → l.retired.contains l.ticket = true →
      (∃ s', exec (.sequencerApply u) s = .next s') ∧
      (∀ va bs s1, logPlace (FMap.getD l.logs l.ticket []) l.applied = some va → s.agentRead l.ctx va 32 = .ok (bs, [], s1) →
        let r := logRecOf bs
        let o := AtomOp.ofCodes r.op r.ty
        (r.kind = 0 → twoWide o = false → ∀ s2,
          s1.agentRmw l.ctx r.va (o.n / 8) (fun m => atomNew o m r.v.toNat) false = .ok (some s2) →
          exec (.sequencerApply u) s = .next (s2.setLaunch { l with applied := l.applied + 1, half := none, waited := false })) ∧
        (r.kind = 2 → exec (.sequencerApply u) s = .next ((s1.closeReceipts l.ctx (l.number % 65536) r.lo r.hi).setLaunch
          { l with applied := l.applied + 1, half := none, waited := false }))) ∧
      (logPlace (FMap.getD l.logs l.ticket []) l.applied = none →
        exec (.sequencerApply u) s = .next (s.setLaunch { l with ticket := l.ticket + 1, applied := 0, half := none, waited := false })))

/-! ## Command queues and Lantern records -/

/-- A write to WPTR, to CFG or, as zero, to STAT stands in the queue's page; WPTR and STAT writes change no other byte; of CFG the fields
of R276 are kept, LOGSIZE between 8 and 24 (R276, R277, R279). Each waits while an engine owns the line of the page or a translation in use derives
from it (R237, R380).
A record that ends moves the queue to its next record and, in the ring outside every list and loop, RPTR with it (R278).
The records of LAUNCH and LAUNCHI complete (R282, R31): past every check a launch enters the launch queue under the context's next number,
a grid of no blocks completes at once, and a full queue holds the record.
Where RPTR stands inside a level is the model's reading (assumption 54). -/
def Obligations.QueuesAndLaunchRecords : Prop :=
  (∀ (s : State) (q : Nat), q < Config.nQueues →
     let writes (i : Instr) (off : Nat) (v : Nat) : Prop := ∃ s', exec i s = .next s' ∧ s'.page q off = v ∧
       (∀ a, a < 65536 * q + off ∨ 65536 * q + off + 8 ≤ a → s'.mem.get a = s.mem.get a) ∧ s'.lqs = s.lqs ∧ s'.hostMem = s.hostMem
     let held := s.agentHeld true (65536 * q) 64
     (s.dev.stage = 0 → ∀ (v : Dword), ∀ i ∈ [Instr.wptrWrite q v, .statClear q, .cfgWrite q v], exec i s = .next s) ∧
     (s.dev.stage ≠ 0 → held = true → ∀ (v : Dword), ∀ i ∈ [Instr.wptrWrite q v, .statClear q, .cfgWrite q v],
       exec i s = .next (s.noteRecall noSkip (65536 * q) 64)) ∧
     (s.dev.stage ≠ 0 → held = false → (∀ v : Dword, writes (.wptrWrite q v) 0x10 v.toNat) ∧ writes (.statClear q) 0x20 0) ∧
     (s.dev.stage ≠ 0 → held = false → ∀ v : Dword, ∃ s', exec (.cfgWrite q v) s = .next s' ∧ (s'.lq q).en = v.getLsbD 15 ∧
       s'.page q 8 = (v.extractLsb' 6 10).toNat * 64 + max 8 (min 24 (v.toNat % 32))) ∧
     (∀ (s1 : State) (pos : LPos) (stack : List LLevel), let s' := State.settleQueue q (.done s1 pos stack)
       s'.lq q = { s1.lq q with pos := pos, stack := stack, waiting := .none, missed := none, desc := none, snapWait := none } ∧
       (∀ o, o < 2 ^ 64 → stack = [] → pos = .ring o → s'.page q 0x18 = o) ∧
       (stack ≠ [] → s'.mem = s1.mem))) ∧
  (∀ (s : State) (q : Nat), s.cur = .queue q →
     let x := s.lq q
     let ends (i : Instr) (s1 : State) (pos : LPos) (stack : List LLevel) : Prop := exec i s = .next (State.settleQueue q (.done s1 pos stack))
     let enters (i : Instr) (s1 : State) (d : Desc) (first count gx gy gz : Nat) : Prop :=
       let l : Launch := newLaunch q x d first count gx gy gz
       let c := s1.ctx x.ctx
       let s2 := s1.nextUid.setCtx x.ctx { c with launches := c.launches + 1 }
       let busy := decide (Config.launchEntries ≤ (s1.launches.filter Launch.queued).length)
       (gx * gy * gz = 0 → ends i s2 x.pos.next x.stack) ∧
       (gx * gy * gz ≠ 0 → busy = false → ends i { s2 with launches := s2.launches ++ [{ l with uid := s1.uid, number := c.launches % 65536 }] }
         x.pos.next x.stack) ∧
       (gx * gy * gz ≠ 0 → busy = true → exec i s = .next (s1.setLq q { x with waiting := .room l }))
     ∀ (first : BitVec 11) (count1 : BitVec 11) (desc : Dword) (bs : List Byte) (s1 : State),
       (∀ l, x.waiting ≠ .room l) → (s.ctx x.ctx).valid = true → (s.ctx x.ctx).killing = false →
       (x.desc = none ∧ (∃ s0, s.agentRead x.ctx desc 128 = .ok (bs, [], s0) ∧ s1 = s0.setLq q { x with desc := some bs })) ∨
         (x.desc = some bs ∧ s1 = s) →
       let d := descOf bs
       let count := count1.toNat + 1
       descZeros bs = true → d.ok first.toNat count (s1.ctx x.ctx).policy = true → s1.descGated d = false → s1.dev.featLock = true →
       ((s1.ctx x.ctx).det = true → s1.dev.clkLock = true) → d.holdable = true →
       (∀ (gx : Word) (gy gz : Half), enters (.launch { desc := desc, gx := gx, gy := gy, gz := gz, first := first, count1 := count1 }) s1 d
         first.toNat count gx.toNat gy.toNat gz.toNat) ∧
       (∀ (grid : Dword) (gb : List Byte) (s2 : State), s1.agentRead x.ctx grid 12 = .ok (gb, [], s2) →
         let gx := fieldAt gb 0 4
         let gy := fieldAt gb 4 4
         let gz := fieldAt gb 8 4
         gy < 65536 → gz < 65536 → gx * gy * gz < 2 ^ 32 →
         enters (.launchi { desc := desc, grid := grid, first := first, count1 := count1 }) s2 d first.toNat count gx gy gz))

/-- The flow, wait, signal and system records complete (R284, R285, R296, R300, R363, R384, R385): LOOP and CALLL push a level, ENDLOOP goes
round or pops it, RETL returns; IFMEM goes on or skips; WAITMEM and WAITLCH wait until their condition holds, and a deadline faults with
TIMEOUT; SIGNAL stores or adds; GSWAP waits for its fence; SNAP makes and frees a view; PREEMPT halts its target and retires when the pre-
emption is done, a second one after the first; RESUME puts the saved blocks and streams back. The bits of VALUE that a narrow SIGNAL uses, the view that a
SNAP release frees, the layout of a save area, and a PREEMPT or RESUME that meets a halt in progress are the model's (assumptions 20, 21,
27 and 56). -/
def Obligations.LanternRecords : Prop :=
  ∀ (s : State) (q : Nat), s.cur = .queue q →
    let x := s.lq q
    let ends (i : Instr) (s1 : State) (pos : LPos) (stack : List LLevel) : Prop := exec i s = .next (State.settleQueue q (.done s1 pos stack))
    let retires (i : Instr) (s1 : State) : Prop := ends i s1 x.pos.next x.stack
    (∀ n : Word, n ≠ 0 → x.stack.length < 8 → ends (.lanternLoop n) s x.pos.next (.loop x.pos.next n.toNat :: x.stack)) ∧
    (∀ body left rest, x.stack = .loop body left :: rest →
      (left ≤ 1 → ends .endloop s x.pos.next rest) ∧ (1 < left → ends .endloop s body (.loop body (left - 1) :: rest))) ∧
    (∀ a : Dword, x.stack.length < 8 → ends (.calll a) s (.list a.toNat) (.call x.pos.next :: x.stack)) ∧
    (∀ ret rest, x.stack = .call ret :: rest → ends .retl s ret rest) ∧
    (∀ (y : IfmemArgs) (bs : List Byte) (s1 : State), let n := if y.m.w32 then 4 else 8
      s.agentRead x.ctx y.m.addr n = .ok (bs, [], s1) →
      let holds := wordCond y.m.cond (8 * n) (BitVec.ofNat 64 (leNat bs) &&& y.m.mask).toNat y.m.value.toNat
      (holds = true → retires (.ifmem y) s1) ∧
      (holds = false → y.skip = 0 → retires (.ifmem y) s1) ∧
      (holds = false → y.skip = 1 → s1.written q x.pos.next = true → ∀ rb s2,
        s1.agentRead x.ctx (s1.recAddr q x x.pos.next) 32 = .ok (rb, [], s2) → rb.getD 0 0 ∉ [(3 : Byte), 4, 7] →
        ends (.ifmem y) s2 x.pos.next.next x.stack)) ∧
    (∀ (y : WaitmemArgs) (bs : List Byte) (s1 : State), let n := if y.m.w32 then 4 else 8
      (s.setLq q { x with waiting := .mem y.deadline.toNat }).agentRead x.ctx y.m.addr n = .ok (bs, [], s1) →
      let holds := wordCond y.m.cond (8 * n) (BitVec.ofNat 64 (leNat bs) &&& y.m.mask).toNat y.m.value.toNat
      (holds = true → retires (.waitmem y) s1) ∧ (holds = false → exec (.waitmem y) s = .next s1)) ∧
    (∀ d, x.waiting = .mem d → d ≠ 0 → x.en = true → s.fcode q = 0 → s.agentHeld true (65536 * q) 64 = false →
      exec (.waitmemTimeout q) s = .next (s.queueFault q 0x06)) ∧
    (∀ n : Word, let left := (s.launches.filter fun l => l.queue == q).length
      (left ≤ n.toNat → retires (.waitlch n) s) ∧
      (n.toNat < left → exec (.waitlch n) s = .next (s.setLq q { x with waiting := .begun }))) ∧
    (∀ y : SignalArgs, (y.after = false ∨ s.inFlight q = 0) →
      let stores (i : Instr) (n : Nat) : Prop := ∀ s1, s.agentWrite x.ctx y.addr (leBytes n y.value.toNat) [] true = .ok s1 → retires i s1
      let adds (i : Instr) (n : Nat) : Prop :=
        (∀ s1, s.agentAdd x.ctx y.addr n y.value.toNat true = .ok (some s1) → retires i s1) ∧
        (s.agentAdd x.ctx y.addr n y.value.toNat true = .ok none → exec i s = .next (s.queueFault q 0x05))
      stores (.signalStore64 y) 8 ∧ stores (.signalStore32 y) 4 ∧ adds (.signalAdd64 y) 8 ∧ adds (.signalAdd32 y) 4) ∧
    (x.sys = true →
      (s.lacksFeature 7 = false → ∀ y : GswapArgs,
        (x.waiting = .none → y.gen = s.tables.genPend →
          exec (.gswap y) s = .next ((s.setLq q { x with waiting := .fence y.gen }).startFence (some q))) ∧
        (x.waiting = .fence y.gen → s.fab.fence = none → retires (.gswap y) s)) ∧
      (s.lacksFeature 8 = false → ∀ y : SnapArgs,
        (∀ ls, s.inFlight q = 0 → (FMap.getD s.tables.views y.view.toNat View.reset).valid = false →
          s.regionHeld y.ctx.toNat y.base (y.len.toNat / 65536) = false → s.region y.ctx.toNat y.base (y.len.toNat / 65536) = .ok ls →
          (∀ l ∈ ls, s.entryHeld l.addr = false ∧ s.frameWriting (pteFrame l.entry) = false) →
          let s1 := ls.foldl (fun z l => (z.l2Read l.addr 8).putWord l.addr 8 (l.entry.toNat + 2 ^ 8)) (s.walkRegion y.ctx.toNat y.base (y.len.toNat / 65536))
          let view : View := { base := y.base, len := y.len, ctx := y.ctx.toNat, valid := true, diverted := 0 }
          retires (.snapCreate y) { s1 with tables := { s1.tables with views := FMap.put s1.tables.views y.view.toNat view } }) ∧
        (∀ s1, let w := FMap.getD s.tables.views y.view.toNat View.reset
          w.valid = true → s.releasePages w.ctx w.base (w.len.toNat / 65536) = (s1, true) →
          retires (.snapRelease y) { s1 with tables := { s1.tables with views := FMap.del s1.tables.views y.view.toNat } })) ∧
      (∀ y : PreemptArgs, let c := y.ctx.toNat
        let k := s.ctx c
        k.killing = false →
        (∀ a, x.waiting = .preempt a → k.pre.isHalting = false → retires (.preempt y) s) ∧
        (x.waiting = .none → s.preempting q c = true → (k.policy = true ∨ y.save ≠ 0) → y.save.toNat + 65536 ≤ Config.hbmBytes →
          exec (.preempt y) s = .next (s.setLq q { x with waiting := .begun })) ∧
        (x.waiting = .none → s.preempting q c = false → (k.policy = true ∨ y.save ≠ 0) → y.save.toNat + 65536 ≤ Config.hbmBytes →
          (k.pre = .none → s.busy c = false → retires (.preempt y) s) ∧
          (k.pre = .none → s.busy c = true → exec (.preempt y) s = .next
            (((s.setLq q { x with waiting := .preempt c }).setCtx c { k with pre := .halting q y.save.toNat }).haltCtx c)))) ∧
      (∀ y : PreemptArgs, let c := y.ctx.toNat
        ((s.ctx c).pre = .none → exec (.resume y) s = .next (s.queueFault q 0x02)) ∧
        (∀ p a, (s.ctx c).pre = .saved p → FMap.find? s.saves y.save.toNat = some a → a.ctx = c →
          let bs := a.bytes
          s.agentHeld false y.save.toNat bs.length = false → s.mem.firstBad y.save.toNat bs.length = none → s.mem.readBytes y.save.toNat bs.length = bs →
          let s1 := ((s.l2Read y.save.toNat bs.length).setCtx c { s.ctx c with pre := .none }).putAgain a.blocks
          retires (.resume y) { s1 with saves := FMap.del s1.saves y.save.toNat, unplaced := s1.unplaced ++ a.streams })))

/-! ## Contexts, peers and stripes -/

/-- The operations on a context complete (R114, R296, R297, R359): a save, and under the recompute policy a discard, takes every block and
stream of a halted context off the device and keeps what RESUME needs, once no engine owns a line of the area; a kill halts the context, leaves its launch records that wait for room
to fault, and, once no gang holds a thread of it,
removes all it owns; CTX_CFG and CTX_FAULT are written as R114 says.
The layout of the save area is the model's (assumption 27). -/
def Obligations.ContextOperations : Prop :=
  ∀ (s : State) (i : Nat), let x := s.ctx i
    let gone (s' : State) : Prop := (∀ b ∈ s'.blocks, b.ctx ≠ i) ∧ ∀ u ∈ s'.unplaced, u.y.ctx ≠ i
    (∀ q save, x.pre = .halting q save → x.killing = false → s.quiet i = true →
      (x.policy = false → (∀ th ∈ s.threadsOf i, th.savable = true) →
        let placed := (s.streams.filter fun e => e.2.ctx == i && e.2.st != .free).map fun e => s.saveStream (e.1 / 16) (e.1 % 16)
        let waiting := (s.unplaced.filter fun u => u.y.ctx == i).map fun (u : SavedStream) => { u with ladle := none }
        let a : SaveArea := { ctx := i, blocks := (s.blocks.filter fun b => b.ctx == i).map s.saveBlock, streams := placed ++ waiting }
        (s.agentHeld true save a.size = true → exec (.contextSave i) s = .next (s.noteRecall noSkip save a.size)) ∧
        (s.agentHeld true save a.size = false → ∃ s', exec (.contextSave i) s = .next s' ∧ gone s' ∧
          (s'.ctx i).pre = .saved save ∧ FMap.find? s'.saves save = some a)) ∧
      (x.policy = true → (∀ th ∈ s.threadsOf i, th.discardable = true) → ∃ s', exec (.recomputeDiscard i) s = .next s' ∧ gone s' ∧
        (s'.ctx i).pre = .discarded ∧
        FMap.find? s'.discards i = some ((s.blocks.filter fun b => b.ctx == i).map fun b => { s.saveBlock b with cores := [] }))) ∧
    (i < 64 → x.killing = false → ∃ s', exec (.kill i) s = .next s' ∧ (s'.ctx i).killing = true ∧ s'.mem = s.mem ∧
      (∀ q l, (s.lq q).waiting = .room l → l.ctx = i → (s'.lq q).waiting = .lost) ∧
      (∀ c t th, s'.thread? c t = some th → th.ctx = i → th.halted = true) ∧ s'.launches = s.launches ∧ s'.blocks = s.blocks) ∧
    (x.killing = true → s.quiet i = true → ∃ s', exec (.killCompletion i) s = .next s' ∧ gone s' ∧
      (s'.ctx i).killing = false ∧ (s'.ctx i).toks = [] ∧ (∀ l ∈ s'.launches, l.ctx ≠ i) ∧ (∀ e ∈ s'.fab.colls, e.2.ctx ≠ i) ∧
      ∀ e ∈ s'.tables.receipts, e.1 % 64 ≠ i) ∧
    (∀ v : Dword, i < 64 → ∃ y, exec (.ctxCfgWrite i v) s = .next (s.setCtx i y) ∧
      y.fair = (if v.extractLsb' 16 8 = 0 then 1 else v.extractLsb' 16 8) ∧
      (s.busy i = true → y.valid = x.valid ∧ y.det = x.det ∧ y.policy = x.policy) ∧
      (s.busy i = false → y.valid = v.getLsbD 0 ∧ y.det = (v.getLsbD 1 && !s.lacksFeature 3) ∧ y.policy = (v.getLsbD 2 && !s.lacksFeature 4))) ∧
    (∀ v : Dword, i < 64 → v.getLsbD 47 = true →
      exec (.ctxFaultClear i v) s = .next (s.setCtx i { x with fault := { x.fault with valid := false, more := false } }))

/-- Belfry and Recast complete (R367, R369, R371, R372): an interval counts, sends one heartbeat to each peer, raises each peer's suspicion
counter by one, and suspects a peer at THRESH; a heartbeat sets its sender's counter to 0 and clears a suspicion; a plan's next stripe is
asked of its first holder not yet tried; a stripe with its digest right is written and its record takes state 1; an attempt that fails
leaves the stripe to the next holder; a request for bytes of a view is answered with them or refused. The form of stripe packets, the
treatment of a poisoned record, the place of the view offset, the one counter of both Belfries and what comes before LOCK are the model's
(assumptions 43, 44, 48, 62 and 80). -/
def Obligations.HeartbeatsAndStripes : Prop :=
  ∀ s : State,
    let beatsTo (z : State) (dev : Half) : Nat :=
      (z.fab.outbox ++ z.fab.loopback ++ z.fab.heldBack.map Prod.snd).countP fun p =>
        p.kind == kHeartbeat && p.dstdev == dev && p.srcdev == s.tables.fabid
    (∀ io c, s.tables.belfry = some c → io < 2 →
      ∃ s', exec (.belfryInterval io) s = .next s' ∧
        FMap.getD s'.fab.intervals io 0 = FMap.getD s.fab.intervals io 0 + 1 ∧
        (∀ dev, beatsTo s' dev = beatsTo s dev + if dev ∈ c.peers ∧ dev ≠ 0xFFFF then 1 else 0) ∧
        ∀ dev, dev ∈ c.peers → dev ≠ 0xFFFF →
          let v := min (FMap.getD s.fab.susp dev.toNat 0 + 1) 255
          FMap.getD s'.fab.susp dev.toNat 0 = v ∧
          (dev.toNat ∈ s'.fab.suspected ↔ dev.toNat ∈ s.fab.suspected ∨ c.thresh.toNat ≤ v)) ∧
    (∀ c (p : Packet), s.tables.belfry = some c → p.srcdev ∈ c.peers → p.srcdev ≠ 0xFFFF → s.dev.featLock = true →
      p.kind = kHeartbeat → p.sound = true → p.dstdev = s.tables.fabid →
      (s.fab.loopback.contains p = true ∨ (s.port p.port.toNat).rxReplayOf = none ∨ (s.port p.port.toNat).rxReplayOf = some p.lseq) →
      let dev := p.srcdev
      ∃ s', exec (.heartbeatReceive p) s = .next s' ∧ FMap.getD s'.fab.susp dev.toNat 1 = 0 ∧
        s'.fab.suspected = s.fab.suspected.erase dev.toNat ∧
        s'.sent.notices = s.sent.notices ++ (if dev.toNat ∈ s.fab.suspected then
          [{ kind := nClear, port := 0xFF, peer := dev, gen := s.tables.gen, nseq := s.fab.nseq + 1, susp := 0 }] else [])) ∧
    (∀ p, s.fab.plan = some p → s.planHeld p = false → ∀ i r, s.stripe p i = some r → r.ok = true → i < p.count → r.state = 0 → p.running = [] → p.waiting = [] →
      (p.source i r.devs = none → exec (.stripeAttempt i) s = .next (s.endStripe i 2 0xFFFF)) ∧
      (∀ dev, p.source i r.devs = some dev → s.rateHolds p.ctx 64 = false → s.egressOk p.ctx dev = true → ∃ s' p', exec (.stripeAttempt i) s = .next s' ∧
        s'.fab.plan = some p' ∧ p'.running = [{ i := i, dev := dev, tag := s.fab.nextTag % 2 ^ 32 }] ∧ p'.triedFor i = dev :: p.triedFor i ∧
        s'.fab.nextTag = s.fab.nextTag + 1)) ∧
    (∀ p, s.fab.plan = some p → s.planHeld p = false → ∀ (x : StripeArgs) r, s.stripe p x.i = some r → (p.running.map fun y => (y.i, y.dev)) = [(x.i, x.dev)] →
      p.waiting = [] → x.packets.all Packet.sound = true →
      let p1 := { p with running := [] }
      let s0 := s.stripeCame x
      (x.status.toNat = stOk → x.bytes.length = r.len → sha3 x.bytes = x.digest →
        exec (.stripeReceive x) s = .next ((s0.setPlan p1).landStripe { i := x.i, bytes := x.bytes, bad := x.bad, missed := none } x.dev) ∧
        ∀ s1, (s0.setPlan p1).agentWrite p.ctx r.dst x.bytes x.bad false = .ok s1 → ∃ s', exec (.stripeReceive x) s = .next s' ∧
          s' = (s1.setPlan p1).endStripe x.i 1 x.dev) ∧
      (x.status.toNat ≠ stOk ∨ x.bytes.length ≠ r.len ∨ sha3 x.bytes ≠ x.digest →
        exec (.stripeReceive x) s = .next (s0.failAttempt x.i x.dev))) ∧
    (∀ p, s.fab.loopback.contains p = false → p.port.toNat < Config.nPorts → p.sound = true → s.mayTalk kStripe = true → p.kind = kStripe →
      p.oper = oStripe → p.dstdev = s.tables.fabid → (p.fcls = 3 → s.dev.featLock = true) → s.stripeHeld p = false →
      ((s.port p.port.toNat).rxReplayOf = none ∨ (s.port p.port.toNat).rxReplayOf = some p.lseq) →
      let s1 := s.arriveAt p.port.toNat p
      let w := FMap.getD s.tables.views (p.opc.toNat % 64) View.reset
      let off := p.offset.toNat
      let len := p.opb.toNat
      let refused (st : Nat) : Prop := exec (.stripeRequest p) s = .next (s1.sendPacket { p.answer st 0 with fcls := 3 })
      (s.ingressOf p.pkey = none → refused stPerm) ∧
      ∀ e, s.ingressOf p.pkey = some e →
        (s.lacksFeature 8 = true ∨ w.valid = false → refused stAbsent) ∧
        (s.lacksFeature 8 = false → w.valid = true → w.ctx ≠ e.ctx → refused stPerm) ∧
        (s.lacksFeature 8 = false → w.valid = true → w.ctx = e.ctx →
          (off % 65536 ≠ 0 ∨ len % 65536 ≠ 0 ∨ w.len.toNat < off + len → refused stAbsent) ∧
          (off % 65536 = 0 → len % 65536 = 0 → off + len ≤ w.len.toNat →
            (s1.readView w.ctx (w.base + BitVec.ofNat 64 off) 0 (len / 65536) = none → refused stAbsent) ∧
            ∀ bs bad s2, s1.readView w.ctx (w.base + BitVec.ofNat 64 off) 0 (len / 65536) = some (bs, bad, s2) →
              exec (.stripeRequest p) s = .next ((stripePackets p bs bad).foldl (fun z q => z.sendRated w.ctx q) s2) ∧ bs.length = len ∧
              ((stripePackets p bs bad).dropLast.flatMap Packet.data) = bs ∧
              ((stripePackets p bs bad).getLast?).map (fun y => y.data.take 32) = some ((sha3 bs).take 32))))

/-! ## Device registers, power and resets -/

/-- The device registers keep their rules (R110, R112 to R117, R375): each write moves a value into its range, clears the bits written as one,
or is ignored, and REGISTER_WRITE at a listed offset does what the event of that register does.
What a write of BOOT_ADDR at a later stage does, how the clock steps, who may write, and what LOCK ends are the model's (assumptions 58, 60,
87 and 114). -/
def Obligations.DeviceRegisters : Prop :=
  ∀ (s : State) (v : Dword),
    let d := s.dev
    let wr (off : Nat) (s' : State) : Prop := exec (.registerWrite off v) s = .next s'
    (let s' : State := { s with dev := { d with pwrLimit := BitVec.ofNat 16 (max 600 (min (v.toNat % 2 ^ 16) Config.pwrClamp.toNat)) } }
     600 ≤ Config.pwrClamp.toNat → exec (.pwrLimitWrite v) s = .next s' ∧ wr 0x208 s') ∧
    (let s' : State := { s with dev := { d with errStat := d.errStat &&& ~~~v } }
     exec (.errStatClear v) s = .next s' ∧ wr 0x300 s') ∧
    wr 0x308 { s with dev := { d with errMask := v &&& 0x7FF } } ∧
    (let s' : State := { s with dev := { d with ceSram := v.toNat % 2 ^ 32, ceHbm := v.toNat / 2 ^ 32 } }
     exec (.errCeWrite v) s = .next s' ∧ wr 0x320 s') ∧
    (let a := v &&& ~~~(0xFFF : Dword)
     let s' : State := { s with dev := { d with bootAddr := a, stage := if d.stage = 0 ∧ a ≠ 0 then 1 else d.stage } }
     exec (.bootAddrWrite v) s = .next s' ∧ wr 0x18 s') ∧
    (∀ hi : Bool, let w : BitVec 128 := (if hi then v ++ d.accept.extractLsb' 0 64 else d.accept.extractLsb' 64 64 ++ v) &&& d.offer
     let s' : State := if d.featLock then s else { s with dev := { d with accept := w } }
     exec (.featAcceptWrite hi v) s = .next s' ∧ wr (if hi then 0x58 else 0x50) s') ∧
    (d.featLock = false → v.getLsbD 0 = true → ∃ s', exec .featLock s = .next s' ∧ wr 0x60 s' ∧
      s'.dev = { d with featLock := true, stage := if d.stage = 4 then 5 else d.stage } ∧
      (∀ i, s'.ctx i = { s.ctx i with det := (s.ctx i).det && d.accept.getLsbD 3, policy := (s.ctx i).policy && d.accept.getLsbD 4 }) ∧
      s'.fab.plan = (if d.accept.getLsbD 9 then s.fab.plan else none) ∧ s'.measured 2 = sha3 (s.measured 2 ++ leBytes 16 d.accept.toNat)) ∧
    (let lock := v.getLsbD 32
     let mx := max 8 (min (v.extractLsb' 8 5).toNat 24)
     let s' : State := { s with dev := { d with clkLock := lock, coreMax := mx, coreNow := if lock then mx else min d.coreNow mx } }
     (d.clkLock = false ∨ s.anyDet = false ∨ (lock = true ∧ mx = d.coreMax) → exec (.clkCtlWrite v) s = .next s' ∧ wr 0x100 s') ∧
     (d.clkLock = true → s.anyDet = true → (lock = false ∨ mx ≠ d.coreMax) → exec (.clkCtlWrite v) s = .next s ∧ wr 0x100 s)) ∧
    (∀ i, i < Config.nCores → (s.core i).powered = true →
      let s' := s.setCore i { s.core i with halt := v.getLsbD 1, en := v.getLsbD 0 || ((s.core i).en && !s.emptyCore i) }
      exec (.coreCtlWrite i v) s = .next s' ∧ wr (0x100000 + 0x40 * i) s') ∧
    (∀ i, i < 64 → s.busy i = false →
      wr (0x8000 + 0x40 * i + 0x10) (s.setCtx i { s.ctx i with tvb := v &&& 0x000FFFFFFFFFF000 }) ∧
      wr (0x8000 + 0x40 * i + 0x18) { (s.setCtx i { s.ctx i with ptb := v &&& 0x000FFFFFFFFF0001 }) with
        tlb := s.tlb.filter fun e => e.ctx != i })

/-- Errors, power and temperature (R115, R116, R120, R219): the log takes the first uncorrectable error while bits 4, 3 and 1 are 0, and the
data becomes poison; counts saturate; an average above PWR_LIMIT lowers the core clock by a step, or with LOCK throttles; a core domain
loses its registers when it is powered down, and powers up in its reset state. How many words an HBM error spoils, and what the log's
address holds for an SRAM error, are the model's (assumptions 28 and 29). -/
def Obligations.ErrorsAndPower : Prop :=
  ∀ s : State,
    let d := s.dev
    let has (s' : State) (n : Nat) : Prop := s'.dev.errStat = d.errStat ||| (1 : Dword) <<< n ∧
      s'.sent.interrupts = s.sent.interrupts ++ (if d.errMask.getLsbD n then [n] else [])
    let logs (s' : State) (a : Dword) (kind src : Nat) : Prop :=
      if d.errStat.getLsbD 4 || d.errStat.getLsbD 3 || d.errStat.getLsbD 1 then s'.dev.errLogA = d.errLogA ∧ s'.dev.errLogS = d.errLogS
      else s'.dev.errLogA = a ∧ s'.dev.errLogS = BitVec.ofNat 64 (kind * 2 ^ 16 + src)
    (∀ pa n, pa < Config.hbmBytes → ∃ s', exec (.uncorrectableError (.hbm pa n)) s = .next s' ∧ has s' 3 ∧
      logs s' (BitVec.ofNat 64 pa) 3 (pa / 1024 % 12) ∧
      ((∀ k, k < n → FMap.find? s.l2 ((pa / 8 + k) / 8) = none) →
        ∀ a, s'.mem.bad a = (s.mem.bad a || (decide (pa / 8 ≤ a / 8) && decide (a / 8 < pa / 8 + n))))) ∧
    (∀ pa x, pa < Config.hbmBytes → FMap.find? s.l2 (pa / 64) = some x → x.filled = true → ∃ s', exec (.uncorrectableError (.hbm pa 1)) s = .next s' ∧
      s'.mem = s.mem ∧ ∃ y, FMap.find? s'.l2 (pa / 64) = some y ∧ (∀ i, i ∈ y.bad ↔ i ∈ x.bad ∨ i = pa / 8 % 8) ∧ y.mask = x.mask) ∧
    (∀ pa, pa < Config.hbmBytes → ∃ s', exec (.uncorrectableError (.l2 pa)) s = .next s' ∧ has s' 4 ∧
      logs s' (BitVec.ofNat 64 pa) 2 (sliceOf pa) ∧
      ∀ a, s'.mem.bad a = (s.mem.bad a || ((FMap.find? s.l2 (pa / 64)).isSome && a / 8 == pa / 8))) ∧
    (∀ c, let sram (e : ErrPlace) : Prop := ∃ s', exec (.uncorrectableError e) s = .next s' ∧ has s' 1 ∧
        (s'.core c).eccUe = min ((s.core c).eccUe + 1) 0xFFFFFFFF ∧ s'.mem = s.mem ∧
        (d.errStat.getLsbD 4 = false → d.errStat.getLsbD 3 = false → d.errStat.getLsbD 1 = false →
          s'.dev.errLogS = BitVec.ofNat 64 (2 ^ 16 + c))
      (∀ n sp a, sram (.buf c n sp a)) ∧ (∀ pa, sram (.l1 c pa)) ∧ (∀ va, sram (.ib c va)) ∧
      (∀ n sp a b, s.blockOn c n = some b → b.holdsByte c sp a = true → ∃ s', exec (.uncorrectableError (.buf c n sp a)) s = .next s' ∧
        s'.blocks = s.blocks.map fun x => if x.bid = b.bid then b.setStore (b.half c) sp ((b.store (b.half c) sp).mark (a / 8)) else x) ∧
      (∀ pa x, FMap.find? (s.core c).l1 (pa / 64) = some x → ∃ s' y, exec (.uncorrectableError (.l1 c pa)) s = .next s' ∧
        FMap.find? (s'.core c).l1 (pa / 64) = some y ∧ y.bytes = x.bytes ∧
        ∀ i, i < 64 → (i ∈ y.poison ↔ i ∈ x.poison ∨ i / 8 = pa % 64 / 8))) ∧
    (∀ pa n, ∃ s', exec (.correctedError (.hbm pa n)) s = .next s' ∧ has s' 2 ∧ s'.dev.ceHbm = min (d.ceHbm + 1) 0xFFFFFFFF) ∧
    (∀ pa, exec (.correctedError (.l2 pa)) s = .next { s with dev := { d with ceSram := min (d.ceSram + 1) 0xFFFFFFFF } }) ∧
    (∀ c n sp a, ∃ s', exec (.correctedError (.buf c n sp a)) s = .next s' ∧ has s' 0 ∧ s'.dev.ceSram = min (d.ceSram + 1) 0xFFFFFFFF ∧
      (s'.core c).eccCe = min ((s.core c).eccCe + 1) 0xFFFFFFFF) ∧
    (∃ s', exec .thermWarn s = .next s' ∧ has s' 6) ∧ (∃ s', exec .lanternWd s = .next s' ∧ has s' 8) ∧
    (∃ s', exec .thermTrip s = .next s' ∧ has s' 7 ∧ s'.dev.tripped = true ∧ s'.blocks = [] ∧
      ∀ c, c < 2048 → (s'.core c).powered = false ∧ (s'.core c).threads = []) ∧
    (∀ avg : Half, d.clkLock = false → ∃ s', exec (.powerEvaluation avg) s = .next s' ∧ s'.dev.pwrAvg = avg ∧
      s'.dev.pwrOver = decide (d.pwrLimit.toNat < avg.toNat) ∧
      s'.dev.coreNow = (if d.pwrLimit.toNat < avg.toNat then max 8 (d.coreNow - 1)
        else if 10 * avg.toNat < 9 * d.pwrLimit.toNat then min d.coreMax (d.coreNow + 1) else d.coreNow)) ∧
    (∀ avg : Half, d.clkLock = true → d.pwrLimit.toNat < avg.toNat → ∃ s', exec (.powerEvaluation avg) s = .next s' ∧
      s'.dev.coreNow = d.coreNow ∧ s'.dev.throttle = true) ∧
    (∀ die, s.firmware = false → exec (.coreDomainPowerDown die) s = .next s ∧ exec (.coreDomainPowerUp die) s = .next s) ∧
    (∀ die, die < 8 → 2 ≤ d.stage → d.stage ≠ 15 →
      ((∀ c, 256 * die ≤ c → c < 256 * die + 256 → (s.core c).en = false) → ∃ s', exec (.coreDomainPowerDown die) s = .next s' ∧
        ∀ c, s'.core c = if c / 256 = die then { Core.reset with powered := false, en := false } else s.core c) ∧
      (d.tripped = false → ∃ s', exec (.coreDomainPowerUp die) s = .next s' ∧
        ∀ c, s'.core c = if c / 256 = die ∧ (s.core c).powered = false then Core.reset else s.core c))

/-- Resets, bring-up, attestation and host accesses complete (R111, R117 to R121, R191, R395 to R397): a reset gives State.reset but for what
the manual keeps; the stages of bring-up follow one another, each failure leaving stage 15 with its code; a report is signed; the host
writes memory at its address, and performs atomics there, of a two-wide one one half and then the other (R214; assumption 76). That memory reads as zero after a reset, the stage after a warm reset, LOGSIZE after stage 0x2, the order of
the ROM's checks and the default offer, what BOOT_ADDR keeps, the host's memory and its writes, and what trains are the model's choices (assumptions 3, 4, 55, 58,
66, 70 and 85). -/
def Obligations.ResetsAndHost : Prop :=
  ∀ s : State,
    (∃ s', exec .coldReset s = .next s' ∧ s'.mem = Store.empty ∧ s'.cores = [] ∧ s'.tables.measure = State.reset.tables.measure ∧
      s'.hostMem = s.hostMem ∧ s'.dev = { State.reset.dev with boots := s.dev.boots + 1 }) ∧
    (∃ s', exec .warmReset s = .next s' ∧ s'.mem = Store.empty ∧ s'.dev.bootAddr = s.dev.bootAddr ∧
      s'.dev.stage = (if s.dev.bootAddr = 0 then 0 else 1)) ∧
    (∃ s', exec .powerLoss s = .next s' ∧ s'.dev.dead = true ∧ s'.mem = Store.empty) ∧
    (∀ x : ImageArgs, s.dev.stage = 1 →
      let signed := Config.mlDsaVerify x.key x.img0 x.sig0 = true ∧ Config.mlDsaVerify x.key x.img1 x.sig1 = true
      let fails (err : Half) : Prop := exec (.stageImage x) s = .next { s with dev := { s.dev with stage := 15, bootErr := err } }
      (¬ signed → fails 1) ∧ (signed → sha3 x.key ≠ Config.bootKeyHash → fails 2) ∧
      (signed → sha3 x.key = Config.bootKeyHash →
        (Config.imageVersion x.img0 < Config.minVersion ∨ Config.imageVersion x.img1 < Config.minVersion → fails 3) ∧
        (Config.minVersion ≤ Config.imageVersion x.img0 → Config.minVersion ≤ Config.imageVersion x.img1 →
          ∃ s', exec (.stageImage x) s = .next s' ∧ s'.dev = { s.dev with stage := 2 } ∧ s'.tables.identity = true ∧
            s'.measured 0 = sha3 (s.measured 0 ++ sha3 x.img0) ∧ s'.measured 1 = sha3 (s.measured 1 ++ sha3 x.img1)))) ∧
    (∀ err : Half, s.dev.stage = 2 →
      ((∃ k, k < 12 ∧ err.toNat = 0x10 + k) ∨ err = 0x20 →
        exec (.stageMemory err) s = .next { s with dev := { s.dev with stage := 15, bootErr := err } }) ∧
      (err = 0 → ∃ s', exec (.stageMemory err) s = .next s' ∧ s'.dev = { s.dev with stage := 3 } ∧ s'.lqs = [] ∧
        (∀ c, s'.core c = { s.core c with l1 := [], ibuf := [] }) ∧ ∀ a, s'.mem.bad a = false ∧
        s'.mem.get a = if a < 128 * 65536 ∧ a % 65536 = 8 then 8 else 0)) ∧
    (∀ ports : List TrainArgs, s.dev.stage = 3 → s.dev.links = false → ∃ s', exec (.stageLinks ports) s = .next s' ∧ s'.dev.links = true ∧
      ∀ n, n < Config.nPorts → s'.tables.portDown.getLsbD n = !(ports.any fun p => p.port == n)) ∧
    (s.dev.stage = 3 → s.dev.links = true → exec .stageOffer s = .next { s with dev := { s.dev with
      offer := if s.dev.offer = 0 then 0xFFFF else s.dev.offer, stage := if s.dev.featLock then 5 else 4 } }) ∧
    (∀ i data, 4 ≤ i → i ≤ 15 → 2 ≤ s.dev.stage → s.dev.stage ≠ 15 → ∃ s', exec (.measurementExtend i data) s = .next s' ∧
      s'.measured i = sha3 (s.measured i ++ data) ∧ (∀ j, j ≠ i → s'.measured j = s.measured j) ∧ s'.dev = s.dev) ∧
    (∀ nonce : List Byte, s.tables.identity = true → s.dev.stage ≠ 15 → nonce.length = 32 → ∃ r,
      exec (.attestationReport nonce) s = .next { s with sent := { s.sent with reports := s.sent.reports ++ [r] } } ∧
      r = s.reportBytes nonce ++ leBytes 2420 (Config.mlDsaSign (s.reportBytes nonce)).toNat ∧
      ((∀ i, (s.measured i).length = 32) → r.length = 3068 ∧ (r.drop 0x38).take 32 = nonce)) ∧
    (∀ pa bs, exec (.hostAccess (.own pa bs)) s = .next { s with hostMem := s.hostMem.write pa bs }) ∧
    (s.dev.stage = 0 → (∀ pa bs, exec (.hostAccess (.write pa bs)) s = .next s) ∧ ∀ pa o v, exec (.hostAccess (.atom pa o v)) s = .next s) ∧
    (∀ pa bs, s.dev.stage ≠ 0 → bs ≠ [] → pa + bs.length ≤ Config.hbmBytes → s.agentHeld true pa bs.length = false →
      0x810000 ≤ pa → ∃ s', exec (.hostAccess (.write pa bs)) s = .next s' ∧
        ∀ a, s'.mem.get a = if pa ≤ a ∧ a < pa + bs.length then bs.getD (a - pa) 0 else s.mem.get a) ∧
    (∀ pa (o : AtomOp) (v : Dword), let n := o.n / 8
      s.dev.stage ≠ 0 → atomOpWf true o = true → pa % n = 0 → pa + n ≤ Config.hbmBytes → s.agentHeld true pa n = false →
      s.mem.firstBad pa n = none → 0x810000 ≤ pa →
        (twoWide o = false → ∃ s', exec (.hostAccess (.atom pa o v)) s = .next s' ∧ s'.hostHalves = s.hostHalves ∧
          s'.mem.readBytes pa n = leBytes n (atomNew o (s.mem.readNat pa n) (v.toNat % 2 ^ (8 * n)))) ∧
        (twoWide o = true → let k := s.hiFirst.toNat
          ∃ s', exec (.hostAccess (.atom pa o v)) s = .next s' ∧ s'.hostHalves = s.hostHalves ++ [⟨pa, o, v.toNat, 1 - k⟩] ∧
            s'.mem.readBytes (pa + 2 * k) 2 = leBytes 2 (halfNew o (s.mem.readNat (pa + 2 * k) 2) (v.toNat / 65536 ^ k % 65536)) ∧
            s'.mem.readBytes (pa + 2 * (1 - k)) 2 = s.mem.readBytes (pa + 2 * (1 - k)) 2)) ∧
    (∀ i x, s.hostHalves[i]? = some x → twoWide x.op = true → x.half < 2 → s.agentHeld true (x.pa + 2 * x.half) 2 = false →
      s.mem.firstBad (x.pa + 2 * x.half) 2 = none → 0x810000 ≤ x.pa →
      (s.hostRest i).hostHalves = s.hostHalves.eraseIdx i ∧ (s.hostRest i).mem.readBytes (x.pa + 2 * x.half) 2 =
        leBytes 2 (halfNew x.op (s.mem.readNat (x.pa + 2 * x.half) 2) (x.v / 65536 ^ x.half % 65536)))

/-! ## Gate messages -/

/-- A gate message that is accepted is applied, extends measurement entry 3 and becomes the last of its sequence; one that is not is dropped
and counted (R386 to R391, R393, R394, R396). A message is never accepted whose SEQ is not above the last, whose fields its signed body
does not carry, or which loads a table before READY, and at stage 0x0 a message does nothing (R117). That the message of operation 0 is verified under the key it brings, the layout
of the bodies and which operations READY admits are the model's reading (assumptions 11, 45 and 65). -/
def Obligations.GateMessages : Prop :=
  (∀ (s : State) (h : GateHdr) (op : Nat) (body : List Byte) (key : Option (List Byte)),
    (∀ q, s.tables.gateSeq = some q → gateField h 8 8 ≤ q → s.gateAccepts h op body key = false) ∧
    (h.bytes.drop 64 ≠ body → s.gateAccepts h op body key = false) ∧
    (1 ≤ op → op ≤ 6 → s.dev.stage ≠ 5 → s.gateAccepts h op body key = false) ∧
    (key = none → s.gateAccepts h op body key = false)) ∧
  (∀ (s : State) (h : GateHdr), (s.gateTake h).tables.gateSeq = some (gateField h 8 8) ∧
    (s.gateTake h).measured 3 = sha3 (s.measured 3 ++ h.bytes)) ∧
  (∀ (s : State) (h : GateHdr), s.dev.stage = 0 → ∀ key first entries gen paths mask entry cfg pa fabid,
    ∀ i ∈ [Instr.gateSetKey h key, .gateRankBank h first entries, .gateGeneration h gen, .gateRouteBank h first paths, .gateRouteSwap h,
      .gateClearPortDown h mask, .gatePkeyEntry h entry, .gateBelfryConfig h cfg, .gateRecastPlan h pa, .gateFabid h fabid],
    exec i s = .next s) ∧
  ∀ (s : State) (h : GateHdr), s.dev.stage ≠ 0 →
    let t := s.gateTake h
    let carries (i : Instr) (op : Nat) (body : List Byte) (s' : State) : Prop :=
      exec i s = .next (if s.gateAccepts h op body s.tables.fmKey then s'
        else { s with tables := { s.tables with gateDrops := s.tables.gateDrops + 1 } })
    let takes (i : Instr) (op : Nat) (fields : List Nat) (s' : State) : Prop := carries i op (Config.gateBody op fields) s'
    (∀ key : List Byte, exec (.gateSetKey h key) s = .next (
      if key.length = 1312 ∧ sha3 key = Config.fabricKeyHash ∧ s.gateAccepts h 0 key (some key) = true then { t with tables := { t.tables with fmKey := some key } }
      else s.gateDrop)) ∧
    (∀ first (entries : List Half), let fs := first :: entries.length :: entries.map BitVec.toNat
      (s.fab.fence.isSome = true → takes (.gateRankBank h first entries) 1 fs
        { t with tables := { t.tables with held := t.tables.held ++ [(rankEntries first entries, none)] } }) ∧
      (s.fab.fence = none → s.tables.held = [] → (∃ s', takes (.gateRankBank h first entries) 1 fs s' ∧
        (∀ r, first ≤ r → r < first + entries.length → r < 8192 → FMap.getD s'.tables.rankPend r 0xFFFF = entries.getD (r - first) 0xFFFF) ∧
        ∀ r, r < first ∨ first + entries.length ≤ r → FMap.find? s'.tables.rankPend r = FMap.find? s.tables.rankPend r))) ∧
    (∀ gen : Half, s.fab.fence = none → s.tables.held = [] → ∃ s', takes (.gateGeneration h gen) 2 [gen.toNat] s' ∧ s'.tables.genPend = gen) ∧
    (∀ first paths, ∃ s', takes (.gateRouteBank h first paths) 3 (first :: paths.length / 8 :: paths.map BitVec.toNat) s' ∧
      s'.tables.routeAct = s.tables.routeAct ∧
      (∀ i, i < paths.length → 8 * first + i < 1024 → FMap.find? s'.tables.routePend (8 * first + i) = some (paths.getD i 0))) ∧
    (carries (.gateRouteSwap h) 4 []
      ({ t with tables := { t.tables with routeAct := t.tables.routePend, routePend := t.tables.routeAct } } : State).flushHeld) ∧
    (∀ mask : BitVec 36, takes (.gateClearPortDown h mask) 5 [mask.toNat]
      ({ t with tables := { t.tables with portDown := t.tables.portDown &&& ~~~mask } } : State).flushHeld) ∧
    (∀ (c : BitVec 6) pkey valid rate burst dmask,
      let e : Egress := { pkey := pkey, valid := valid, rate := rate, burst := burst, dmask := dmask }
      takes (.gatePkeyEntry h (.egress c pkey valid rate burst dmask)) 6
        [0, c.toNat, pkey.toNat, valid.toNat, rate.toNat, burst.toNat, dmask.toNat]
        { t with tables := { t.tables with egress := FMap.put t.tables.egress c.toNat e } }) ∧
    (∀ (i : BitVec 6) pkey (ctx : BitVec 6) valid exb,
      let e : Ingress := { pkey := pkey, ctx := ctx.toNat, valid := valid, exb := exb }
      takes (.gatePkeyEntry h (.ingress i pkey ctx valid exb)) 6 [1, i.toNat, pkey.toNat, ctx.toNat, valid.toNat, exb.toNat]
        { t with tables := { t.tables with ingress := FMap.put t.tables.ingress i.toNat e } }) ∧
    (∀ cfg, takes (.gateBelfryConfig h cfg) 7 (belfryFields cfg) { t with tables := { t.tables with belfry := some cfg } }) ∧
    (∀ pa : Dword,
      (s.lacksFeature 9 = true → exec (.gateRecastPlan h pa) s = .next s.gateDrop) ∧
      (s.lacksFeature 9 = false → s.agentHeld false pa.toNat 8 = true → exec (.gateRecastPlan h pa) s = .next (s.noteRecall noSkip pa.toNat 8)) ∧
      (s.lacksFeature 9 = false → s.agentHeld false pa.toNat 8 = false → pa.toNat % 64 ≠ 0 ∨ Config.hbmBytes ≤ pa.toNat → takes (.gateRecastPlan h pa) 8 [pa.toNat] t) ∧
      (s.lacksFeature 9 = false → s.agentHeld false pa.toNat 8 = false → pa.toNat % 64 = 0 → pa.toNat < Config.hbmBytes → s.mem.firstBad pa.toNat 8 = none →
        let n := s.mem.readNat pa.toNat 8
        takes (.gateRecastPlan h pa) 8 [pa.toNat] ((t.l2Read pa.toNat 8).setPlan
          { pa := pa.toNat, count := n % 2 ^ 32, ctx := n / 2 ^ 32 % 64, running := [], tried := [], ready := false, waiting := [] }).checkReady)) ∧
    (∀ fabid : Half, takes (.gateFabid h fabid) 9 [fabid.toNat] ({ t with tables := { t.tables with fabid := fabid } } : State).flushHeld)

/-! ## Encodings -/

/-- Decoding the words of a well-formed thread instruction gives it back, whatever words follow: no field is dropped at any value that the
encoding admits (R74, R75). -/
def Obligations.DecodeAfterEncode : Prop :=
  ∀ (i : Instr) (ws : List Word), i.wf = true → (encRaw i).isSome = true → decode (encode i ++ ws) = .ok i

/-- Ladle commands and Lantern records decode to what was encoded (R311, R312, R278, R280), and every thread instruction and command that is
decoded has those bits: each word has one meaning. -/
def Obligations.CommandsDecodeAfterEncode : Prop :=
  (∀ (i : Instr) (ws : List LWord), i.wf = true → encodeLadle i ≠ [] → decodeLadle (encodeLadle i ++ ws) = .ok i) ∧
  (∀ (i : Instr) (r : LRec), i.wf = true → encodeLantern i = some r → decodeLantern r = .ok i) ∧
  (∀ (i : Instr) (ws : List LWord), decodeLadle ws = .ok i → i.wf = true ∧ ∃ rest, ws = encodeLadle i ++ rest) ∧
  (∀ (i : Instr) (r : LRec), decodeLantern r = .ok i → i.wf = true ∧ encodeLantern i = some r) ∧
  (∀ (i : Instr) (ws : List Word), decode ws = .ok i → i.wf = true ∧ encode i = ws.take (lenWords (ws.headD 0)))

/-- Words of the manual's worked encodings decode to the instructions that they stand for, and words that R87 names do not decode: a major
opcode that R85 leaves out, a length that the opcode does not admit, guard 0x8, and a nonzero unused field. -/
def Obligations.ExampleWords : Prop :=
  decode [0x00000001, 0x00000000] = .ok (.nop { g := 0, wide := false }) ∧
  decode [0x20103041, 0x00800000] = .ok (.iadd { g := 0, t := .i32, sat := false, d := 3, a := 1, b := .reg 2 }) ∧
  decode [0x00304042, 0x00800000, 0x000003E8] = .ok (.iadd { g := 0, t := .i32, sat := false, d := 4, a := 3, b := .imm32 1000 }) ∧
  decode [0x00805982, 0x01A00000, 0x00000040] = .ok (.ld { h := { g := 0, flag := some false }, acq := false, scope := .dev, space := .glb, t := .n32, d := 5, a := 8, off := .o32 0x40 }) ∧
  decode [0x0040106D, 0x09820640] = .ok (.icmp { g := 0, c := .lt, t := .n32, pd := 1, a := 4, b := .imm8 0x64 }) ∧
  decode [0x00000006, 0x00001000, 0xFFFFFFE0] = .ok (.bra { g := 1, off := 0xFFFFFFE0 }) ∧
  decode [0xC0A080CD, 0x024800E0] = .ok (.fma { g := 0, f := .f64, rm := .rz, sat := false, d := 8, a := 10, b := 12, c := .reg 14 }) ∧
  decode [0x5040710D, 0x00800060] = .ok (.hfma2 { g := 0, f := .bf16, rm := .rn, sat := false, d := 7, a := 4, b := 5, c := .reg 6 }) ∧
  decode [0x50403145, 0x30060000] = .ok (.cvts { g := 0, div := true, dt := .e4m3, st := .f32, rm := .rn, sat := true, d := 3, a := 4, s := 5, w := 0 }) ∧
  decode [0x30500249, 0x04000020] = .ok (.waitPut { g := 0, m := 3, a := 5, p := { n := 2, neg := false } }) ∧
  decode [0x708061C1, 0x70A00100] = .ok (.atom { h := { g := 0, flag := none }, op := .flt .add .bf16, ord := .plain, scope := .dev, space := .glb, d := 6, a := 8, off := .o8 0x10, b := 7 }) ∧
  decode [0x01E00285, 0x06000000] = .ok (.wlds { h := { g := 0, flag := none }, fmt := .lns6, scaled := true, a := 30, off := none }) ∧
  decode [0x00806341, 0x05A80100] = .ok (.rld { g := 0, acq := true, t := .n32, d := 6, a := 8, off := .o8 0x10 }) ∧
  decode [0x000003C1, 0x00000000] = .error .illegalOp ∧ decode [0x00000005, 0x00000000] = .error .illegalOp ∧
  decode [0x00000019, 0x00008000] = .error .illegalField ∧ decode [0x00001019, 0x00000000] = .error .illegalField

/-! ## The step -/

/-- A step runs what stands in its turn: the instruction that the words at the issuing gang's address decode to, in the gang's next member
(R88, R291), after which the member leaves the gang's list; the command at a stream's LPC (R311); the record at a queue's position (R277);
or an event. A word that does not decode raises ILLEGAL_OP or ILLEGAL_FIELD (R87) where the guard lets the member act. That turns come
from a schedule is the model's own device (assumption 1). -/
def Obligations.StepRunsDecoded : Prop :=
  ∀ (s : State) (turn : Turn) (later : List Turn), s.schedule = turn :: later → s.dev.dead = false →
    let s0 : State := { s with schedule := later }
    (∀ c k g t ts, turn = .issue c k → s0.granted c k = some g → g.todo = t :: ts →
      (∀ i, decode g.rest = .ok i → step s = afterIssue c k t (exec i (s0.prepare c t g))) ∧
      (∀ e, decode g.rest = .error e → step s = afterIssue c k t (.next ((s0.prepare c t g).badWord c t g.rest e))) ∧
      (s0.prepare c t g).cur = .thread c t) ∧
    (∀ l k bs0 bs s1 s2 i, let y := s0.stream l k
      turn = .stream l k → y.live = true → y.stalled = none → y.emit = none → y.waitm = none → y.halted = false → s0.streamClear y = true →
      s0.agentRead y.ctx y.lpc 16 = .ok (bs0, [], s1) →
      let n := ladleLen (BitVec.ofNat 64 (leNat (bs0.take 8)))
      s0.agentRead y.ctx y.lpc (16 * n) = .ok (bs, [], s2) → decodeLadle (ladleWords bs n) = .ok i →
      step s = rest (exec i { (s2.setStream l k { y with lpc := y.lpc + BitVec.ofNat 64 (16 * n) }) with cur := .stream l k })) ∧
    (∀ q i s1, turn = .queue q → s0.queueFetch q = .run i s1 → step s = rest (exec i { s1 with cur := .queue q })) ∧
    (∀ i s1, turn = .event i → exec i { s0 with cur := .none } = .next s1 → step s = .next { s1 with cur := .none })

/-! ## Invariants -/

/-- Every step keeps the canonical form (the model's own, assumption 3) of device and host memory: addresses strictly rising, no entry equal to what an unlisted
address reads as. -/
def Obligations.MemoriesKeepTheirForm : Prop :=
  ∀ s s' : State, memoriesWf s → step s = .next s' → memoriesWf s'

/-- Every step keeps the device registers inside what the manual admits: CORE_NOW between 8 and CORE_MAX, CORE_MAX at most 24, PWR_LIMIT
between 600 and the clamp, reserved bits of ERR_STAT, ERR_MASK, FEAT_OFFER, FEAT_ACCEPT and BOOT_ADDR zero. -/
def Obligations.RegistersStayLegal : Prop :=
  ∀ s s' : State, registersLegal s → step s = .next s' → registersLegal s'

/-- The state after reset meets both invariants, and holds the values that the manual gives for reset (R110 to R117, R347, R386): stage 0, no
features, the full core step, PWR_LIMIT at the clamp, no error, FAIR 16 in every context, every core enabled, no rank, FABID 0xFFFF. That
memory reads as zero, and what the fused clamp is, are the model's choices (assumptions 3 and 4). -/
def Obligations.ResetValues : Prop :=
  memoriesWf State.reset ∧ registersLegal State.reset ∧
  (∀ a, State.reset.mem.get a = 0 ∧ State.reset.mem.bad a = false) ∧
  (let r := State.reset.readReg
   r 0x08 = 0 ∧ r 0x18 = 0 ∧ r 0x40 = 0 ∧ r 0x48 = 0 ∧ r 0x50 = 0 ∧ r 0x58 = 0 ∧ r 0x60 = 0 ∧ r 0x100 = 24 * 2 ^ 8 ∧ r 0x108 = 24 * 2 ^ 8 ∧
   r 0x208 = Config.pwrClamp.toNat ∧ r 0x210 = 0 ∧ r 0x300 = 0 ∧ r 0x308 = 0 ∧ r 0x320 = 0 ∧
   (∀ i < 64, r (0x8000 + 0x40 * i) = 16 * 2 ^ 16 ∧ r (0x8000 + 0x40 * i + 0x20) = 0) ∧
   (∀ k < Config.nCores, r (0x100000 + 0x40 * k) = 1 ∧ r (0x100000 + 0x40 * k + 0x08) = 1 ∧ r (0x100000 + 0x40 * k + 0x10) = 0)) ∧
  State.reset.rank = 0xFFFFFFFF ∧ State.reset.tables.fabid = 0xFFFF ∧
  (∀ c t, State.reset.thread? c t = none) ∧ (∀ q, (State.reset.lq q).en = false)

/-! ## Exceptions -/

/-- Taking a fault (R104, R105). A code delivered to a thread outside its handler whose vector entry is nonzero writes the five fault
registers, sets HM and goes to the entry; nothing else of the thread changes. While an engine owns the line of the vector the thread waits
with its fault (R237; assumption 67). Any other case stops the thread with its fault registers as
they were and records the escalation, or sets MORE on a record that is held, which gives way to a lower slot of the same core and cycle. No
byte of memory and no other thread changes. -/
def Obligations.FaultEntry : Prop :=
  ∀ (s : State) (c t : Nat) (th : Thread) (f : Flt) (at_ : Site), s.thread? c t = some th →
    let s' := s.takeFault c t f at_
    let table : Nat := ((s.ctx th.ctx).tvb.extractLsb' 12 40).toNat * 4096 + 8 * f.code
    let entry : Dword := BitVec.ofNat 64 (leNat (s.mem.readBytes table 8))
    let wait := f.code ≠ 0x1B ∧ f.code ≠ 0x1C ∧ th.hm = false ∧ s.lineHeld noSkip table 8 = true
    let high := f.code = 0x1B ∨ f.code = 0x1C ∨ th.hm = true ∨ entry = 0 ∨ s.mem.firstBad table 8 ≠ none
    SameBytes s s' ∧ (∀ c' t', ¬ (c' = c ∧ t' = t) → s'.thread? c' t' = s.thread? c' t') ∧
    (wait → s'.thread? c t = some { th with status := .parked (.vector f.code f.faddr f.finfo at_) } ∧ s'.ctxs = s.ctxs ∧ s'.dev = s.dev) ∧
    (¬ wait → ¬ high → at_.index < 32 → f.code < 256 → ∃ th', s'.thread? c t = some th' ∧
      th'.fcause = BitVec.ofNat 32 (at_.index * 2 ^ 16 + at_.clause.toNat * 2 ^ 10 + at_.len.toNat * 2 ^ 8 + f.code) ∧
      th' = { th with fcause := th'.fcause, fpc := at_.pc, fhdr := at_.hdr, faddr := f.faddr, finfo := f.finfo, hm := true, pc := entry, res := none, status := .ready, crun := none, gap := false } ∧
      s'.ctxs = s.ctxs ∧ s'.dev = s.dev) ∧
    (¬ wait → high → ∃ th', s'.thread? c t = some th' ∧ th'.status = (if th.status = .exited then .exited else .escalated) ∧ th'.fcause = th.fcause ∧
      th'.fpc = th.fpc ∧ th'.fhdr = th.fhdr ∧ th'.faddr = th.faddr ∧ th'.finfo = th.finfo ∧ th'.hm = th.hm ∧ th'.g = th.g ∧ th'.p = th.p ∧
      let r := (s.ctx th.ctx).fault
      let now := (s.core c).cycle
      let new (more : Bool) : CtxFault :=
        { valid := true, more := more, nested := th.hm, code := f.code, slot := t, core := c, addr := f.faddr, cycle := now }
      (s'.ctx th.ctx).fault =
        (if r.valid = false then new false else if r.core = c ∧ r.cycle = now ∧ t < r.slot then new true else { r with more := true }) ∧
      s'.dev.errStat.getLsbD 10 = true)

/-- What instructions check (R77, R87, R88, R95, R100, R202, R392): a false guard leaves the state as it is, for every thread instruction;
guard 0x8 raises ILLEGAL_FIELD; a register beyond the thread's count REG_RANGE; an engine instruction in another role ROLE; a handler
register or HRET or ESCL outside a handler PRIV; and an access raises MISALIGNED, BOUNDS, BUF_PERM or a translation fault. That MSYNC
is checked as an engine instruction is the model's reading (assumption 40). -/
def Obligations.InstructionTraps : Prop :=
  ∀ (s : State) (c t : Nat) (th : Thread), s.cur = .thread c t → s.thread? c t = some th →
    let traps (i : Instr) (f : Flt) : Prop := exec i s = .next (s.takeFault c t f (s.site c th))
    let plain (i : Instr) (code : Nat) : Prop := traps i { code := code, faddr := 0, finfo := 0 }
    (∀ i r, encRaw i = some r → (r.g ≠ 8 → th.guard r.g = false → exec i s = .next s) ∧ (r.g = 8 → plain i 0x02)) ∧
    (∀ x : Alu3Args, Runs s c t th x.g → th.nregs < x.d.toNat + 1 →
      plain (.iadd x) 0x04 ∧ plain (.idiv x) 0x04 ∧ plain (.xor x) 0x04 ∧ plain (.shl x) 0x04) ∧
    (∀ x : Fp3Args, Runs s c t th x.g → th.nregs < x.a.toNat + 1 → plain (.fadd x) 0x04 ∧ plain (.fmin x) 0x04) ∧
    (∀ x : WldArgs, Runs s c t th x.h.g → FlagOf s c th x.h none → x.scaled = false → x.fmt ≠ .lns6 → regsOk th [sp1 x.a] = true →
      th.role ≠ .matrix → plain (.wld x) 0x05) ∧
    (∀ x : Bare, Runs s c t th x.g → (th.role ≠ .matrix → plain (.msync x) 0x05) ∧
      (th.hm = false → plain (.hret x) 0x06 ∧ plain (.hretSkip x) 0x06 ∧ plain (.escl x) 0x06) ∧
      (th.hm = true → th.fcause.getLsbD 10 = true ∨ th.fcause.extractLsb' 8 2 = 0 → plain (.hretSkip x) 0x02)) ∧
    (∀ x : SrArgs, Runs s c t th x.g →
      (x.r ∉ [SysReg.thstat, .csp, .cslo, .cshi] → th.hm = false → regsOk th [spSys x.r x.x] = true → plain (.srd x) 0x06 ∧ plain (.swr x) 0x06) ∧
      (x.r ∈ [SysReg.thstat, .csp, .cslo, .cshi] → plain (.swr x) 0x02)) ∧
    (∀ x : PerfrArgs, Runs s c t th x.g → 9 < x.n.toNat → plain (.perfr x) 0x02) ∧
    (∀ (x : TbarArgs) (k : Block), s.block? th.bid = some k → Runs s c t th x.g → regsOk th (sp1 x.a :: spR8 x.b) = true →
      let a := (th.reg x.a.toNat).toNat
      (a % 16 ≠ 0 → ∃ f : Flt, f.code = 0x07 ∧ traps (.tbari x) f) ∧ (a % 16 = 0 → k.desc.loc ≤ a → ∃ f : Flt, f.code = 0x08 ∧ traps (.tbari x) f)) ∧
    (∀ (x : LdArgs) fl, Runs s c t th x.h.g → FlagOf s c th x.h fl → regsOk th [spT x.t x.d, spBase x.space x.a] = true →
      let n := x.t.n / 8
      let ea := effAddr x.space (th.baseOf x.space x.a) (Off.val x.off)
      let acc := accAt x.space x.scope ea n 0
      let why (code : Nat) : Flt := { code := code, faddr := acc.ea, finfo := acc.info }
      (ea % n ≠ 0 → traps (.ld x) (why 0x07)) ∧
      (ea % n = 0 →
        (x.space ∈ [Space.loc, .wbuf, .abuf, .cbuf] → ea < 0 ∨ (s.alloc th.bid x.space : Int) ≤ ea → traps (.ld x) (why 0x08)) ∧
        (x.space = .prv → ea < 0 ∨ (th.prvSize : Int) ≤ ea → traps (.ld x) (why 0x08)) ∧
        (x.space = .glb → canonical acc.ea = false → traps (.ld x) (why 0x18)) ∧
        (x.space = .glb → canonical acc.ea = true → inAperture acc.ea = false → s.walkHeld th.ctx acc.ea = false →
          (∀ l, s.walk th.ctx acc.ea.toNat = .leaf l → leafAdmits l.entry 0 = false → traps (.ld x) (why 0x1A)) ∧
          (∀ e, s.walk th.ctx acc.ea.toNat = .absent false e → traps (.ld x) (why 0x19)) ∧
          (∀ e, s.walk th.ctx acc.ea.toNat = .poison e → traps (.ld x) (why 0x11))))) ∧
    (∀ (x : StArgs) fl, Runs s c t th x.h.g → FlagOf s c th x.h fl → regsOk th [spBase x.space x.a, spT x.t x.b] = true →
      let n := x.t.n / 8
      let ea := effAddr x.space (th.baseOf x.space x.a) (Off.val x.off)
      let acc := accAt x.space x.scope ea n 1
      ea % n = 0 → 0 ≤ ea → ea + (n : Int) ≤ s.alloc th.bid x.space → x.space ∈ [Space.wbuf, .cbuf] →
      traps (.st x) { code := 0x09, faddr := acc.ea, finfo := acc.info })

/-! ## Frames -/

/-- The frame of a register-only instruction, whether it acts or takes a fault: every register but its destinations, every predicate but
those it writes, the special, stack, flag and fault registers (fault registers but on entering the handler), every other thread and every byte
stand. -/
def Obligations.RegisterOnlyFrame : Prop :=
  ∀ (s s' : State) (c t : Nat) (th : Thread) (i : Instr) (rs ps : List Nat), s.cur = .thread c t → s.thread? c t = some th →
    registersWritten i = some (rs, ps) → exec i s = .next s' →
    SameBytes s s' ∧ (∀ c' t', ¬ (c' = c ∧ t' = t) → s'.thread? c' t' = s.thread? c' t') ∧
    ∃ th', s'.thread? c t = some th' ∧ (∀ r, r ∉ rs → th'.reg r = th.reg r) ∧ (∀ n < 8, n ∉ ps → th'.pred n = th.pred n) ∧
      keptRegisters th th' ∧ keptFaults th th'

/-- The frame of an instruction of class L of the memory, matrix and tile vector families, outside deterministic mode: as it issues, no byte,
no register and no predicate changes, and each completion flag stands or counts up by one. -/
def Obligations.IssueFrame : Prop :=
  ∀ (s s' : State) (c t : Nat) (th : Thread) (i : Instr), s.cur = .thread c t → s.thread? c t = some th → issuesOnly i = true →
    (s.ctx th.ctx).det = false → exec i s = .next s' →
    SameBytes s s' ∧ (∀ c' t', ¬ (c' = c ∧ t' = t) → s'.thread? c' t' = s.thread? c' t') ∧
    ∃ th', s'.thread? c t = some th' ∧ th'.g = th.g ∧ th'.p = th.p ∧ th'.csp = th.csp ∧ keptFaults th th' ∧
      ∀ i, th'.flagCount i = th.flagCount i ∨ th'.flagCount i = th.flagCount i + 1
end

