-- ==== Sys2Proof/Laws/State.lean ====
section
/-! SUPPORT. What each setter of State leaves unchanged, one lemma per field per setter, and what it sets. -/

namespace Sys2Proof.Machine

@[simp] theorem State.setCore_blocks (s : State) (c : Nat) (k : Core) : (s.setCore c k).blocks = s.blocks := rfl
@[simp] theorem State.setCore_launches (s : State) (c : Nat) (k : Core) : (s.setCore c k).launches = s.launches := rfl
@[simp] theorem State.setCore_ctxs (s : State) (c : Nat) (k : Core) : (s.setCore c k).ctxs = s.ctxs := rfl
@[simp] theorem State.setCore_mem (s : State) (c : Nat) (k : Core) : (s.setCore c k).mem = s.mem := rfl
@[simp] theorem State.setCore_hostMem (s : State) (c : Nat) (k : Core) : (s.setCore c k).hostMem = s.hostMem := rfl
@[simp] theorem State.setCore_l2 (s : State) (c : Nat) (k : Core) : (s.setCore c k).l2 = s.l2 := rfl
@[simp] theorem State.setCore_tlb (s : State) (c : Nat) (k : Core) : (s.setCore c k).tlb = s.tlb := rfl
@[simp] theorem State.setCore_walkers (s : State) (c : Nat) (k : Core) : (s.setCore c k).walkers = s.walkers := rfl
@[simp] theorem State.setCore_recalls (s : State) (c : Nat) (k : Core) : (s.setCore c k).recalls = s.recalls := rfl
@[simp] theorem State.setCore_lqs (s : State) (c : Nat) (k : Core) : (s.setCore c k).lqs = s.lqs := rfl
@[simp] theorem State.setCore_saves (s : State) (c : Nat) (k : Core) : (s.setCore c k).saves = s.saves := rfl
@[simp] theorem State.setCore_discards (s : State) (c : Nat) (k : Core) : (s.setCore c k).discards = s.discards := rfl
@[simp] theorem State.setCore_finals (s : State) (c : Nat) (k : Core) : (s.setCore c k).finals = s.finals := rfl
@[simp] theorem State.setCore_unplaced (s : State) (c : Nat) (k : Core) : (s.setCore c k).unplaced = s.unplaced := rfl
@[simp] theorem State.setCore_streams (s : State) (c : Nat) (k : Core) : (s.setCore c k).streams = s.streams := rfl
@[simp] theorem State.setCore_staging (s : State) (c : Nat) (k : Core) : (s.setCore c k).staging = s.staging := rfl
@[simp] theorem State.setCore_dev (s : State) (c : Nat) (k : Core) : (s.setCore c k).dev = s.dev := rfl
@[simp] theorem State.setCore_tables (s : State) (c : Nat) (k : Core) : (s.setCore c k).tables = s.tables := rfl
@[simp] theorem State.setCore_fab (s : State) (c : Nat) (k : Core) : (s.setCore c k).fab = s.fab := rfl
@[simp] theorem State.setCore_sliceCtr (s : State) (c : Nat) (k : Core) : (s.setCore c k).sliceCtr = s.sliceCtr := rfl
@[simp] theorem State.setCore_portCtr (s : State) (c : Nat) (k : Core) : (s.setCore c k).portCtr = s.portCtr := rfl
@[simp] theorem State.setCore_sent (s : State) (c : Nat) (k : Core) : (s.setCore c k).sent = s.sent := rfl
@[simp] theorem State.setCore_schedule (s : State) (c : Nat) (k : Core) : (s.setCore c k).schedule = s.schedule := rfl
@[simp] theorem State.setCore_cur (s : State) (c : Nat) (k : Core) : (s.setCore c k).cur = s.cur := rfl
@[simp] theorem State.setCore_fresh (s : State) (c : Nat) (k : Core) : (s.setCore c k).fresh = s.fresh := rfl
@[simp] theorem State.setCore_uid (s : State) (c : Nat) (k : Core) : (s.setCore c k).uid = s.uid := rfl
@[simp] theorem State.setCore_rot (s : State) (c : Nat) (k : Core) : (s.setCore c k).rot = s.rot := rfl
@[simp] theorem State.setCore_hostHalves (s : State) (c : Nat) (k : Core) : (s.setCore c k).hostHalves = s.hostHalves := rfl
@[simp] theorem State.setCore_hiFirst (s : State) (c : Nat) (k : Core) : (s.setCore c k).hiFirst = s.hiFirst := rfl

@[simp] theorem State.setThread_blocks (s : State) (c t : Nat) (th : Thread) : (s.setThread c t th).blocks = s.blocks := rfl
@[simp] theorem State.setThread_launches (s : State) (c t : Nat) (th : Thread) : (s.setThread c t th).launches = s.launches := rfl
@[simp] theorem State.setThread_ctxs (s : State) (c t : Nat) (th : Thread) : (s.setThread c t th).ctxs = s.ctxs := rfl
@[simp] theorem State.setThread_mem (s : State) (c t : Nat) (th : Thread) : (s.setThread c t th).mem = s.mem := rfl
@[simp] theorem State.setThread_hostMem (s : State) (c t : Nat) (th : Thread) : (s.setThread c t th).hostMem = s.hostMem := rfl
@[simp] theorem State.setThread_l2 (s : State) (c t : Nat) (th : Thread) : (s.setThread c t th).l2 = s.l2 := rfl
@[simp] theorem State.setThread_tlb (s : State) (c t : Nat) (th : Thread) : (s.setThread c t th).tlb = s.tlb := rfl
@[simp] theorem State.setThread_walkers (s : State) (c t : Nat) (th : Thread) : (s.setThread c t th).walkers = s.walkers := rfl
@[simp] theorem State.setThread_recalls (s : State) (c t : Nat) (th : Thread) : (s.setThread c t th).recalls = s.recalls := rfl
@[simp] theorem State.setThread_lqs (s : State) (c t : Nat) (th : Thread) : (s.setThread c t th).lqs = s.lqs := rfl
@[simp] theorem State.setThread_saves (s : State) (c t : Nat) (th : Thread) : (s.setThread c t th).saves = s.saves := rfl
@[simp] theorem State.setThread_discards (s : State) (c t : Nat) (th : Thread) : (s.setThread c t th).discards = s.discards := rfl
@[simp] theorem State.setThread_finals (s : State) (c t : Nat) (th : Thread) : (s.setThread c t th).finals = s.finals := rfl
@[simp] theorem State.setThread_unplaced (s : State) (c t : Nat) (th : Thread) : (s.setThread c t th).unplaced = s.unplaced := rfl
@[simp] theorem State.setThread_streams (s : State) (c t : Nat) (th : Thread) : (s.setThread c t th).streams = s.streams := rfl
@[simp] theorem State.setThread_staging (s : State) (c t : Nat) (th : Thread) : (s.setThread c t th).staging = s.staging := rfl
@[simp] theorem State.setThread_dev (s : State) (c t : Nat) (th : Thread) : (s.setThread c t th).dev = s.dev := rfl
@[simp] theorem State.setThread_tables (s : State) (c t : Nat) (th : Thread) : (s.setThread c t th).tables = s.tables := rfl
@[simp] theorem State.setThread_fab (s : State) (c t : Nat) (th : Thread) : (s.setThread c t th).fab = s.fab := rfl
@[simp] theorem State.setThread_sliceCtr (s : State) (c t : Nat) (th : Thread) : (s.setThread c t th).sliceCtr = s.sliceCtr := rfl
@[simp] theorem State.setThread_portCtr (s : State) (c t : Nat) (th : Thread) : (s.setThread c t th).portCtr = s.portCtr := rfl
@[simp] theorem State.setThread_sent (s : State) (c t : Nat) (th : Thread) : (s.setThread c t th).sent = s.sent := rfl
@[simp] theorem State.setThread_schedule (s : State) (c t : Nat) (th : Thread) : (s.setThread c t th).schedule = s.schedule := rfl
@[simp] theorem State.setThread_cur (s : State) (c t : Nat) (th : Thread) : (s.setThread c t th).cur = s.cur := rfl
@[simp] theorem State.setThread_fresh (s : State) (c t : Nat) (th : Thread) : (s.setThread c t th).fresh = s.fresh := rfl
@[simp] theorem State.setThread_uid (s : State) (c t : Nat) (th : Thread) : (s.setThread c t th).uid = s.uid := rfl
@[simp] theorem State.setThread_rot (s : State) (c t : Nat) (th : Thread) : (s.setThread c t th).rot = s.rot := rfl
@[simp] theorem State.setThread_hostHalves (s : State) (c t : Nat) (th : Thread) : (s.setThread c t th).hostHalves = s.hostHalves := rfl
@[simp] theorem State.setThread_hiFirst (s : State) (c t : Nat) (th : Thread) : (s.setThread c t th).hiFirst = s.hiFirst := rfl

@[simp] theorem State.setCtx_cores (s : State) (i : Nat) (x : Ctx) : (s.setCtx i x).cores = s.cores := rfl
@[simp] theorem State.setCtx_blocks (s : State) (i : Nat) (x : Ctx) : (s.setCtx i x).blocks = s.blocks := rfl
@[simp] theorem State.setCtx_launches (s : State) (i : Nat) (x : Ctx) : (s.setCtx i x).launches = s.launches := rfl
@[simp] theorem State.setCtx_mem (s : State) (i : Nat) (x : Ctx) : (s.setCtx i x).mem = s.mem := rfl
@[simp] theorem State.setCtx_hostMem (s : State) (i : Nat) (x : Ctx) : (s.setCtx i x).hostMem = s.hostMem := rfl
@[simp] theorem State.setCtx_l2 (s : State) (i : Nat) (x : Ctx) : (s.setCtx i x).l2 = s.l2 := rfl
@[simp] theorem State.setCtx_tlb (s : State) (i : Nat) (x : Ctx) : (s.setCtx i x).tlb = s.tlb := rfl
@[simp] theorem State.setCtx_walkers (s : State) (i : Nat) (x : Ctx) : (s.setCtx i x).walkers = s.walkers := rfl
@[simp] theorem State.setCtx_recalls (s : State) (i : Nat) (x : Ctx) : (s.setCtx i x).recalls = s.recalls := rfl
@[simp] theorem State.setCtx_lqs (s : State) (i : Nat) (x : Ctx) : (s.setCtx i x).lqs = s.lqs := rfl
@[simp] theorem State.setCtx_saves (s : State) (i : Nat) (x : Ctx) : (s.setCtx i x).saves = s.saves := rfl
@[simp] theorem State.setCtx_discards (s : State) (i : Nat) (x : Ctx) : (s.setCtx i x).discards = s.discards := rfl
@[simp] theorem State.setCtx_finals (s : State) (i : Nat) (x : Ctx) : (s.setCtx i x).finals = s.finals := rfl
@[simp] theorem State.setCtx_unplaced (s : State) (i : Nat) (x : Ctx) : (s.setCtx i x).unplaced = s.unplaced := rfl
@[simp] theorem State.setCtx_streams (s : State) (i : Nat) (x : Ctx) : (s.setCtx i x).streams = s.streams := rfl
@[simp] theorem State.setCtx_staging (s : State) (i : Nat) (x : Ctx) : (s.setCtx i x).staging = s.staging := rfl
@[simp] theorem State.setCtx_dev (s : State) (i : Nat) (x : Ctx) : (s.setCtx i x).dev = s.dev := rfl
@[simp] theorem State.setCtx_tables (s : State) (i : Nat) (x : Ctx) : (s.setCtx i x).tables = s.tables := rfl
@[simp] theorem State.setCtx_fab (s : State) (i : Nat) (x : Ctx) : (s.setCtx i x).fab = s.fab := rfl
@[simp] theorem State.setCtx_sliceCtr (s : State) (i : Nat) (x : Ctx) : (s.setCtx i x).sliceCtr = s.sliceCtr := rfl
@[simp] theorem State.setCtx_portCtr (s : State) (i : Nat) (x : Ctx) : (s.setCtx i x).portCtr = s.portCtr := rfl
@[simp] theorem State.setCtx_sent (s : State) (i : Nat) (x : Ctx) : (s.setCtx i x).sent = s.sent := rfl
@[simp] theorem State.setCtx_schedule (s : State) (i : Nat) (x : Ctx) : (s.setCtx i x).schedule = s.schedule := rfl
@[simp] theorem State.setCtx_cur (s : State) (i : Nat) (x : Ctx) : (s.setCtx i x).cur = s.cur := rfl
@[simp] theorem State.setCtx_fresh (s : State) (i : Nat) (x : Ctx) : (s.setCtx i x).fresh = s.fresh := rfl
@[simp] theorem State.setCtx_uid (s : State) (i : Nat) (x : Ctx) : (s.setCtx i x).uid = s.uid := rfl
@[simp] theorem State.setCtx_rot (s : State) (i : Nat) (x : Ctx) : (s.setCtx i x).rot = s.rot := rfl
@[simp] theorem State.setCtx_hostHalves (s : State) (i : Nat) (x : Ctx) : (s.setCtx i x).hostHalves = s.hostHalves := rfl
@[simp] theorem State.setCtx_hiFirst (s : State) (i : Nat) (x : Ctx) : (s.setCtx i x).hiFirst = s.hiFirst := rfl

@[simp] theorem State.setBlock_cores (s : State) (k : Block) : (s.setBlock k).cores = s.cores := rfl
@[simp] theorem State.setBlock_launches (s : State) (k : Block) : (s.setBlock k).launches = s.launches := rfl
@[simp] theorem State.setBlock_ctxs (s : State) (k : Block) : (s.setBlock k).ctxs = s.ctxs := rfl
@[simp] theorem State.setBlock_mem (s : State) (k : Block) : (s.setBlock k).mem = s.mem := rfl
@[simp] theorem State.setBlock_hostMem (s : State) (k : Block) : (s.setBlock k).hostMem = s.hostMem := rfl
@[simp] theorem State.setBlock_l2 (s : State) (k : Block) : (s.setBlock k).l2 = s.l2 := rfl
@[simp] theorem State.setBlock_tlb (s : State) (k : Block) : (s.setBlock k).tlb = s.tlb := rfl
@[simp] theorem State.setBlock_walkers (s : State) (k : Block) : (s.setBlock k).walkers = s.walkers := rfl
@[simp] theorem State.setBlock_recalls (s : State) (k : Block) : (s.setBlock k).recalls = s.recalls := rfl
@[simp] theorem State.setBlock_lqs (s : State) (k : Block) : (s.setBlock k).lqs = s.lqs := rfl
@[simp] theorem State.setBlock_saves (s : State) (k : Block) : (s.setBlock k).saves = s.saves := rfl
@[simp] theorem State.setBlock_discards (s : State) (k : Block) : (s.setBlock k).discards = s.discards := rfl
@[simp] theorem State.setBlock_finals (s : State) (k : Block) : (s.setBlock k).finals = s.finals := rfl
@[simp] theorem State.setBlock_unplaced (s : State) (k : Block) : (s.setBlock k).unplaced = s.unplaced := rfl
@[simp] theorem State.setBlock_streams (s : State) (k : Block) : (s.setBlock k).streams = s.streams := rfl
@[simp] theorem State.setBlock_staging (s : State) (k : Block) : (s.setBlock k).staging = s.staging := rfl
@[simp] theorem State.setBlock_dev (s : State) (k : Block) : (s.setBlock k).dev = s.dev := rfl
@[simp] theorem State.setBlock_tables (s : State) (k : Block) : (s.setBlock k).tables = s.tables := rfl
@[simp] theorem State.setBlock_fab (s : State) (k : Block) : (s.setBlock k).fab = s.fab := rfl
@[simp] theorem State.setBlock_sliceCtr (s : State) (k : Block) : (s.setBlock k).sliceCtr = s.sliceCtr := rfl
@[simp] theorem State.setBlock_portCtr (s : State) (k : Block) : (s.setBlock k).portCtr = s.portCtr := rfl
@[simp] theorem State.setBlock_sent (s : State) (k : Block) : (s.setBlock k).sent = s.sent := rfl
@[simp] theorem State.setBlock_schedule (s : State) (k : Block) : (s.setBlock k).schedule = s.schedule := rfl
@[simp] theorem State.setBlock_cur (s : State) (k : Block) : (s.setBlock k).cur = s.cur := rfl
@[simp] theorem State.setBlock_fresh (s : State) (k : Block) : (s.setBlock k).fresh = s.fresh := rfl
@[simp] theorem State.setBlock_uid (s : State) (k : Block) : (s.setBlock k).uid = s.uid := rfl
@[simp] theorem State.setBlock_rot (s : State) (k : Block) : (s.setBlock k).rot = s.rot := rfl
@[simp] theorem State.setBlock_hostHalves (s : State) (k : Block) : (s.setBlock k).hostHalves = s.hostHalves := rfl
@[simp] theorem State.setBlock_hiFirst (s : State) (k : Block) : (s.setBlock k).hiFirst = s.hiFirst := rfl

@[simp] theorem State.setLaunch_cores (s : State) (l : Launch) : (s.setLaunch l).cores = s.cores := rfl
@[simp] theorem State.setLaunch_blocks (s : State) (l : Launch) : (s.setLaunch l).blocks = s.blocks := rfl
@[simp] theorem State.setLaunch_ctxs (s : State) (l : Launch) : (s.setLaunch l).ctxs = s.ctxs := rfl
@[simp] theorem State.setLaunch_mem (s : State) (l : Launch) : (s.setLaunch l).mem = s.mem := rfl
@[simp] theorem State.setLaunch_hostMem (s : State) (l : Launch) : (s.setLaunch l).hostMem = s.hostMem := rfl
@[simp] theorem State.setLaunch_l2 (s : State) (l : Launch) : (s.setLaunch l).l2 = s.l2 := rfl
@[simp] theorem State.setLaunch_tlb (s : State) (l : Launch) : (s.setLaunch l).tlb = s.tlb := rfl
@[simp] theorem State.setLaunch_walkers (s : State) (l : Launch) : (s.setLaunch l).walkers = s.walkers := rfl
@[simp] theorem State.setLaunch_recalls (s : State) (l : Launch) : (s.setLaunch l).recalls = s.recalls := rfl
@[simp] theorem State.setLaunch_lqs (s : State) (l : Launch) : (s.setLaunch l).lqs = s.lqs := rfl
@[simp] theorem State.setLaunch_saves (s : State) (l : Launch) : (s.setLaunch l).saves = s.saves := rfl
@[simp] theorem State.setLaunch_discards (s : State) (l : Launch) : (s.setLaunch l).discards = s.discards := rfl
@[simp] theorem State.setLaunch_finals (s : State) (l : Launch) : (s.setLaunch l).finals = s.finals := rfl
@[simp] theorem State.setLaunch_unplaced (s : State) (l : Launch) : (s.setLaunch l).unplaced = s.unplaced := rfl
@[simp] theorem State.setLaunch_streams (s : State) (l : Launch) : (s.setLaunch l).streams = s.streams := rfl
@[simp] theorem State.setLaunch_staging (s : State) (l : Launch) : (s.setLaunch l).staging = s.staging := rfl
@[simp] theorem State.setLaunch_dev (s : State) (l : Launch) : (s.setLaunch l).dev = s.dev := rfl
@[simp] theorem State.setLaunch_tables (s : State) (l : Launch) : (s.setLaunch l).tables = s.tables := rfl
@[simp] theorem State.setLaunch_fab (s : State) (l : Launch) : (s.setLaunch l).fab = s.fab := rfl
@[simp] theorem State.setLaunch_sliceCtr (s : State) (l : Launch) : (s.setLaunch l).sliceCtr = s.sliceCtr := rfl
@[simp] theorem State.setLaunch_portCtr (s : State) (l : Launch) : (s.setLaunch l).portCtr = s.portCtr := rfl
@[simp] theorem State.setLaunch_sent (s : State) (l : Launch) : (s.setLaunch l).sent = s.sent := rfl
@[simp] theorem State.setLaunch_schedule (s : State) (l : Launch) : (s.setLaunch l).schedule = s.schedule := rfl
@[simp] theorem State.setLaunch_cur (s : State) (l : Launch) : (s.setLaunch l).cur = s.cur := rfl
@[simp] theorem State.setLaunch_fresh (s : State) (l : Launch) : (s.setLaunch l).fresh = s.fresh := rfl
@[simp] theorem State.setLaunch_uid (s : State) (l : Launch) : (s.setLaunch l).uid = s.uid := rfl
@[simp] theorem State.setLaunch_rot (s : State) (l : Launch) : (s.setLaunch l).rot = s.rot := rfl
@[simp] theorem State.setLaunch_hostHalves (s : State) (l : Launch) : (s.setLaunch l).hostHalves = s.hostHalves := rfl
@[simp] theorem State.setLaunch_hiFirst (s : State) (l : Launch) : (s.setLaunch l).hiFirst = s.hiFirst := rfl

@[simp] theorem State.setLq_cores (s : State) (q : Nat) (x : LQ) : (s.setLq q x).cores = s.cores := rfl
@[simp] theorem State.setLq_blocks (s : State) (q : Nat) (x : LQ) : (s.setLq q x).blocks = s.blocks := rfl
@[simp] theorem State.setLq_launches (s : State) (q : Nat) (x : LQ) : (s.setLq q x).launches = s.launches := rfl
@[simp] theorem State.setLq_ctxs (s : State) (q : Nat) (x : LQ) : (s.setLq q x).ctxs = s.ctxs := rfl
@[simp] theorem State.setLq_mem (s : State) (q : Nat) (x : LQ) : (s.setLq q x).mem = s.mem := rfl
@[simp] theorem State.setLq_hostMem (s : State) (q : Nat) (x : LQ) : (s.setLq q x).hostMem = s.hostMem := rfl
@[simp] theorem State.setLq_l2 (s : State) (q : Nat) (x : LQ) : (s.setLq q x).l2 = s.l2 := rfl
@[simp] theorem State.setLq_tlb (s : State) (q : Nat) (x : LQ) : (s.setLq q x).tlb = s.tlb := rfl
@[simp] theorem State.setLq_walkers (s : State) (q : Nat) (x : LQ) : (s.setLq q x).walkers = s.walkers := rfl
@[simp] theorem State.setLq_recalls (s : State) (q : Nat) (x : LQ) : (s.setLq q x).recalls = s.recalls := rfl
@[simp] theorem State.setLq_saves (s : State) (q : Nat) (x : LQ) : (s.setLq q x).saves = s.saves := rfl
@[simp] theorem State.setLq_discards (s : State) (q : Nat) (x : LQ) : (s.setLq q x).discards = s.discards := rfl
@[simp] theorem State.setLq_finals (s : State) (q : Nat) (x : LQ) : (s.setLq q x).finals = s.finals := rfl
@[simp] theorem State.setLq_unplaced (s : State) (q : Nat) (x : LQ) : (s.setLq q x).unplaced = s.unplaced := rfl
@[simp] theorem State.setLq_streams (s : State) (q : Nat) (x : LQ) : (s.setLq q x).streams = s.streams := rfl
@[simp] theorem State.setLq_staging (s : State) (q : Nat) (x : LQ) : (s.setLq q x).staging = s.staging := rfl
@[simp] theorem State.setLq_dev (s : State) (q : Nat) (x : LQ) : (s.setLq q x).dev = s.dev := rfl
@[simp] theorem State.setLq_tables (s : State) (q : Nat) (x : LQ) : (s.setLq q x).tables = s.tables := rfl
@[simp] theorem State.setLq_fab (s : State) (q : Nat) (x : LQ) : (s.setLq q x).fab = s.fab := rfl
@[simp] theorem State.setLq_sliceCtr (s : State) (q : Nat) (x : LQ) : (s.setLq q x).sliceCtr = s.sliceCtr := rfl
@[simp] theorem State.setLq_portCtr (s : State) (q : Nat) (x : LQ) : (s.setLq q x).portCtr = s.portCtr := rfl
@[simp] theorem State.setLq_sent (s : State) (q : Nat) (x : LQ) : (s.setLq q x).sent = s.sent := rfl
@[simp] theorem State.setLq_schedule (s : State) (q : Nat) (x : LQ) : (s.setLq q x).schedule = s.schedule := rfl
@[simp] theorem State.setLq_cur (s : State) (q : Nat) (x : LQ) : (s.setLq q x).cur = s.cur := rfl
@[simp] theorem State.setLq_fresh (s : State) (q : Nat) (x : LQ) : (s.setLq q x).fresh = s.fresh := rfl
@[simp] theorem State.setLq_uid (s : State) (q : Nat) (x : LQ) : (s.setLq q x).uid = s.uid := rfl
@[simp] theorem State.setLq_rot (s : State) (q : Nat) (x : LQ) : (s.setLq q x).rot = s.rot := rfl
@[simp] theorem State.setLq_hostHalves (s : State) (q : Nat) (x : LQ) : (s.setLq q x).hostHalves = s.hostHalves := rfl
@[simp] theorem State.setLq_hiFirst (s : State) (q : Nat) (x : LQ) : (s.setLq q x).hiFirst = s.hiFirst := rfl

@[simp] theorem State.setStream_cores (s : State) (l k : Nat) (x : Stream) : (s.setStream l k x).cores = s.cores := rfl
@[simp] theorem State.setStream_blocks (s : State) (l k : Nat) (x : Stream) : (s.setStream l k x).blocks = s.blocks := rfl
@[simp] theorem State.setStream_launches (s : State) (l k : Nat) (x : Stream) : (s.setStream l k x).launches = s.launches := rfl
@[simp] theorem State.setStream_ctxs (s : State) (l k : Nat) (x : Stream) : (s.setStream l k x).ctxs = s.ctxs := rfl
@[simp] theorem State.setStream_mem (s : State) (l k : Nat) (x : Stream) : (s.setStream l k x).mem = s.mem := rfl
@[simp] theorem State.setStream_hostMem (s : State) (l k : Nat) (x : Stream) : (s.setStream l k x).hostMem = s.hostMem := rfl
@[simp] theorem State.setStream_l2 (s : State) (l k : Nat) (x : Stream) : (s.setStream l k x).l2 = s.l2 := rfl
@[simp] theorem State.setStream_tlb (s : State) (l k : Nat) (x : Stream) : (s.setStream l k x).tlb = s.tlb := rfl
@[simp] theorem State.setStream_walkers (s : State) (l k : Nat) (x : Stream) : (s.setStream l k x).walkers = s.walkers := rfl
@[simp] theorem State.setStream_recalls (s : State) (l k : Nat) (x : Stream) : (s.setStream l k x).recalls = s.recalls := rfl
@[simp] theorem State.setStream_lqs (s : State) (l k : Nat) (x : Stream) : (s.setStream l k x).lqs = s.lqs := rfl
@[simp] theorem State.setStream_saves (s : State) (l k : Nat) (x : Stream) : (s.setStream l k x).saves = s.saves := rfl
@[simp] theorem State.setStream_discards (s : State) (l k : Nat) (x : Stream) : (s.setStream l k x).discards = s.discards := rfl
@[simp] theorem State.setStream_finals (s : State) (l k : Nat) (x : Stream) : (s.setStream l k x).finals = s.finals := rfl
@[simp] theorem State.setStream_unplaced (s : State) (l k : Nat) (x : Stream) : (s.setStream l k x).unplaced = s.unplaced := rfl
@[simp] theorem State.setStream_staging (s : State) (l k : Nat) (x : Stream) : (s.setStream l k x).staging = s.staging := rfl
@[simp] theorem State.setStream_dev (s : State) (l k : Nat) (x : Stream) : (s.setStream l k x).dev = s.dev := rfl
@[simp] theorem State.setStream_tables (s : State) (l k : Nat) (x : Stream) : (s.setStream l k x).tables = s.tables := rfl
@[simp] theorem State.setStream_fab (s : State) (l k : Nat) (x : Stream) : (s.setStream l k x).fab = s.fab := rfl
@[simp] theorem State.setStream_sliceCtr (s : State) (l k : Nat) (x : Stream) : (s.setStream l k x).sliceCtr = s.sliceCtr := rfl
@[simp] theorem State.setStream_portCtr (s : State) (l k : Nat) (x : Stream) : (s.setStream l k x).portCtr = s.portCtr := rfl
@[simp] theorem State.setStream_sent (s : State) (l k : Nat) (x : Stream) : (s.setStream l k x).sent = s.sent := rfl
@[simp] theorem State.setStream_schedule (s : State) (l k : Nat) (x : Stream) : (s.setStream l k x).schedule = s.schedule := rfl
@[simp] theorem State.setStream_cur (s : State) (l k : Nat) (x : Stream) : (s.setStream l k x).cur = s.cur := rfl
@[simp] theorem State.setStream_fresh (s : State) (l k : Nat) (x : Stream) : (s.setStream l k x).fresh = s.fresh := rfl
@[simp] theorem State.setStream_uid (s : State) (l k : Nat) (x : Stream) : (s.setStream l k x).uid = s.uid := rfl
@[simp] theorem State.setStream_rot (s : State) (l k : Nat) (x : Stream) : (s.setStream l k x).rot = s.rot := rfl
@[simp] theorem State.setStream_hostHalves (s : State) (l k : Nat) (x : Stream) : (s.setStream l k x).hostHalves = s.hostHalves := rfl
@[simp] theorem State.setStream_hiFirst (s : State) (l k : Nat) (x : Stream) : (s.setStream l k x).hiFirst = s.hiFirst := rfl

@[simp] theorem State.nextUid_cores (s : State) : (s.nextUid).cores = s.cores := rfl
@[simp] theorem State.nextUid_blocks (s : State) : (s.nextUid).blocks = s.blocks := rfl
@[simp] theorem State.nextUid_launches (s : State) : (s.nextUid).launches = s.launches := rfl
@[simp] theorem State.nextUid_ctxs (s : State) : (s.nextUid).ctxs = s.ctxs := rfl
@[simp] theorem State.nextUid_mem (s : State) : (s.nextUid).mem = s.mem := rfl
@[simp] theorem State.nextUid_hostMem (s : State) : (s.nextUid).hostMem = s.hostMem := rfl
@[simp] theorem State.nextUid_l2 (s : State) : (s.nextUid).l2 = s.l2 := rfl
@[simp] theorem State.nextUid_tlb (s : State) : (s.nextUid).tlb = s.tlb := rfl
@[simp] theorem State.nextUid_walkers (s : State) : (s.nextUid).walkers = s.walkers := rfl
@[simp] theorem State.nextUid_recalls (s : State) : (s.nextUid).recalls = s.recalls := rfl
@[simp] theorem State.nextUid_lqs (s : State) : (s.nextUid).lqs = s.lqs := rfl
@[simp] theorem State.nextUid_saves (s : State) : (s.nextUid).saves = s.saves := rfl
@[simp] theorem State.nextUid_discards (s : State) : (s.nextUid).discards = s.discards := rfl
@[simp] theorem State.nextUid_finals (s : State) : (s.nextUid).finals = s.finals := rfl
@[simp] theorem State.nextUid_unplaced (s : State) : (s.nextUid).unplaced = s.unplaced := rfl
@[simp] theorem State.nextUid_streams (s : State) : (s.nextUid).streams = s.streams := rfl
@[simp] theorem State.nextUid_staging (s : State) : (s.nextUid).staging = s.staging := rfl
@[simp] theorem State.nextUid_dev (s : State) : (s.nextUid).dev = s.dev := rfl
@[simp] theorem State.nextUid_tables (s : State) : (s.nextUid).tables = s.tables := rfl
@[simp] theorem State.nextUid_fab (s : State) : (s.nextUid).fab = s.fab := rfl
@[simp] theorem State.nextUid_sliceCtr (s : State) : (s.nextUid).sliceCtr = s.sliceCtr := rfl
@[simp] theorem State.nextUid_portCtr (s : State) : (s.nextUid).portCtr = s.portCtr := rfl
@[simp] theorem State.nextUid_sent (s : State) : (s.nextUid).sent = s.sent := rfl
@[simp] theorem State.nextUid_schedule (s : State) : (s.nextUid).schedule = s.schedule := rfl
@[simp] theorem State.nextUid_cur (s : State) : (s.nextUid).cur = s.cur := rfl
@[simp] theorem State.nextUid_fresh (s : State) : (s.nextUid).fresh = s.fresh := rfl
@[simp] theorem State.nextUid_rot (s : State) : (s.nextUid).rot = s.rot := rfl
@[simp] theorem State.nextUid_hostHalves (s : State) : (s.nextUid).hostHalves = s.hostHalves := rfl
@[simp] theorem State.nextUid_hiFirst (s : State) : (s.nextUid).hiFirst = s.hiFirst := rfl

@[simp] theorem State.nextFresh_cores (s : State) : (s.nextFresh).cores = s.cores := rfl
@[simp] theorem State.nextFresh_blocks (s : State) : (s.nextFresh).blocks = s.blocks := rfl
@[simp] theorem State.nextFresh_launches (s : State) : (s.nextFresh).launches = s.launches := rfl
@[simp] theorem State.nextFresh_ctxs (s : State) : (s.nextFresh).ctxs = s.ctxs := rfl
@[simp] theorem State.nextFresh_mem (s : State) : (s.nextFresh).mem = s.mem := rfl
@[simp] theorem State.nextFresh_hostMem (s : State) : (s.nextFresh).hostMem = s.hostMem := rfl
@[simp] theorem State.nextFresh_l2 (s : State) : (s.nextFresh).l2 = s.l2 := rfl
@[simp] theorem State.nextFresh_tlb (s : State) : (s.nextFresh).tlb = s.tlb := rfl
@[simp] theorem State.nextFresh_walkers (s : State) : (s.nextFresh).walkers = s.walkers := rfl
@[simp] theorem State.nextFresh_recalls (s : State) : (s.nextFresh).recalls = s.recalls := rfl
@[simp] theorem State.nextFresh_lqs (s : State) : (s.nextFresh).lqs = s.lqs := rfl
@[simp] theorem State.nextFresh_saves (s : State) : (s.nextFresh).saves = s.saves := rfl
@[simp] theorem State.nextFresh_discards (s : State) : (s.nextFresh).discards = s.discards := rfl
@[simp] theorem State.nextFresh_finals (s : State) : (s.nextFresh).finals = s.finals := rfl
@[simp] theorem State.nextFresh_unplaced (s : State) : (s.nextFresh).unplaced = s.unplaced := rfl
@[simp] theorem State.nextFresh_streams (s : State) : (s.nextFresh).streams = s.streams := rfl
@[simp] theorem State.nextFresh_staging (s : State) : (s.nextFresh).staging = s.staging := rfl
@[simp] theorem State.nextFresh_dev (s : State) : (s.nextFresh).dev = s.dev := rfl
@[simp] theorem State.nextFresh_tables (s : State) : (s.nextFresh).tables = s.tables := rfl
@[simp] theorem State.nextFresh_fab (s : State) : (s.nextFresh).fab = s.fab := rfl
@[simp] theorem State.nextFresh_sliceCtr (s : State) : (s.nextFresh).sliceCtr = s.sliceCtr := rfl
@[simp] theorem State.nextFresh_portCtr (s : State) : (s.nextFresh).portCtr = s.portCtr := rfl
@[simp] theorem State.nextFresh_sent (s : State) : (s.nextFresh).sent = s.sent := rfl
@[simp] theorem State.nextFresh_schedule (s : State) : (s.nextFresh).schedule = s.schedule := rfl
@[simp] theorem State.nextFresh_cur (s : State) : (s.nextFresh).cur = s.cur := rfl
@[simp] theorem State.nextFresh_uid (s : State) : (s.nextFresh).uid = s.uid := rfl
@[simp] theorem State.nextFresh_rot (s : State) : (s.nextFresh).rot = s.rot := rfl
@[simp] theorem State.nextFresh_hostHalves (s : State) : (s.nextFresh).hostHalves = s.hostHalves := rfl
@[simp] theorem State.nextFresh_hiFirst (s : State) : (s.nextFresh).hiFirst = s.hiFirst := rfl

@[simp] theorem State.l1Invalidate_blocks (s : State) (c : Nat) : (s.l1Invalidate c).blocks = s.blocks := rfl
@[simp] theorem State.l1Invalidate_launches (s : State) (c : Nat) : (s.l1Invalidate c).launches = s.launches := rfl
@[simp] theorem State.l1Invalidate_ctxs (s : State) (c : Nat) : (s.l1Invalidate c).ctxs = s.ctxs := rfl
@[simp] theorem State.l1Invalidate_mem (s : State) (c : Nat) : (s.l1Invalidate c).mem = s.mem := rfl
@[simp] theorem State.l1Invalidate_hostMem (s : State) (c : Nat) : (s.l1Invalidate c).hostMem = s.hostMem := rfl
@[simp] theorem State.l1Invalidate_l2 (s : State) (c : Nat) : (s.l1Invalidate c).l2 = s.l2 := rfl
@[simp] theorem State.l1Invalidate_tlb (s : State) (c : Nat) : (s.l1Invalidate c).tlb = s.tlb := rfl
@[simp] theorem State.l1Invalidate_walkers (s : State) (c : Nat) : (s.l1Invalidate c).walkers = s.walkers := rfl
@[simp] theorem State.l1Invalidate_recalls (s : State) (c : Nat) : (s.l1Invalidate c).recalls = s.recalls := rfl
@[simp] theorem State.l1Invalidate_lqs (s : State) (c : Nat) : (s.l1Invalidate c).lqs = s.lqs := rfl
@[simp] theorem State.l1Invalidate_saves (s : State) (c : Nat) : (s.l1Invalidate c).saves = s.saves := rfl
@[simp] theorem State.l1Invalidate_discards (s : State) (c : Nat) : (s.l1Invalidate c).discards = s.discards := rfl
@[simp] theorem State.l1Invalidate_finals (s : State) (c : Nat) : (s.l1Invalidate c).finals = s.finals := rfl
@[simp] theorem State.l1Invalidate_unplaced (s : State) (c : Nat) : (s.l1Invalidate c).unplaced = s.unplaced := rfl
@[simp] theorem State.l1Invalidate_streams (s : State) (c : Nat) : (s.l1Invalidate c).streams = s.streams := rfl
@[simp] theorem State.l1Invalidate_staging (s : State) (c : Nat) : (s.l1Invalidate c).staging = s.staging := rfl
@[simp] theorem State.l1Invalidate_dev (s : State) (c : Nat) : (s.l1Invalidate c).dev = s.dev := rfl
@[simp] theorem State.l1Invalidate_tables (s : State) (c : Nat) : (s.l1Invalidate c).tables = s.tables := rfl
@[simp] theorem State.l1Invalidate_fab (s : State) (c : Nat) : (s.l1Invalidate c).fab = s.fab := rfl
@[simp] theorem State.l1Invalidate_sliceCtr (s : State) (c : Nat) : (s.l1Invalidate c).sliceCtr = s.sliceCtr := rfl
@[simp] theorem State.l1Invalidate_portCtr (s : State) (c : Nat) : (s.l1Invalidate c).portCtr = s.portCtr := rfl
@[simp] theorem State.l1Invalidate_sent (s : State) (c : Nat) : (s.l1Invalidate c).sent = s.sent := rfl
@[simp] theorem State.l1Invalidate_schedule (s : State) (c : Nat) : (s.l1Invalidate c).schedule = s.schedule := rfl
@[simp] theorem State.l1Invalidate_cur (s : State) (c : Nat) : (s.l1Invalidate c).cur = s.cur := rfl
@[simp] theorem State.l1Invalidate_fresh (s : State) (c : Nat) : (s.l1Invalidate c).fresh = s.fresh := rfl
@[simp] theorem State.l1Invalidate_uid (s : State) (c : Nat) : (s.l1Invalidate c).uid = s.uid := rfl
@[simp] theorem State.l1Invalidate_rot (s : State) (c : Nat) : (s.l1Invalidate c).rot = s.rot := rfl
@[simp] theorem State.l1Invalidate_hostHalves (s : State) (c : Nat) : (s.l1Invalidate c).hostHalves = s.hostHalves := rfl
@[simp] theorem State.l1Invalidate_hiFirst (s : State) (c : Nat) : (s.l1Invalidate c).hiFirst = s.hiFirst := rfl

@[simp] theorem State.leaveGang_blocks (s : State) (c t : Nat) : (s.leaveGang c t).blocks = s.blocks := rfl
@[simp] theorem State.leaveGang_launches (s : State) (c t : Nat) : (s.leaveGang c t).launches = s.launches := rfl
@[simp] theorem State.leaveGang_ctxs (s : State) (c t : Nat) : (s.leaveGang c t).ctxs = s.ctxs := rfl
@[simp] theorem State.leaveGang_mem (s : State) (c t : Nat) : (s.leaveGang c t).mem = s.mem := rfl
@[simp] theorem State.leaveGang_hostMem (s : State) (c t : Nat) : (s.leaveGang c t).hostMem = s.hostMem := rfl
@[simp] theorem State.leaveGang_l2 (s : State) (c t : Nat) : (s.leaveGang c t).l2 = s.l2 := rfl
@[simp] theorem State.leaveGang_tlb (s : State) (c t : Nat) : (s.leaveGang c t).tlb = s.tlb := rfl
@[simp] theorem State.leaveGang_walkers (s : State) (c t : Nat) : (s.leaveGang c t).walkers = s.walkers := rfl
@[simp] theorem State.leaveGang_recalls (s : State) (c t : Nat) : (s.leaveGang c t).recalls = s.recalls := rfl
@[simp] theorem State.leaveGang_lqs (s : State) (c t : Nat) : (s.leaveGang c t).lqs = s.lqs := rfl
@[simp] theorem State.leaveGang_saves (s : State) (c t : Nat) : (s.leaveGang c t).saves = s.saves := rfl
@[simp] theorem State.leaveGang_discards (s : State) (c t : Nat) : (s.leaveGang c t).discards = s.discards := rfl
@[simp] theorem State.leaveGang_finals (s : State) (c t : Nat) : (s.leaveGang c t).finals = s.finals := rfl
@[simp] theorem State.leaveGang_unplaced (s : State) (c t : Nat) : (s.leaveGang c t).unplaced = s.unplaced := rfl
@[simp] theorem State.leaveGang_streams (s : State) (c t : Nat) : (s.leaveGang c t).streams = s.streams := rfl
@[simp] theorem State.leaveGang_staging (s : State) (c t : Nat) : (s.leaveGang c t).staging = s.staging := rfl
@[simp] theorem State.leaveGang_dev (s : State) (c t : Nat) : (s.leaveGang c t).dev = s.dev := rfl
@[simp] theorem State.leaveGang_tables (s : State) (c t : Nat) : (s.leaveGang c t).tables = s.tables := rfl
@[simp] theorem State.leaveGang_fab (s : State) (c t : Nat) : (s.leaveGang c t).fab = s.fab := rfl
@[simp] theorem State.leaveGang_sliceCtr (s : State) (c t : Nat) : (s.leaveGang c t).sliceCtr = s.sliceCtr := rfl
@[simp] theorem State.leaveGang_portCtr (s : State) (c t : Nat) : (s.leaveGang c t).portCtr = s.portCtr := rfl
@[simp] theorem State.leaveGang_sent (s : State) (c t : Nat) : (s.leaveGang c t).sent = s.sent := rfl
@[simp] theorem State.leaveGang_schedule (s : State) (c t : Nat) : (s.leaveGang c t).schedule = s.schedule := rfl
@[simp] theorem State.leaveGang_cur (s : State) (c t : Nat) : (s.leaveGang c t).cur = s.cur := rfl
@[simp] theorem State.leaveGang_fresh (s : State) (c t : Nat) : (s.leaveGang c t).fresh = s.fresh := rfl
@[simp] theorem State.leaveGang_uid (s : State) (c t : Nat) : (s.leaveGang c t).uid = s.uid := rfl
@[simp] theorem State.leaveGang_rot (s : State) (c t : Nat) : (s.leaveGang c t).rot = s.rot := rfl
@[simp] theorem State.leaveGang_hostHalves (s : State) (c t : Nat) : (s.leaveGang c t).hostHalves = s.hostHalves := rfl
@[simp] theorem State.leaveGang_hiFirst (s : State) (c t : Nat) : (s.leaveGang c t).hiFirst = s.hiFirst := rfl

@[simp] theorem State.sliceBump_cores (s : State) (sl i n : Nat) : (s.sliceBump sl i n).cores = s.cores := rfl
@[simp] theorem State.sliceBump_blocks (s : State) (sl i n : Nat) : (s.sliceBump sl i n).blocks = s.blocks := rfl
@[simp] theorem State.sliceBump_launches (s : State) (sl i n : Nat) : (s.sliceBump sl i n).launches = s.launches := rfl
@[simp] theorem State.sliceBump_ctxs (s : State) (sl i n : Nat) : (s.sliceBump sl i n).ctxs = s.ctxs := rfl
@[simp] theorem State.sliceBump_mem (s : State) (sl i n : Nat) : (s.sliceBump sl i n).mem = s.mem := rfl
@[simp] theorem State.sliceBump_hostMem (s : State) (sl i n : Nat) : (s.sliceBump sl i n).hostMem = s.hostMem := rfl
@[simp] theorem State.sliceBump_l2 (s : State) (sl i n : Nat) : (s.sliceBump sl i n).l2 = s.l2 := rfl
@[simp] theorem State.sliceBump_tlb (s : State) (sl i n : Nat) : (s.sliceBump sl i n).tlb = s.tlb := rfl
@[simp] theorem State.sliceBump_walkers (s : State) (sl i n : Nat) : (s.sliceBump sl i n).walkers = s.walkers := rfl
@[simp] theorem State.sliceBump_recalls (s : State) (sl i n : Nat) : (s.sliceBump sl i n).recalls = s.recalls := rfl
@[simp] theorem State.sliceBump_lqs (s : State) (sl i n : Nat) : (s.sliceBump sl i n).lqs = s.lqs := rfl
@[simp] theorem State.sliceBump_saves (s : State) (sl i n : Nat) : (s.sliceBump sl i n).saves = s.saves := rfl
@[simp] theorem State.sliceBump_discards (s : State) (sl i n : Nat) : (s.sliceBump sl i n).discards = s.discards := rfl
@[simp] theorem State.sliceBump_finals (s : State) (sl i n : Nat) : (s.sliceBump sl i n).finals = s.finals := rfl
@[simp] theorem State.sliceBump_unplaced (s : State) (sl i n : Nat) : (s.sliceBump sl i n).unplaced = s.unplaced := rfl
@[simp] theorem State.sliceBump_streams (s : State) (sl i n : Nat) : (s.sliceBump sl i n).streams = s.streams := rfl
@[simp] theorem State.sliceBump_staging (s : State) (sl i n : Nat) : (s.sliceBump sl i n).staging = s.staging := rfl
@[simp] theorem State.sliceBump_dev (s : State) (sl i n : Nat) : (s.sliceBump sl i n).dev = s.dev := rfl
@[simp] theorem State.sliceBump_tables (s : State) (sl i n : Nat) : (s.sliceBump sl i n).tables = s.tables := rfl
@[simp] theorem State.sliceBump_fab (s : State) (sl i n : Nat) : (s.sliceBump sl i n).fab = s.fab := rfl
@[simp] theorem State.sliceBump_portCtr (s : State) (sl i n : Nat) : (s.sliceBump sl i n).portCtr = s.portCtr := rfl
@[simp] theorem State.sliceBump_sent (s : State) (sl i n : Nat) : (s.sliceBump sl i n).sent = s.sent := rfl
@[simp] theorem State.sliceBump_schedule (s : State) (sl i n : Nat) : (s.sliceBump sl i n).schedule = s.schedule := rfl
@[simp] theorem State.sliceBump_cur (s : State) (sl i n : Nat) : (s.sliceBump sl i n).cur = s.cur := rfl
@[simp] theorem State.sliceBump_fresh (s : State) (sl i n : Nat) : (s.sliceBump sl i n).fresh = s.fresh := rfl
@[simp] theorem State.sliceBump_uid (s : State) (sl i n : Nat) : (s.sliceBump sl i n).uid = s.uid := rfl
@[simp] theorem State.sliceBump_rot (s : State) (sl i n : Nat) : (s.sliceBump sl i n).rot = s.rot := rfl
@[simp] theorem State.sliceBump_hostHalves (s : State) (sl i n : Nat) : (s.sliceBump sl i n).hostHalves = s.hostHalves := rfl
@[simp] theorem State.sliceBump_hiFirst (s : State) (sl i n : Nat) : (s.sliceBump sl i n).hiFirst = s.hiFirst := rfl

@[simp] theorem State.withRecalls_cores (s : State) (s1 : State) : (s.withRecalls s1).cores = s.cores := rfl
@[simp] theorem State.withRecalls_blocks (s : State) (s1 : State) : (s.withRecalls s1).blocks = s.blocks := rfl
@[simp] theorem State.withRecalls_launches (s : State) (s1 : State) : (s.withRecalls s1).launches = s.launches := rfl
@[simp] theorem State.withRecalls_ctxs (s : State) (s1 : State) : (s.withRecalls s1).ctxs = s.ctxs := rfl
@[simp] theorem State.withRecalls_mem (s : State) (s1 : State) : (s.withRecalls s1).mem = s.mem := rfl
@[simp] theorem State.withRecalls_hostMem (s : State) (s1 : State) : (s.withRecalls s1).hostMem = s.hostMem := rfl
@[simp] theorem State.withRecalls_l2 (s : State) (s1 : State) : (s.withRecalls s1).l2 = s.l2 := rfl
@[simp] theorem State.withRecalls_tlb (s : State) (s1 : State) : (s.withRecalls s1).tlb = s.tlb := rfl
@[simp] theorem State.withRecalls_walkers (s : State) (s1 : State) : (s.withRecalls s1).walkers = s.walkers := rfl
@[simp] theorem State.withRecalls_lqs (s : State) (s1 : State) : (s.withRecalls s1).lqs = s.lqs := rfl
@[simp] theorem State.withRecalls_saves (s : State) (s1 : State) : (s.withRecalls s1).saves = s.saves := rfl
@[simp] theorem State.withRecalls_discards (s : State) (s1 : State) : (s.withRecalls s1).discards = s.discards := rfl
@[simp] theorem State.withRecalls_finals (s : State) (s1 : State) : (s.withRecalls s1).finals = s.finals := rfl
@[simp] theorem State.withRecalls_unplaced (s : State) (s1 : State) : (s.withRecalls s1).unplaced = s.unplaced := rfl
@[simp] theorem State.withRecalls_streams (s : State) (s1 : State) : (s.withRecalls s1).streams = s.streams := rfl
@[simp] theorem State.withRecalls_staging (s : State) (s1 : State) : (s.withRecalls s1).staging = s.staging := rfl
@[simp] theorem State.withRecalls_dev (s : State) (s1 : State) : (s.withRecalls s1).dev = s.dev := rfl
@[simp] theorem State.withRecalls_tables (s : State) (s1 : State) : (s.withRecalls s1).tables = s.tables := rfl
@[simp] theorem State.withRecalls_fab (s : State) (s1 : State) : (s.withRecalls s1).fab = s.fab := rfl
@[simp] theorem State.withRecalls_portCtr (s : State) (s1 : State) : (s.withRecalls s1).portCtr = s.portCtr := rfl
@[simp] theorem State.withRecalls_sent (s : State) (s1 : State) : (s.withRecalls s1).sent = s.sent := rfl
@[simp] theorem State.withRecalls_schedule (s : State) (s1 : State) : (s.withRecalls s1).schedule = s.schedule := rfl
@[simp] theorem State.withRecalls_cur (s : State) (s1 : State) : (s.withRecalls s1).cur = s.cur := rfl
@[simp] theorem State.withRecalls_fresh (s : State) (s1 : State) : (s.withRecalls s1).fresh = s.fresh := rfl
@[simp] theorem State.withRecalls_uid (s : State) (s1 : State) : (s.withRecalls s1).uid = s.uid := rfl
@[simp] theorem State.withRecalls_rot (s : State) (s1 : State) : (s.withRecalls s1).rot = s.rot := rfl
@[simp] theorem State.withRecalls_hostHalves (s : State) (s1 : State) : (s.withRecalls s1).hostHalves = s.hostHalves := rfl
@[simp] theorem State.withRecalls_hiFirst (s : State) (s1 : State) : (s.withRecalls s1).hiFirst = s.hiFirst := rfl

@[simp] theorem State.stall_cores (s : State) : (s.stall).cores = s.cores := rfl
@[simp] theorem State.stall_blocks (s : State) : (s.stall).blocks = s.blocks := rfl
@[simp] theorem State.stall_launches (s : State) : (s.stall).launches = s.launches := rfl
@[simp] theorem State.stall_ctxs (s : State) : (s.stall).ctxs = s.ctxs := rfl
@[simp] theorem State.stall_mem (s : State) : (s.stall).mem = s.mem := rfl
@[simp] theorem State.stall_hostMem (s : State) : (s.stall).hostMem = s.hostMem := rfl
@[simp] theorem State.stall_l2 (s : State) : (s.stall).l2 = s.l2 := rfl
@[simp] theorem State.stall_tlb (s : State) : (s.stall).tlb = s.tlb := rfl
@[simp] theorem State.stall_walkers (s : State) : (s.stall).walkers = s.walkers := rfl
@[simp] theorem State.stall_recalls (s : State) : (s.stall).recalls = s.recalls := rfl
@[simp] theorem State.stall_lqs (s : State) : (s.stall).lqs = s.lqs := rfl
@[simp] theorem State.stall_saves (s : State) : (s.stall).saves = s.saves := rfl
@[simp] theorem State.stall_discards (s : State) : (s.stall).discards = s.discards := rfl
@[simp] theorem State.stall_finals (s : State) : (s.stall).finals = s.finals := rfl
@[simp] theorem State.stall_unplaced (s : State) : (s.stall).unplaced = s.unplaced := rfl
@[simp] theorem State.stall_streams (s : State) : (s.stall).streams = s.streams := rfl
@[simp] theorem State.stall_staging (s : State) : (s.stall).staging = s.staging := rfl
@[simp] theorem State.stall_dev (s : State) : (s.stall).dev = s.dev := rfl
@[simp] theorem State.stall_tables (s : State) : (s.stall).tables = s.tables := rfl
@[simp] theorem State.stall_fab (s : State) : (s.stall).fab = s.fab := rfl
@[simp] theorem State.stall_sliceCtr (s : State) : (s.stall).sliceCtr = s.sliceCtr := rfl
@[simp] theorem State.stall_portCtr (s : State) : (s.stall).portCtr = s.portCtr := rfl
@[simp] theorem State.stall_sent (s : State) : (s.stall).sent = s.sent := rfl
@[simp] theorem State.stall_schedule (s : State) : (s.stall).schedule = s.schedule := rfl
@[simp] theorem State.stall_fresh (s : State) : (s.stall).fresh = s.fresh := rfl
@[simp] theorem State.stall_uid (s : State) : (s.stall).uid = s.uid := rfl
@[simp] theorem State.stall_rot (s : State) : (s.stall).rot = s.rot := rfl
@[simp] theorem State.stall_hostHalves (s : State) : (s.stall).hostHalves = s.hostHalves := rfl
@[simp] theorem State.stall_hiFirst (s : State) : (s.stall).hiFirst = s.hiFirst := rfl

@[simp] theorem State.err_cores (s : State) (bit : Nat) : (s.err bit).cores = s.cores := rfl
@[simp] theorem State.err_blocks (s : State) (bit : Nat) : (s.err bit).blocks = s.blocks := rfl
@[simp] theorem State.err_launches (s : State) (bit : Nat) : (s.err bit).launches = s.launches := rfl
@[simp] theorem State.err_ctxs (s : State) (bit : Nat) : (s.err bit).ctxs = s.ctxs := rfl
@[simp] theorem State.err_mem (s : State) (bit : Nat) : (s.err bit).mem = s.mem := rfl
@[simp] theorem State.err_hostMem (s : State) (bit : Nat) : (s.err bit).hostMem = s.hostMem := rfl
@[simp] theorem State.err_l2 (s : State) (bit : Nat) : (s.err bit).l2 = s.l2 := rfl
@[simp] theorem State.err_tlb (s : State) (bit : Nat) : (s.err bit).tlb = s.tlb := rfl
@[simp] theorem State.err_walkers (s : State) (bit : Nat) : (s.err bit).walkers = s.walkers := rfl
@[simp] theorem State.err_recalls (s : State) (bit : Nat) : (s.err bit).recalls = s.recalls := rfl
@[simp] theorem State.err_lqs (s : State) (bit : Nat) : (s.err bit).lqs = s.lqs := rfl
@[simp] theorem State.err_saves (s : State) (bit : Nat) : (s.err bit).saves = s.saves := rfl
@[simp] theorem State.err_discards (s : State) (bit : Nat) : (s.err bit).discards = s.discards := rfl
@[simp] theorem State.err_finals (s : State) (bit : Nat) : (s.err bit).finals = s.finals := rfl
@[simp] theorem State.err_unplaced (s : State) (bit : Nat) : (s.err bit).unplaced = s.unplaced := rfl
@[simp] theorem State.err_streams (s : State) (bit : Nat) : (s.err bit).streams = s.streams := rfl
@[simp] theorem State.err_staging (s : State) (bit : Nat) : (s.err bit).staging = s.staging := rfl
@[simp] theorem State.err_tables (s : State) (bit : Nat) : (s.err bit).tables = s.tables := rfl
@[simp] theorem State.err_fab (s : State) (bit : Nat) : (s.err bit).fab = s.fab := rfl
@[simp] theorem State.err_sliceCtr (s : State) (bit : Nat) : (s.err bit).sliceCtr = s.sliceCtr := rfl
@[simp] theorem State.err_portCtr (s : State) (bit : Nat) : (s.err bit).portCtr = s.portCtr := rfl
@[simp] theorem State.err_schedule (s : State) (bit : Nat) : (s.err bit).schedule = s.schedule := rfl
@[simp] theorem State.err_cur (s : State) (bit : Nat) : (s.err bit).cur = s.cur := rfl
@[simp] theorem State.err_fresh (s : State) (bit : Nat) : (s.err bit).fresh = s.fresh := rfl
@[simp] theorem State.err_uid (s : State) (bit : Nat) : (s.err bit).uid = s.uid := rfl
@[simp] theorem State.err_rot (s : State) (bit : Nat) : (s.err bit).rot = s.rot := rfl
@[simp] theorem State.err_hostHalves (s : State) (bit : Nat) : (s.err bit).hostHalves = s.hostHalves := rfl
@[simp] theorem State.err_hiFirst (s : State) (bit : Nat) : (s.err bit).hiFirst = s.hiFirst := rfl

@[simp] theorem State.mapThread_blocks (s : State) (c t : Nat) (f : Thread → Thread) : (s.mapThread c t f).blocks = s.blocks := by
  unfold State.mapThread; split <;> rfl
@[simp] theorem State.mapThread_launches (s : State) (c t : Nat) (f : Thread → Thread) : (s.mapThread c t f).launches = s.launches := by
  unfold State.mapThread; split <;> rfl
@[simp] theorem State.mapThread_ctxs (s : State) (c t : Nat) (f : Thread → Thread) : (s.mapThread c t f).ctxs = s.ctxs := by
  unfold State.mapThread; split <;> rfl
@[simp] theorem State.mapThread_mem (s : State) (c t : Nat) (f : Thread → Thread) : (s.mapThread c t f).mem = s.mem := by
  unfold State.mapThread; split <;> rfl
@[simp] theorem State.mapThread_hostMem (s : State) (c t : Nat) (f : Thread → Thread) : (s.mapThread c t f).hostMem = s.hostMem := by
  unfold State.mapThread; split <;> rfl
@[simp] theorem State.mapThread_l2 (s : State) (c t : Nat) (f : Thread → Thread) : (s.mapThread c t f).l2 = s.l2 := by
  unfold State.mapThread; split <;> rfl
@[simp] theorem State.mapThread_tlb (s : State) (c t : Nat) (f : Thread → Thread) : (s.mapThread c t f).tlb = s.tlb := by
  unfold State.mapThread; split <;> rfl
@[simp] theorem State.mapThread_walkers (s : State) (c t : Nat) (f : Thread → Thread) : (s.mapThread c t f).walkers = s.walkers := by
  unfold State.mapThread; split <;> rfl
@[simp] theorem State.mapThread_recalls (s : State) (c t : Nat) (f : Thread → Thread) : (s.mapThread c t f).recalls = s.recalls := by
  unfold State.mapThread; split <;> rfl
@[simp] theorem State.mapThread_lqs (s : State) (c t : Nat) (f : Thread → Thread) : (s.mapThread c t f).lqs = s.lqs := by
  unfold State.mapThread; split <;> rfl
@[simp] theorem State.mapThread_saves (s : State) (c t : Nat) (f : Thread → Thread) : (s.mapThread c t f).saves = s.saves := by
  unfold State.mapThread; split <;> rfl
@[simp] theorem State.mapThread_discards (s : State) (c t : Nat) (f : Thread → Thread) : (s.mapThread c t f).discards = s.discards := by
  unfold State.mapThread; split <;> rfl
@[simp] theorem State.mapThread_finals (s : State) (c t : Nat) (f : Thread → Thread) : (s.mapThread c t f).finals = s.finals := by
  unfold State.mapThread; split <;> rfl
@[simp] theorem State.mapThread_unplaced (s : State) (c t : Nat) (f : Thread → Thread) : (s.mapThread c t f).unplaced = s.unplaced := by
  unfold State.mapThread; split <;> rfl
@[simp] theorem State.mapThread_streams (s : State) (c t : Nat) (f : Thread → Thread) : (s.mapThread c t f).streams = s.streams := by
  unfold State.mapThread; split <;> rfl
@[simp] theorem State.mapThread_staging (s : State) (c t : Nat) (f : Thread → Thread) : (s.mapThread c t f).staging = s.staging := by
  unfold State.mapThread; split <;> rfl
@[simp] theorem State.mapThread_dev (s : State) (c t : Nat) (f : Thread → Thread) : (s.mapThread c t f).dev = s.dev := by
  unfold State.mapThread; split <;> rfl
@[simp] theorem State.mapThread_tables (s : State) (c t : Nat) (f : Thread → Thread) : (s.mapThread c t f).tables = s.tables := by
  unfold State.mapThread; split <;> rfl
@[simp] theorem State.mapThread_fab (s : State) (c t : Nat) (f : Thread → Thread) : (s.mapThread c t f).fab = s.fab := by
  unfold State.mapThread; split <;> rfl
@[simp] theorem State.mapThread_sliceCtr (s : State) (c t : Nat) (f : Thread → Thread) : (s.mapThread c t f).sliceCtr = s.sliceCtr := by
  unfold State.mapThread; split <;> rfl
@[simp] theorem State.mapThread_portCtr (s : State) (c t : Nat) (f : Thread → Thread) : (s.mapThread c t f).portCtr = s.portCtr := by
  unfold State.mapThread; split <;> rfl
@[simp] theorem State.mapThread_sent (s : State) (c t : Nat) (f : Thread → Thread) : (s.mapThread c t f).sent = s.sent := by
  unfold State.mapThread; split <;> rfl
@[simp] theorem State.mapThread_schedule (s : State) (c t : Nat) (f : Thread → Thread) : (s.mapThread c t f).schedule = s.schedule := by
  unfold State.mapThread; split <;> rfl
@[simp] theorem State.mapThread_cur (s : State) (c t : Nat) (f : Thread → Thread) : (s.mapThread c t f).cur = s.cur := by
  unfold State.mapThread; split <;> rfl
@[simp] theorem State.mapThread_fresh (s : State) (c t : Nat) (f : Thread → Thread) : (s.mapThread c t f).fresh = s.fresh := by
  unfold State.mapThread; split <;> rfl
@[simp] theorem State.mapThread_uid (s : State) (c t : Nat) (f : Thread → Thread) : (s.mapThread c t f).uid = s.uid := by
  unfold State.mapThread; split <;> rfl
@[simp] theorem State.mapThread_rot (s : State) (c t : Nat) (f : Thread → Thread) : (s.mapThread c t f).rot = s.rot := by
  unfold State.mapThread; split <;> rfl
@[simp] theorem State.mapThread_hostHalves (s : State) (c t : Nat) (f : Thread → Thread) : (s.mapThread c t f).hostHalves = s.hostHalves := by
  unfold State.mapThread; split <;> rfl
@[simp] theorem State.mapThread_hiFirst (s : State) (c t : Nat) (f : Thread → Thread) : (s.mapThread c t f).hiFirst = s.hiFirst := by
  unfold State.mapThread; split <;> rfl

/-- An access that waits changes only the recalls and the counters. -/
theorem State.noteRecall_eq (s : State) (skip : Skip) (pa n : Nat) :
    ∃ c r, s.noteRecall skip pa n = { s with sliceCtr := c, recalls := r } := by
  unfold State.noteRecall
  generalize linesOf pa n = ls
  induction ls generalizing s with
  | nil => exact ⟨s.sliceCtr, s.recalls, rfl⟩
  | cons l ls ih =>
    rw [List.foldl_cons]
    split
    · exact ih s
    · obtain ⟨c, r, h⟩ := ih { s.sliceBump (sliceOf (256 * l)) 2 1 with recalls := l :: s.recalls }
      exact ⟨c, r, h⟩

@[simp] theorem State.noteRecall_cores (s : State) (skip : Skip) (pa n : Nat) : (s.noteRecall skip pa n).cores = s.cores := by
  obtain ⟨_, _, h⟩ := s.noteRecall_eq skip pa n; rw [h]
@[simp] theorem State.noteRecall_blocks (s : State) (skip : Skip) (pa n : Nat) : (s.noteRecall skip pa n).blocks = s.blocks := by
  obtain ⟨_, _, h⟩ := s.noteRecall_eq skip pa n; rw [h]
@[simp] theorem State.noteRecall_launches (s : State) (skip : Skip) (pa n : Nat) : (s.noteRecall skip pa n).launches = s.launches := by
  obtain ⟨_, _, h⟩ := s.noteRecall_eq skip pa n; rw [h]
@[simp] theorem State.noteRecall_ctxs (s : State) (skip : Skip) (pa n : Nat) : (s.noteRecall skip pa n).ctxs = s.ctxs := by
  obtain ⟨_, _, h⟩ := s.noteRecall_eq skip pa n; rw [h]
@[simp] theorem State.noteRecall_mem (s : State) (skip : Skip) (pa n : Nat) : (s.noteRecall skip pa n).mem = s.mem := by
  obtain ⟨_, _, h⟩ := s.noteRecall_eq skip pa n; rw [h]
@[simp] theorem State.noteRecall_hostMem (s : State) (skip : Skip) (pa n : Nat) : (s.noteRecall skip pa n).hostMem = s.hostMem := by
  obtain ⟨_, _, h⟩ := s.noteRecall_eq skip pa n; rw [h]
@[simp] theorem State.noteRecall_l2 (s : State) (skip : Skip) (pa n : Nat) : (s.noteRecall skip pa n).l2 = s.l2 := by
  obtain ⟨_, _, h⟩ := s.noteRecall_eq skip pa n; rw [h]
@[simp] theorem State.noteRecall_tlb (s : State) (skip : Skip) (pa n : Nat) : (s.noteRecall skip pa n).tlb = s.tlb := by
  obtain ⟨_, _, h⟩ := s.noteRecall_eq skip pa n; rw [h]
@[simp] theorem State.noteRecall_walkers (s : State) (skip : Skip) (pa n : Nat) : (s.noteRecall skip pa n).walkers = s.walkers := by
  obtain ⟨_, _, h⟩ := s.noteRecall_eq skip pa n; rw [h]
@[simp] theorem State.noteRecall_lqs (s : State) (skip : Skip) (pa n : Nat) : (s.noteRecall skip pa n).lqs = s.lqs := by
  obtain ⟨_, _, h⟩ := s.noteRecall_eq skip pa n; rw [h]
@[simp] theorem State.noteRecall_saves (s : State) (skip : Skip) (pa n : Nat) : (s.noteRecall skip pa n).saves = s.saves := by
  obtain ⟨_, _, h⟩ := s.noteRecall_eq skip pa n; rw [h]
@[simp] theorem State.noteRecall_discards (s : State) (skip : Skip) (pa n : Nat) : (s.noteRecall skip pa n).discards = s.discards := by
  obtain ⟨_, _, h⟩ := s.noteRecall_eq skip pa n; rw [h]
@[simp] theorem State.noteRecall_finals (s : State) (skip : Skip) (pa n : Nat) : (s.noteRecall skip pa n).finals = s.finals := by
  obtain ⟨_, _, h⟩ := s.noteRecall_eq skip pa n; rw [h]
@[simp] theorem State.noteRecall_unplaced (s : State) (skip : Skip) (pa n : Nat) : (s.noteRecall skip pa n).unplaced = s.unplaced := by
  obtain ⟨_, _, h⟩ := s.noteRecall_eq skip pa n; rw [h]
@[simp] theorem State.noteRecall_streams (s : State) (skip : Skip) (pa n : Nat) : (s.noteRecall skip pa n).streams = s.streams := by
  obtain ⟨_, _, h⟩ := s.noteRecall_eq skip pa n; rw [h]
@[simp] theorem State.noteRecall_staging (s : State) (skip : Skip) (pa n : Nat) : (s.noteRecall skip pa n).staging = s.staging := by
  obtain ⟨_, _, h⟩ := s.noteRecall_eq skip pa n; rw [h]
@[simp] theorem State.noteRecall_dev (s : State) (skip : Skip) (pa n : Nat) : (s.noteRecall skip pa n).dev = s.dev := by
  obtain ⟨_, _, h⟩ := s.noteRecall_eq skip pa n; rw [h]
@[simp] theorem State.noteRecall_tables (s : State) (skip : Skip) (pa n : Nat) : (s.noteRecall skip pa n).tables = s.tables := by
  obtain ⟨_, _, h⟩ := s.noteRecall_eq skip pa n; rw [h]
@[simp] theorem State.noteRecall_fab (s : State) (skip : Skip) (pa n : Nat) : (s.noteRecall skip pa n).fab = s.fab := by
  obtain ⟨_, _, h⟩ := s.noteRecall_eq skip pa n; rw [h]
@[simp] theorem State.noteRecall_portCtr (s : State) (skip : Skip) (pa n : Nat) : (s.noteRecall skip pa n).portCtr = s.portCtr := by
  obtain ⟨_, _, h⟩ := s.noteRecall_eq skip pa n; rw [h]
@[simp] theorem State.noteRecall_sent (s : State) (skip : Skip) (pa n : Nat) : (s.noteRecall skip pa n).sent = s.sent := by
  obtain ⟨_, _, h⟩ := s.noteRecall_eq skip pa n; rw [h]
@[simp] theorem State.noteRecall_schedule (s : State) (skip : Skip) (pa n : Nat) : (s.noteRecall skip pa n).schedule = s.schedule := by
  obtain ⟨_, _, h⟩ := s.noteRecall_eq skip pa n; rw [h]
@[simp] theorem State.noteRecall_cur (s : State) (skip : Skip) (pa n : Nat) : (s.noteRecall skip pa n).cur = s.cur := by
  obtain ⟨_, _, h⟩ := s.noteRecall_eq skip pa n; rw [h]
@[simp] theorem State.noteRecall_fresh (s : State) (skip : Skip) (pa n : Nat) : (s.noteRecall skip pa n).fresh = s.fresh := by
  obtain ⟨_, _, h⟩ := s.noteRecall_eq skip pa n; rw [h]
@[simp] theorem State.noteRecall_uid (s : State) (skip : Skip) (pa n : Nat) : (s.noteRecall skip pa n).uid = s.uid := by
  obtain ⟨_, _, h⟩ := s.noteRecall_eq skip pa n; rw [h]
@[simp] theorem State.noteRecall_rot (s : State) (skip : Skip) (pa n : Nat) : (s.noteRecall skip pa n).rot = s.rot := by
  obtain ⟨_, _, h⟩ := s.noteRecall_eq skip pa n; rw [h]
@[simp] theorem State.noteRecall_hostHalves (s : State) (skip : Skip) (pa n : Nat) : (s.noteRecall skip pa n).hostHalves = s.hostHalves := by
  obtain ⟨_, _, h⟩ := s.noteRecall_eq skip pa n; rw [h]
@[simp] theorem State.noteRecall_hiFirst (s : State) (skip : Skip) (pa n : Nat) : (s.noteRecall skip pa n).hiFirst = s.hiFirst := by
  obtain ⟨_, _, h⟩ := s.noteRecall_eq skip pa n; rw [h]

/-! What the setters set. -/

theorem FMap.find_put_same {α : Type} (m : FMap α) (k : Nat) (x : α) : FMap.find? (FMap.put m k x) k = some x := by
  induction m with
  | nil => simp [FMap.put, FMap.find?]
  | cons e m ih =>
    obtain ⟨i, y⟩ := e
    simp only [FMap.put]
    split
    · simp [FMap.find?]
    · split
      · simp [FMap.find?]
      · simp [FMap.find?, *]

theorem FMap.find_put_ne {α : Type} (m : FMap α) (k j : Nat) (x : α) (h : j ≠ k) :
    FMap.find? (FMap.put m k x) j = FMap.find? m j := by
  induction m with
  | nil => simp [FMap.put, FMap.find?, Ne.symm h]
  | cons e m ih =>
    obtain ⟨i, y⟩ := e
    simp only [FMap.put]
    split
    · simp [FMap.find?, Ne.symm h]
    · split
      · rename_i hi; subst hi; simp [FMap.find?, Ne.symm h]
      · simp [FMap.find?, ih]

@[simp] theorem FMap.getD_put_same {α : Type} (m : FMap α) (k : Nat) (x d : α) : FMap.getD (FMap.put m k x) k d = x := by
  simp [FMap.getD, FMap.find_put_same]

theorem FMap.getD_put_ne {α : Type} (m : FMap α) (k j : Nat) (x d : α) (h : j ≠ k) :
    FMap.getD (FMap.put m k x) j d = FMap.getD m j d := by
  simp [FMap.getD, FMap.find_put_ne m k j x h]

@[simp] theorem State.setCore_core (s : State) (c : Nat) (k : Core) : (s.setCore c k).core c = k := by
  simp [State.core, State.setCore]

theorem State.setCore_core_ne (s : State) (c d : Nat) (k : Core) (h : d ≠ c) : (s.setCore c k).core d = s.core d := by
  simp [State.core, State.setCore, FMap.getD_put_ne _ _ _ _ _ h]

@[simp] theorem State.setThread_thread (s : State) (c t : Nat) (th : Thread) : (s.setThread c t th).thread? c t = some th := by
  simp [State.setThread, State.thread?, FMap.find_put_same]

/-- No other thread changes when one is replaced. -/
theorem State.setThread_thread_ne (s : State) (c t d u : Nat) (th : Thread) (h : (d, u) ≠ (c, t)) :
    (s.setThread c t th).thread? d u = s.thread? d u := by
  by_cases hd : d = c
  · subst hd
    have hu : u ≠ t := fun e => h (by rw [e])
    simp [State.setThread, State.thread?, FMap.find_put_ne _ _ _ _ hu]
  · simp [State.setThread, State.thread?, State.setCore_core_ne _ _ _ _ hd]

@[simp] theorem State.setCtx_ctx (s : State) (i : Nat) (x : Ctx) : (s.setCtx i x).ctx i = x := by
  simp [State.ctx, State.setCtx]

@[simp] theorem State.setLq_lq (s : State) (q : Nat) (x : LQ) : (s.setLq q x).lq q = x := by
  simp [State.lq, State.setLq]

@[simp] theorem State.setStream_stream (s : State) (l k : Nat) (x : Stream) : (s.setStream l k x).stream l k = x := by
  simp [State.stream, State.setStream]

/-! Registers of a thread. -/

@[simp] theorem Thread.reg_setReg (th : Thread) (r : Nat) (v : Word) : (th.setReg r v).reg r = v := by
  simp [Thread.reg, Thread.setReg]

theorem Thread.reg_setReg_ne (th : Thread) (r q : Nat) (v : Word) (h : q ≠ r) : (th.setReg r v).reg q = th.reg q := by
  simp [Thread.reg, Thread.setReg, FMap.getD_put_ne _ _ _ _ _ h]

theorem Thread.pair_setPair (th : Thread) (r : Nat) (v : Dword) : (th.setPair r v).pair r = v := by
  simp only [Thread.pair, Thread.setPair, Thread.reg_setReg, Thread.reg_setReg_ne _ _ _ _ (Nat.ne_of_lt (Nat.lt_succ_self r))]
  apply BitVec.eq_of_getLsbD_eq
  intro i hi
  simp only [BitVec.getLsbD_append, BitVec.getLsbD_extractLsb']
  split
  · simp [*]
  · rw [Nat.add_sub_cancel' (by omega)]
    simp; omega

theorem Thread.reg_setPair_ne (th : Thread) (r q : Nat) (v : Dword) (h0 : q ≠ r) (h1 : q ≠ r + 1) :
    (th.setPair r v).reg q = th.reg q := by
  simp [Thread.setPair, Thread.reg_setReg_ne _ _ _ _ h0, Thread.reg_setReg_ne _ _ _ _ h1]

end Sys2Proof.Machine
end

