-- ==== Sys2Proof/Laws/Cache.lean ====
section
/-! SUPPORT. What reads at the home slices and walks can do: they move sectors, marks, cached translations and counters, and no byte, core, block or
context. -/

namespace Sys2Proof.Machine

/-- Two states that differ in caches, poison marks, counters and free values at most. -/
def CachesOnly (s s' : State) : Prop :=
  s'.cores = s.cores ∧ s'.blocks = s.blocks ∧ s'.ctxs = s.ctxs ∧ s'.hostMem = s.hostMem ∧ s'.mem.cells = s.mem.cells

theorem CachesOnly.refl (s : State) : CachesOnly s s := ⟨rfl, rfl, rfl, rfl, rfl⟩

theorem CachesOnly.trans {a b c : State} (h : CachesOnly a b) (k : CachesOnly b c) : CachesOnly a c :=
  ⟨k.1.trans h.1, k.2.1.trans h.2.1, k.2.2.1.trans h.2.2.1, k.2.2.2.1.trans h.2.2.2.1, k.2.2.2.2.trans h.2.2.2.2⟩

/-- A fold whose every step is of this kind is. -/
theorem CachesOnly.foldl {α : Type} (f : State → α → State) (h : ∀ s a, CachesOnly s (f s a)) (l : List α) (s : State) :
    CachesOnly s (l.foldl f s) := by
  induction l generalizing s with
  | nil => exact .refl s
  | cons a l ih => exact (h s a).trans (ih (f s a))

theorem CachesOnly.get {s s' : State} (h : CachesOnly s s') (a : Nat) : s'.mem.get a = s.mem.get a := by
  unfold Store.get; rw [h.2.2.2.2]

theorem CachesOnly.thread {s s' : State} (h : CachesOnly s s') (c t : Nat) : s'.thread? c t = s.thread? c t := by
  unfold State.thread? State.core; rw [h.1]

theorem marks_cells (l : List Nat) (p : Nat → Bool) (f : Nat → Nat) (m : Store) :
    (l.foldl (fun (m : Store) i => if p i then m.mark (f i) else m.unmark (f i)) m).cells = m.cells := by
  induction l generalizing m with
  | nil => rfl
  | cons a l ih => rw [List.foldl_cons, ih]; split <;> rfl

theorem State.evictSector_caches (s : State) (n : Nat) : CachesOnly s (s.evictSector n) := by
  unfold State.evictSector
  split
  · exact .refl s
  · exact ⟨rfl, rfl, rfl, rfl, marks_cells ..⟩

theorem State.l2Room_caches (s : State) (line : Nat) : CachesOnly s (s.l2Room line) := by
  unfold State.l2Room
  dsimp only
  split
  · exact .refl s
  · exact CachesOnly.trans (CachesOnly.foldl _ (fun s i => s.evictSector_caches _) _ s) ⟨rfl, rfl, rfl, rfl, rfl⟩

theorem State.l2Alloc_caches (s : State) (pa : Nat) : CachesOnly s (s.l2Alloc pa) := by
  unfold State.l2Alloc
  split
  · exact .refl s
  · exact (s.l2Room_caches _).trans ⟨rfl, rfl, rfl, rfl, rfl⟩

theorem State.l2ReadSector_caches (s : State) (pa n : Nat) : CachesOnly s (s.l2ReadSector pa n) := by
  refine (s.l2Alloc_caches pa).trans ?_
  unfold State.l2ReadSector
  dsimp only
  split
  · split <;> exact ⟨rfl, rfl, rfl, rfl, rfl⟩
  · exact .refl _

/-- A read at the home slices. -/
theorem State.l2Read_caches (s : State) (pa n : Nat) : CachesOnly s (s.l2Read pa n) :=
  CachesOnly.foldl (fun s (e : Nat × Nat) => s.l2ReadSector e.1 e.2) (fun s e => s.l2ReadSector_caches e.1 e.2) _ s

/-- A walk. -/
theorem State.walked_caches (s : State) (ctx : Nat) (va : Dword) : CachesOnly s (s.walked ctx va) := by
  unfold State.walked
  split
  · exact .refl s
  · dsimp only
    split
    · exact .refl s
    · exact ((CachesOnly.foldl _ (fun s e => s.l2Read_caches e 8) _ s).trans (State.l2Read_caches _ _ 8)).trans ⟨rfl, rfl, rfl, rfl, rfl⟩

theorem State.faultWalk_caches (s : State) (th : Thread) (f : Flt) : CachesOnly s (s.faultWalk th f) := by
  dsimp only [State.faultWalk]
  split
  all_goals split
  all_goals first | exact .refl s | exact s.walked_caches ..

theorem State.vectorRead_caches (s : State) (ctx code : Nat) : CachesOnly s (s.vectorRead ctx code) := by
  unfold State.vectorRead
  split
  · exact s.l2Read_caches ..
  · exact .refl s

end Sys2Proof.Machine
end

