-- ==== Sys2Proof/Laws/Memory.lean ====
section
/-! SUPPORT. The laws of keyed lists and of byte stores: what a read gives after a write, and that every operation on a
store keeps the canonical form. -/

namespace Sys2Proof

/-! ## Keyed lists -/

theorem FMap.find?_cons {α : Type} (e : Nat × α) (m : FMap α) (j : Nat) :
    FMap.find? (e :: m) j = if j = e.1 then some e.2 else FMap.find? m j := by
  obtain ⟨i, y⟩ := e
  by_cases h : i = j
  · subst h; simp [FMap.find?]
  · simp [FMap.find?, h, Ne.symm h]

@[simp] theorem FMap.find?_put {α : Type} (m : FMap α) (k j : Nat) (x : α) :
    FMap.find? (FMap.put m k x) j = if j = k then some x else FMap.find? m j := by
  induction m with
  | nil => rw [FMap.put, FMap.find?_cons]
  | cons e m ih =>
    obtain ⟨i, y⟩ := e
    simp only [FMap.put]
    split
    · rw [FMap.find?_cons]
    · split
      · rename_i _ h
        subst h
        simp only [FMap.find?_cons]
        split <;> rfl
      · rename_i _ h
        simp only [FMap.find?_cons, ih]
        by_cases hj : j = k
        · have : j ≠ i := by omega
          simp [hj, Ne.symm h]
        · simp [hj]

@[simp] theorem FMap.find?_del {α : Type} (m : FMap α) (k j : Nat) :
    FMap.find? (FMap.del m k) j = if j = k then none else FMap.find? m j := by
  induction m with
  | nil => simp [FMap.del, FMap.find?]
  | cons e m ih =>
    unfold FMap.del at *
    by_cases h : e.1 = k
    · rw [List.filter_cons_of_neg (by simp [h]), ih, FMap.find?_cons, h]
      split <;> rfl
    · rw [List.filter_cons_of_pos (by simp [h]), FMap.find?_cons, ih, FMap.find?_cons]
      by_cases hj : j = k
      · subst hj; simp [Ne.symm h]
      · simp [hj]

theorem FMap.mem_put {α : Type} {m : FMap α} {k : Nat} {x : α} {e : Nat × α} (h : e ∈ FMap.put m k x) : e = (k, x) ∨ e ∈ m := by
  induction m with
  | nil => simpa [FMap.put] using h
  | cons a m ih =>
    obtain ⟨i, y⟩ := a
    simp only [FMap.put] at h
    split at h
    · simpa using h
    · split at h
      · rcases List.mem_cons.1 h with h | h
        · exact .inl h
        · exact .inr (List.mem_cons_of_mem _ h)
      · rcases List.mem_cons.1 h with h | h
        · exact .inr (h ▸ List.mem_cons_self ..)
        · exact (ih h).imp_right (List.mem_cons_of_mem _)

namespace Machine

/-! ## Rising lists -/

theorem ascending_iff (l : List Nat) : ascending l = true ↔ l.Pairwise (· < ·) := by
  induction l with
  | nil => simp [ascending]
  | cons a l ih =>
    cases l with
    | nil => simp [ascending]
    | cons b l =>
      simp only [ascending, Bool.and_eq_true, decide_eq_true_eq, ih, List.pairwise_cons]
      constructor
      · rintro ⟨h, hb, hl⟩
        refine ⟨fun x hx => ?_, hb, hl⟩
        rcases List.mem_cons.1 hx with rfl | hx
        · exact h
        · exact Nat.lt_trans h (hb x hx)
      · rintro ⟨h, hb, hl⟩
        exact ⟨h b (List.mem_cons_self ..), hb, hl⟩

theorem ascending_put {α : Type} (m : FMap α) (k : Nat) (x : α) (h : ascending (m.map Prod.fst) = true) :
    ascending ((FMap.put m k x).map Prod.fst) = true := by
  rw [ascending_iff] at *
  induction m with
  | nil => simp [FMap.put]
  | cons e m ih =>
    obtain ⟨i, y⟩ := e
    simp only [List.map_cons, List.pairwise_cons] at h
    simp only [FMap.put]
    split
    · rename_i hk
      simp only [List.map_cons, List.pairwise_cons]
      refine ⟨fun z hz => ?_, h⟩
      rcases List.mem_cons.1 hz with rfl | hz
      · exact hk
      · exact Nat.lt_trans hk (h.1 z hz)
    · split
      · subst_vars; simpa using h
      · simp only [List.map_cons, List.pairwise_cons]
        refine ⟨fun z hz => ?_, ih h.2⟩
        obtain ⟨e, he, rfl⟩ := List.mem_map.1 hz
        rcases FMap.mem_put he with rfl | he
        · show i < k; omega
        · exact h.1 _ (List.mem_map_of_mem he)

theorem ascending_del {α : Type} (m : FMap α) (k : Nat) (h : ascending (m.map Prod.fst) = true) :
    ascending ((FMap.del m k).map Prod.fst) = true := by
  rw [ascending_iff] at *
  exact h.sublist (List.Sublist.map _ List.filter_sublist)

theorem mem_insertAsc {x y : Nat} {l : List Nat} : y ∈ insertAsc x l ↔ y = x ∨ y ∈ l := by
  induction l with
  | nil => simp [insertAsc]
  | cons a l ih =>
    simp only [insertAsc]
    split
    · simp
    · split
      · subst_vars; simp
      · simp only [List.mem_cons, ih]
        constructor
        · rintro (h | h | h) <;> simp [h]
        · rintro (h | h | h) <;> simp [h]

theorem ascending_insertAsc (x : Nat) (l : List Nat) (h : ascending l = true) : ascending (insertAsc x l) = true := by
  rw [ascending_iff] at *
  induction l with
  | nil => simp [insertAsc]
  | cons a l ih =>
    have ha := List.pairwise_cons.1 h
    simp only [insertAsc]
    split
    · rename_i hx
      refine List.pairwise_cons.2 ⟨fun z hz => ?_, h⟩
      rcases List.mem_cons.1 hz with rfl | hz
      · exact hx
      · exact Nat.lt_trans hx (ha.1 z hz)
    · split
      · exact h
      · refine List.pairwise_cons.2 ⟨fun z hz => ?_, ih ha.2⟩
        rcases mem_insertAsc.1 hz with rfl | hz
        · omega
        · exact ha.1 z hz

theorem ascending_filter (p : Nat → Bool) (l : List Nat) (h : ascending l = true) : ascending (l.filter p) = true := by
  rw [ascending_iff] at *
  exact h.sublist List.filter_sublist

/-! ## Reads after writes -/

@[simp] theorem Store.get_set (m : Store) (a j : Nat) (b : Byte) : (m.set a b).get j = if j = a then b else m.get j := by
  unfold Store.set Store.get FMap.getD
  by_cases hb : b = emptyByte <;> by_cases hj : j = a <;> simp [hb, hj]

@[simp] theorem Store.get_mark (m : Store) (w a : Nat) : (m.mark w).get a = m.get a := rfl
@[simp] theorem Store.get_unmark (m : Store) (w a : Nat) : (m.unmark w).get a = m.get a := rfl

theorem Store.get_putBytes (bs : List Byte) (m : Store) (a j : Nat) :
    (m.putBytes a bs).get j = if a ≤ j ∧ j < a + bs.length then bs.getD (j - a) 0 else m.get j := by
  induction bs generalizing m a with
  | nil =>
    have h : ¬ (a ≤ j ∧ j < a + ([] : List Byte).length) := by simp only [List.length_nil]; omega
    rw [if_neg h, Store.putBytes]
  | cons b bs ih =>
    simp only [Store.putBytes, ih, Store.get_set, List.length_cons]
    by_cases h : j = a
    · subst h
      have h1 : ¬ (j + 1 ≤ j ∧ j < j + 1 + bs.length) := by omega
      have h2 : j ≤ j ∧ j < j + (bs.length + 1) := by omega
      rw [if_neg h1, if_pos h2, if_pos rfl, Nat.sub_self, List.getD_cons_zero]
    · by_cases h1 : a + 1 ≤ j ∧ j < a + 1 + bs.length
      · have e : j - a = (j - (a + 1)) + 1 := by omega
        have h2 : a ≤ j ∧ j < a + (bs.length + 1) := by omega
        rw [if_pos h1, if_pos h2, e, List.getD_cons_succ]
      · have h2 : ¬ (a ≤ j ∧ j < a + (bs.length + 1)) := by omega
        rw [if_neg h1, if_neg h2, if_neg h]

theorem Store.get_foldl_unmark (l : List Nat) (m : Store) (a : Nat) : (l.foldl Store.unmark m).get a = m.get a := by
  induction l generalizing m with
  | nil => rfl
  | cons w l ih => simp [ih]

/-- What any address reads as after a write of bytes. -/
theorem Store.get_write (m : Store) (a j : Nat) (bs : List Byte) :
    (m.write a bs).get j = if a ≤ j ∧ j < a + bs.length then bs.getD (j - a) 0 else m.get j := by
  rw [Store.write, Store.get_foldl_unmark, Store.get_putBytes]

theorem Store.get_writeMarked (m : Store) (a j : Nat) (bs : List Byte) (bad : List Nat) :
    (m.writeMarked a bs bad).get j = (m.write a bs).get j := by
  unfold Store.writeMarked
  generalize m.write a bs = m'
  induction bad generalizing m' with
  | nil => rfl
  | cons i bad ih => simp [ih]

/-- Bytes written are read back, at any place. -/
theorem Store.readBytes_write (m : Store) (a : Nat) (bs : List Byte) : (m.write a bs).readBytes a bs.length = bs := by
  refine List.ext_getElem (by simp [Store.readBytes]) fun i h1 h2 => ?_
  simp [Store.readBytes, Store.get_write, h2]

/-! ## The canonical form -/

theorem Store.wf_iff (m : Store) : m.wf = true ↔
    ascending (m.cells.map Prod.fst) = true ∧ (∀ c ∈ m.cells, c.2 ≠ emptyByte) ∧ ascending m.poison = true := by
  simp [Store.wf, and_assoc]

theorem Store.wf_set (m : Store) (a : Nat) (b : Byte) (h : m.wf = true) : (m.set a b).wf = true := by
  rw [Store.wf_iff] at *
  unfold Store.set
  by_cases hb : b = emptyByte
  · rw [if_pos hb]
    exact ⟨ascending_del _ _ h.1, fun c hc => h.2.1 c (List.mem_filter.1 hc).1, h.2.2⟩
  · rw [if_neg hb]
    refine ⟨ascending_put _ _ _ h.1, fun c hc => ?_, h.2.2⟩
    rcases FMap.mem_put hc with rfl | hc
    · exact hb
    · exact h.2.1 c hc

theorem Store.wf_putBytes (bs : List Byte) (m : Store) (a : Nat) (h : m.wf = true) : (m.putBytes a bs).wf = true := by
  induction bs generalizing m a with
  | nil => exact h
  | cons b bs ih => exact ih _ _ (Store.wf_set m a b h)

theorem Store.wf_mark (m : Store) (w : Nat) (h : m.wf = true) : (m.mark w).wf = true := by
  rw [Store.wf_iff] at *
  exact ⟨h.1, h.2.1, ascending_insertAsc w _ h.2.2⟩

theorem Store.wf_unmark (m : Store) (w : Nat) (h : m.wf = true) : (m.unmark w).wf = true := by
  rw [Store.wf_iff] at *
  exact ⟨h.1, h.2.1, ascending_filter _ _ h.2.2⟩

/-- A fold keeps the form when each of its steps does. -/
theorem Store.wf_foldl {α : Type} (f : Store → α → Store) (hf : ∀ m x, m.wf = true → (f m x).wf = true) (l : List α) (m : Store)
    (h : m.wf = true) : (l.foldl f m).wf = true := by
  induction l generalizing m with
  | nil => exact h
  | cons x l ih => exact ih _ (hf m x h)

theorem Store.wf_write (m : Store) (a : Nat) (bs : List Byte) (h : m.wf = true) : (m.write a bs).wf = true :=
  Store.wf_foldl _ Store.wf_unmark _ _ (Store.wf_putBytes bs m a h)

theorem Store.wf_writeMarked (m : Store) (a : Nat) (bs : List Byte) (bad : List Nat) (h : m.wf = true) :
    (m.writeMarked a bs bad).wf = true :=
  Store.wf_foldl _ (fun m _ => Store.wf_mark m _) _ _ (Store.wf_write m a bs h)

theorem Store.wf_copyRange (m : Store) (a b n : Nat) (h : m.wf = true) : (m.copyRange a b n).wf = true := by
  rw [Store.wf_iff] at *
  have hp : ∀ (l : List Nat) (f : Nat → Nat) (x : List Nat), ascending x = true →
      ascending (l.foldl (fun l w => insertAsc (f w) l) x) = true := by
    intro l f
    induction l with
    | nil => exact fun _ h => h
    | cons w l ih => exact fun x hx => ih _ (ascending_insertAsc _ _ hx)
  have hc : ∀ (l : List Host.Cell) (f : Nat → Nat) (x : List Host.Cell), (∀ e ∈ l, e.2 ≠ emptyByte) →
      ascending (x.map Prod.fst) = true ∧ (∀ e ∈ x, e.2 ≠ emptyByte) →
      let y := l.foldl (fun c e => FMap.put c (f e.1) e.2) x
      ascending (y.map Prod.fst) = true ∧ ∀ e ∈ y, e.2 ≠ emptyByte := by
    intro l f
    induction l with
    | nil => exact fun _ _ h => h
    | cons w l ih =>
      refine fun x hl hx => ih _ (fun e he => hl e (List.mem_cons_of_mem _ he)) ⟨ascending_put _ _ _ hx.1, fun e he => ?_⟩
      rcases FMap.mem_put he with rfl | he
      · exact hl w (List.mem_cons_self ..)
      · exact hx.2 e he
  have hk : ascending ((m.cells.filter fun e => !(decide (b ≤ e.1) && decide (e.1 < b + n)) || keepsByte e.1).map Prod.fst) = true :=
    (ascending_iff _).2 (((ascending_iff _).1 h.1).sublist (List.Sublist.map _ List.filter_sublist))
  have hcells := hc (m.cells.filter fun e => decide (a ≤ e.1) && decide (e.1 < a + n) && !keepsByte (b + (e.1 - a))) (fun x => b + (x - a)) _
    (fun e he => h.2.1 e (List.mem_filter.1 he).1) ⟨hk, fun e he => h.2.1 e (List.mem_filter.1 he).1⟩
  exact ⟨hcells.1, hcells.2, hp _ (fun w => b / 8 + (w - a / 8)) _ (ascending_filter _ _ h.2.2)⟩

theorem Store.wf_empty : Store.empty.wf = true := rfl

theorem State.reset_mem_wf : Memory.wf State.reset.mem = true := rfl

theorem State.reset_hostMem_wf : Memory.wf State.reset.hostMem = true := rfl

end Machine
end Sys2Proof
end

