-- ==== Sys2Proof/Laws/Run.lean ====
section
/-! SUPPORT. What the shared operations that every meaning goes through can do: running a body under a guard, the
register check, the flag of a class L instruction, issuing an operation, and taking a fault. -/

namespace Sys2Proof.Machine

open Sys2Proof.Safety

/-! ## Running a body -/

/-- In turn and with its guard true, a body that succeeds gives its state. -/
theorem runThread_ok {s s' : State} {c t : Nat} {th : Thread} {g : BitVec 4} {body : Body} (h : Runs s c t th g)
    (hb : body c t th s = .ok s') : runThread g body s = .next s' := by
  obtain ⟨h1, h2, h3, h4⟩ := h
  simp only [runThread, h1, h2, if_neg h3, h4, if_true, hb]

/-- In turn and with its guard true, a body that raises takes the fault at the instruction. -/
theorem runThread_error {s : State} {c t : Nat} {th : Thread} {g : BitVec 4} {body : Body} {f : Flt} (h : Runs s c t th g)
    (hb : body c t th s = .error f) : runThread g body s = .next (s.takeFault c t f (s.site c th)) := by
  obtain ⟨h1, h2, h3, h4⟩ := h
  simp only [runThread, h1, h2, if_neg h3, h4, if_true, hb]

/-- A false guard leaves the state as it is. -/
theorem runThread_off {s : State} {c t : Nat} {th : Thread} {g : BitVec 4} {body : Body} (h1 : s.cur = .thread c t)
    (h2 : s.thread? c t = some th) (h3 : g ≠ 8) (h4 : th.guard g = false) : runThread g body s = .next s := by
  simp only [runThread, h1, h2, if_neg h3, h4, Bool.false_eq_true, if_false]

/-- Guard 0x8 raises ILLEGAL_FIELD. -/
theorem runThread_guard8 {s : State} {c t : Nat} {th : Thread} {body : Body} (h1 : s.cur = .thread c t) (h2 : s.thread? c t = some th) :
    runThread 8 body s = .next (s.takeFault c t (Flt.plain fIllegalField) (s.site c th)) := by
  simp [runThread, h1, h2]

/-- Everything that a run can answer as a next state. -/
theorem runThread_next {s s' : State} {g : BitVec 4} {body : Body} (h : runThread g body s = .next s') :
    ∃ c t th, s.cur = .thread c t ∧ s.thread? c t = some th ∧
      (s' = s ∨ (∃ f, s' = s.takeFault c t f (s.site c th)) ∨ body c t th s = .ok s') := by
  unfold runThread at h
  split at h
  · rename_i c t hc
    split at h
    · exact nomatch h
    · rename_i th ht
      refine ⟨c, t, th, hc, ht, ?_⟩
      split at h
      · exact .inr (.inl ⟨_, (Host.Outcome.next.inj h).symm⟩)
      · split at h
        · split at h
          · rename_i hb; exact .inr (.inr (Host.Outcome.next.inj h ▸ hb))
          · exact .inr (.inl ⟨_, (Host.Outcome.next.inj h).symm⟩)
        · exact .inl (Host.Outcome.next.inj h).symm
  · exact nomatch h

/-- With every register in range the check passes to the body. -/
theorem checked_ok {spans : List (Nat × Nat)} {body : Body} {c t : Nat} {th : Thread} {s : State} (h : regsOk th spans = true) :
    checked spans body c t th s = body c t th s := by simp [checked, h]

theorem checked_error {spans : List (Nat × Nat)} {body : Body} {c t : Nat} {th : Thread} {s : State} (h : regsOk th spans = false) :
    checked spans body c t th s = .error (Flt.plain fRegRange) := by simp [checked, h]

/-- What the register check can answer as success is what the body answers. -/
theorem checked_eq_ok {spans : List (Nat × Nat)} {body : Body} {c t : Nat} {th : Thread} {s s' : State} (h : checked spans body c t th s = .ok s') :
    regsOk th spans = true ∧ body c t th s = .ok s' := by
  unfold checked at h
  split at h
  · exact ⟨‹_›, h⟩
  · exact nomatch h

/-- A class L instruction whose flag and registers are in order runs its body. -/
theorem classL_ok {s s' : State} {c t : Nat} {th : Thread} {h : LHdr} {fl : Option Nat} {spans : List (Nat × Nat)} {body : Option Nat → Body}
    (hr : Runs s c t th h.g) (hf : FlagOf s c th h fl) (hs : regsOk th spans = true) (hb : body fl c t th s = .ok s') :
    classL h spans body s = .next s' := by
  refine runThread_ok hr ?_
  unfold FlagOf at hf
  simp only [hf, checked_ok hs, hb]

/-- A class L instruction whose flag and registers are in order takes what its body raises. -/
theorem classL_error {s : State} {c t : Nat} {th : Thread} {h : LHdr} {fl : Option Nat} {spans : List (Nat × Nat)} {body : Option Nat → Body}
    {f : Flt} (hr : Runs s c t th h.g) (hf : FlagOf s c th h fl) (hs : regsOk th spans = true) (hb : body fl c t th s = .error f) :
    classL h spans body s = .next (s.takeFault c t f (s.site c th)) := by
  refine runThread_error hr ?_
  unfold FlagOf at hf
  simp only [hf, checked_ok hs, hb]

/-- Everything that a class L instruction can answer as a next state. -/
theorem classL_next {s s' : State} {h : LHdr} {spans : List (Nat × Nat)} {body : Option Nat → Body} (hn : classL h spans body s = .next s') :
    ∃ c t th, s.cur = .thread c t ∧ s.thread? c t = some th ∧
      (s' = s ∨ (∃ f, s' = s.takeFault c t f (s.site c th)) ∨ ∃ fl, FlagOf s c th h fl ∧ regsOk th spans = true ∧ body fl c t th s = .ok s') := by
  obtain ⟨c, t, th, hc, ht, hs⟩ := runThread_next hn
  refine ⟨c, t, th, hc, ht, ?_⟩
  rcases hs with hs | hs | hs
  · exact .inl hs
  · exact .inr (.inl hs)
  · split at hs
    · exact nomatch hs
    · rename_i fl hf
      exact .inr (.inr ⟨fl, hf, checked_eq_ok hs⟩)

/-! ## Taking a fault -/

@[simp] theorem State.recordFault_mem (s : State) (x code c t : Nat) (n : Bool) (a : Dword) : (s.recordFault x code c t n a).mem = s.mem := rfl
@[simp] theorem State.recordFault_hostMem (s : State) (x code c t : Nat) (n : Bool) (a : Dword) :
    (s.recordFault x code c t n a).hostMem = s.hostMem := rfl
@[simp] theorem State.recordFault_blocks (s : State) (x code c t : Nat) (n : Bool) (a : Dword) :
    (s.recordFault x code c t n a).blocks = s.blocks := rfl
@[simp] theorem State.recordFault_cores (s : State) (x code c t : Nat) (n : Bool) (a : Dword) :
    (s.recordFault x code c t n a).cores = s.cores := rfl

/-- A fault changes no byte of memory and no block. -/
theorem State.takeFault_bytes (s : State) (c t : Nat) (f : Flt) (at_ : Site) :
    (s.takeFault c t f at_).mem.cells = s.mem.cells ∧ (s.takeFault c t f at_).hostMem = s.hostMem ∧ (s.takeFault c t f at_).blocks = s.blocks := by
  unfold State.takeFault
  split
  · exact ⟨rfl, rfl, rfl⟩
  · rename_i th _
    have h0 := s.faultWalk_caches th f
    have h1 := h0.trans ((s.faultWalk th f).vectorRead_caches th.ctx f.code)
    have esc : ∀ (x : State) n, CachesOnly s x → (x.escalate c t th n f at_).mem.cells = s.mem.cells ∧
        (x.escalate c t th n f at_).hostMem = s.hostMem ∧ (x.escalate c t th n f at_).blocks = s.blocks :=
      fun x n h => ⟨h.2.2.2.2, h.2.2.2.1, h.2.1⟩
    dsimp only
    split
    · exact esc _ _ h0
    · split
      · exact esc _ _ h0
      · split
        · simp [State.awaitVector]
        · split
          · exact esc _ _ h1
          · exact ⟨h1.2.2.2.2, h1.2.2.2.1, h1.2.1⟩

theorem State.takeFault_get (s : State) (c t : Nat) (f : Flt) (at_ : Site) (a : Nat) : (s.takeFault c t f at_).mem.get a = s.mem.get a := by
  unfold Store.get; rw [(s.takeFault_bytes c t f at_).1]
@[simp] theorem State.takeFault_hostMem (s : State) (c t : Nat) (f : Flt) (at_ : Site) : (s.takeFault c t f at_).hostMem = s.hostMem :=
  (s.takeFault_bytes c t f at_).2.1
@[simp] theorem State.takeFault_blocks (s : State) (c t : Nat) (f : Flt) (at_ : Site) : (s.takeFault c t f at_).blocks = s.blocks :=
  (s.takeFault_bytes c t f at_).2.2

/-- Leaving a gang changes no thread. -/
@[simp] theorem State.leaveGang_thread (s : State) (c t d u : Nat) : (s.leaveGang c t).thread? d u = s.thread? d u := by
  unfold State.leaveGang State.thread?
  by_cases h : d = c
  · subst h; simp
  · simp [State.setCore_core_ne _ _ _ _ h]

/-- What a fault leaves in the thread that takes it: its entry into the handler, its stop, or its wait for an engine that owns the line of the
vector. -/
theorem State.takeFault_thread {s : State} {c t : Nat} {th : Thread} (f : Flt) (at_ : Site) (h : s.thread? c t = some th) :
    (s.takeFault c t f at_).thread? c t = some (th.enter f at_ (s.vector th.ctx f.code).1) ∨
    (s.takeFault c t f at_).thread? c t =
      some { th.standAt at_ with status := if th.exitedB then .exited else .escalated, crun := none } ∨
    (s.vectorHeld th.ctx f.code = true ∧
      (s.takeFault c t f at_).thread? c t = some { th with status := .parked (.vector f.code f.faddr f.finfo at_) }) := by
  have esc : ∀ (s : State) n, (s.escalate c t th n f at_).thread? c t =
      some { th.standAt at_ with status := if th.exitedB then .exited else .escalated, crun := none } := by
    intro s n
    unfold State.escalate
    rw [show ∀ (x : State) a b d e g k, (x.recordFault a b d e g k).thread? c t = x.thread? c t from fun _ _ _ _ _ _ _ => rfl,
      State.leaveGang_thread, State.setThread_thread]
  unfold State.takeFault
  simp only [h]
  split
  · exact .inr (.inl (esc _ _))
  · split
    · exact .inr (.inl (esc _ _))
    · split
      · rename_i hv
        exact .inr (.inr ⟨hv, by unfold State.awaitVector; rw [State.leaveGang_thread, State.setThread_thread]⟩)
      · split
        · exact .inr (.inl (esc _ _))
        · exact .inl (by rw [State.leaveGang_thread, State.setThread_thread])

/-- A fault changes no other thread. -/
theorem State.takeFault_thread_ne (s : State) (c t d u : Nat) (f : Flt) (at_ : Site) (h : (d, u) ≠ (c, t)) :
    (s.takeFault c t f at_).thread? d u = s.thread? d u := by
  have esc : ∀ (x : State) th n, CachesOnly s x → (x.escalate c t th n f at_).thread? d u = s.thread? d u := by
    intro x th n hx
    unfold State.escalate
    rw [show ∀ (x : State) a b e g k l, (x.recordFault a b e g k l).thread? d u = x.thread? d u from fun _ _ _ _ _ _ _ => rfl,
      State.leaveGang_thread, State.setThread_thread_ne _ _ _ _ _ _ h, hx.thread]
  unfold State.takeFault
  split
  · rfl
  · rename_i th _
    have h0 := s.faultWalk_caches th f
    have h1 := h0.trans ((s.faultWalk th f).vectorRead_caches th.ctx f.code)
    dsimp only
    split
    · exact esc _ _ _ h0
    · split
      · exact esc _ _ _ h0
      · split
        · unfold State.awaitVector
          rw [State.leaveGang_thread, State.setThread_thread_ne _ _ _ _ _ _ h]
          simp [State.thread?, State.core]
        · split
          · exact esc _ _ _ h1
          · rw [State.leaveGang_thread, State.setThread_thread_ne _ _ _ _ _ _ h, h1.thread]

/-! ## Issuing an operation -/

@[simp] theorem State.issueOp_mem (s : State) (c t : Nat) (th : Thread) (fl : Option Nat) (k : OpKind) (a : Acc) :
    (s.issueOp c t th fl k a).mem = s.mem := rfl
@[simp] theorem State.issueOp_hostMem (s : State) (c t : Nat) (th : Thread) (fl : Option Nat) (k : OpKind) (a : Acc) :
    (s.issueOp c t th fl k a).hostMem = s.hostMem := rfl
@[simp] theorem State.issueOp_blocks (s : State) (c t : Nat) (th : Thread) (fl : Option Nat) (k : OpKind) (a : Acc) :
    (s.issueOp c t th fl k a).blocks = s.blocks := rfl

/-- What issuing does to the thread: one operation more in flight and its flag counted; registers and predicates stand. -/
theorem State.issueOp_thread (s : State) (c t : Nat) (th : Thread) (fl : Option Nat) (k : OpKind) (a : Acc) :
    ∃ th' o, (s.issueOp c t th fl k a).thread? c t = some th' ∧ th'.ops = th.ops ++ [o] ∧ o.uid = s.uid ∧ o.kind = k ∧ o.flag = fl ∧
      th'.g = th.g ∧ th'.p = th.p ∧ th'.status = th.status ∧
      th'.f = (match fl with | some i => (th.setFlag i (th.flagCount i + 1)).f | none => th.f) := by
  cases fl <;> exact ⟨_, _, State.setThread_thread .., rfl, rfl, rfl, rfl, rfl, rfl, rfl, rfl⟩

/-- Issuing changes no other thread. -/
theorem State.issueOp_thread_ne (s : State) (c t d u : Nat) (th : Thread) (fl : Option Nat) (k : OpKind) (a : Acc) (h : (d, u) ≠ (c, t)) :
    (s.issueOp c t th fl k a).thread? d u = s.thread? d u := by
  unfold State.issueOp State.issueAt
  rw [State.setThread_thread_ne _ _ _ _ _ _ h]
  rfl

end Sys2Proof.Machine
end

