-- ==== Sys2Proof/Laws/Crew.lean ====
section
/-! SUPPORT. What a release at the end of a core cycle and the wait for a thread's own earlier action can do: which fields a wake
leaves as they are, and the two outcomes of `afterOwn`. -/

namespace Sys2Proof.Machine

@[simp] theorem State.wake_mem (s : State) (c t : Nat) : (s.wake c t).mem = s.mem := by
  unfold State.wake State.mapThread; split <;> rfl

@[simp] theorem State.wake_hostMem (s : State) (c t : Nat) : (s.wake c t).hostMem = s.hostMem := by
  unfold State.wake State.mapThread; split <;> rfl

@[simp] theorem State.wake_blocks (s : State) (c t : Nat) : (s.wake c t).blocks = s.blocks := by
  unfold State.wake State.mapThread; split <;> rfl

@[simp] theorem State.wakeNext_mem (s : State) (c t : Nat) : (s.wakeNext c t).mem = s.mem := State.wake_mem s c t

@[simp] theorem State.wakeNext_hostMem (s : State) (c t : Nat) : (s.wakeNext c t).hostMem = s.hostMem := State.wake_hostMem s c t

@[simp] theorem State.wakeNext_blocks (s : State) (c t : Nat) : (s.wakeNext c t).blocks = s.blocks := State.wake_blocks s c t

/-- A fold of moves that each keep the resident blocks keeps them. -/
theorem foldl_blocks {α : Type} {f : State → α → State} (h : ∀ s a, (f s a).blocks = s.blocks) (l : List α) (s : State) :
    (l.foldl f s).blocks = s.blocks := by
  induction l generalizing s with
  | nil => rfl
  | cons a l ih => exact (ih _).trans (h s a)

@[simp] theorem State.releaseNext_blocks (s : State) (c : Nat) (b : Bid) (crew m : Nat) (set : Dword) :
    (s.releaseNext c b crew m set).blocks = s.blocks := foldl_blocks (fun s t => s.wakeNext_blocks c t) _ s

/-- A mask that is not complete is left as it is by the test that ends a cycle (R178). -/
theorem State.testMask_open {s : State} {c : Nat} {b : Bid} {crew m : Nat} (h : (s.mask b crew m).complete = false) :
    s.testMask c b crew m = s := by simp [State.testMask, h]

/-- The tests that end a cycle change nothing in a crew that has no complete mask and is not deadlocked (R178, R181). -/
theorem State.settleCrew_idle {s : State} {c : Nat} {b : Bid} {crew : Nat} (h : ∀ m < 12, (s.mask b crew m).complete = false)
    (hd : s.deadlocked c b crew = false) : s.settleCrew c b crew = s := by
  have fold : ∀ l : List Nat, (∀ m ∈ l, (s.mask b crew m).complete = false) → l.foldl (fun s m => s.testMask c b crew m) s = s := by
    intro l
    induction l with
    | nil => exact fun _ => rfl
    | cons m l ih =>
      intro hl
      rw [List.foldl_cons, State.testMask_open (hl m (List.mem_cons_self ..))]
      exact ih fun x hx => hl x (List.mem_cons_of_mem _ hx)
  unfold State.settleCrew
  rw [fold _ fun m hm => h m (List.mem_range.mp hm)]
  simp [hd]

/-- While an earlier action of the thread that `p` names is held back, the instruction is offered again (R227). -/
theorem afterOwn_held {p : RelAct → Bool} {k : Body} {c t : Nat} {th : Thread} {s : State} {o : Op} {a : RelAct} (ho : o ∈ th.ops)
    (hk : o.kind = .act a) (hp : p a = true) : afterOwn p k c t th s = .ok s.stall := by
  have h : (th.ops.any fun o => match o.kind with | .act a => p a | _ => false) = true :=
    List.any_eq_true.mpr ⟨o, ho, by rw [hk]; exact hp⟩
  exact if_pos h

/-- With none, its body runs. -/
theorem afterOwn_free {p : RelAct → Bool} {k : Body} {c t : Nat} {th : Thread} {s : State}
    (h : ∀ o ∈ th.ops, ∀ a, o.kind = .act a → p a = false) : afterOwn p k c t th s = k c t th s := by
  have h : (th.ops.any fun o => match o.kind with | .act a => p a | _ => false) = false := by
    refine List.any_eq_false.mpr fun o ho => ?_
    split
    · rename_i a ha; simp [h o ho a ha]
    · simp
  exact if_neg (ne_true_of_eq_false h)

end Sys2Proof.Machine
end

