-- ==== Sys2Proof/Laws/PerInstr.lean ====
section
/-! SUPPORT. The family of statements about every instruction as syntax: the fields that the encoder gives a thread
instruction are those of an instruction, never those of a clause header (R70, R75). -/

namespace Sys2Proof.Laws

/-- The length code of an encoded thread instruction is not the header's 0b00. -/
def Encodes.Statement (i : Instr) : Prop := ∀ r, encRaw i = some r → r.len ≠ 0

/-! ## The length of each shape -/

theorem one_ne : (1 : BitVec 2) ≠ 0 := by decide
theorem two_ne : (2 : BitVec 2) ≠ 0 := by decide
theorem three_ne : (3 : BitVec 2) ≠ 0 := by decide

theorem len_encSrcB (r : Raw) (v : Src) (h : r.len ≠ 0) : (encSrcB r v).len ≠ 0 := by
  cases v <;> first | exact h | exact two_ne

theorem len_encRIb (r : Raw) (v : RI) (h : r.len ≠ 0) : (encRIb r v).len ≠ 0 := by
  cases v <;> first | exact h | exact two_ne

theorem len_encRIa (r : Raw) (v : RI) (h : r.len ≠ 0) : (encRIa r v).len ≠ 0 := by
  cases v <;> first | exact h | exact two_ne

theorem len_encRIc (r : Raw) (v : RI) (h : r.len ≠ 0) : (encRIc r v).len ≠ 0 := by
  cases v <;> first | exact h | exact two_ne

theorem len_encR8 (r : Raw) (v : R8) (h : r.len ≠ 0) : (encR8 r v).len ≠ 0 := by
  cases v <;> first | exact h | exact two_ne

theorem len_encOff (r : Raw) (v : Off) (h : r.len ≠ 0) : (encOff r v).len ≠ 0 := by
  cases v <;> first | exact h | exact two_ne

theorem len_encBare (op : Byte) (x : Bare) : (encBare op x).len ≠ 0 := one_ne

theorem len_encNop (x : NopArgs) : (encNop x).len ≠ 0 := by
  unfold encNop
  split <;> first | exact one_ne | exact two_ne

theorem len_encBra (op : Byte) (x : BraArgs) : (encBra op x).len ≠ 0 := two_ne

theorem len_encA (op : Byte) (x : AArgs) : (encA op x).len ≠ 0 := one_ne

theorem len_encD (op : Byte) (x : DArgs) : (encD op x).len ≠ 0 := one_ne

theorem len_encPause (x : PauseArgs) : (encPause x).len ≠ 0 := by
  unfold encPause
  split <;> first | exact one_ne | exact two_ne

theorem len_encAlu3 (op : Byte) (x : Alu3Args) : (encAlu3 op x).len ≠ 0 := len_encSrcB _ _ one_ne

theorem len_encImad (x : ImadArgs) : (encImad x).len ≠ 0 := by
  unfold encImad
  split <;> first | exact one_ne | exact two_ne

theorem len_encUn (op : Byte) (x : UnArgs) : (encUn op x).len ≠ 0 := one_ne

theorem len_encLea (x : LeaArgs) : (encLea x).len ≠ 0 := len_encSrcB _ _ one_ne

theorem len_encIcmp (x : IcmpArgs) : (encIcmp x).len ≠ 0 := len_encSrcB _ _ one_ne

theorem len_encIsel (x : IselArgs) : (encIsel x).len ≠ 0 := one_ne

theorem len_encMovi (x : MoviArgs) : (encMovi x).len ≠ 0 := by
  unfold encMovi
  split <;> first | exact one_ne | exact two_ne | exact three_ne

theorem len_encMovs (x : MovsArgs) : (encMovs x).len ≠ 0 := one_ne

theorem len_encLut3 (x : Lut3Args) : (encLut3 x).len ≠ 0 := one_ne

theorem len_encPlut (x : PlutArgs) : (encPlut x).len ≠ 0 := one_ne

theorem len_encRot (x : RotArgs) : (encRot x).len ≠ 0 := len_encSrcB _ _ one_ne

theorem len_encBfe (x : BfeArgs) : (encBfe x).len ≠ 0 := one_ne

theorem len_encBfi (x : BfiArgs) : (encBfi x).len ≠ 0 := one_ne

theorem len_encBsel (x : BselArgs) : (encBsel x).len ≠ 0 := one_ne

theorem len_encFp3 (op : Byte) (x : Fp3Args) : (encFp3 op x).len ≠ 0 := len_encRIb _ _ one_ne

theorem len_encFma (op : Byte) (x : FmaArgs) : (encFma op x).len ≠ 0 := len_encRIc _ _ one_ne

theorem len_encFcmp (op : Byte) (x : FcmpArgs) : (encFcmp op x).len ≠ 0 := len_encRIb _ _ one_ne

theorem len_encF1 (op : Byte) (x : F1Args) : (encF1 op x).len ≠ 0 := one_ne

theorem len_encCvt (x : CvtArgs) : (encCvt x).len ≠ 0 := one_ne

theorem len_encCvts (x : CvtsArgs) : (encCvts x).len ≠ 0 := one_ne

theorem len_encRnd (sub : BitVec 6) (x : RndArgs) : (encRnd sub x).len ≠ 0 := one_ne

theorem len_encMask (op : Byte) (x : MaskArgs) : (encMask op x).len ≠ 0 := one_ne

theorem len_encWaitPut (x : WaitPutArgs) : (encWaitPut x).len ≠ 0 := one_ne

theorem len_encMset (x : MsetArgs) : (encMset x).len ≠ 0 := one_ne

theorem len_encMsetRd (x : MsetArgs) : (encMsetRd x).len ≠ 0 := one_ne

theorem len_encXshf (x : XshfArgs) : (encXshf x).len ≠ 0 := one_ne

theorem len_encXvote (x : XvoteArgs) : (encXvote x).len ≠ 0 := one_ne

theorem len_encXbal (x : XbalArgs) : (encXbal x).len ≠ 0 := one_ne

theorem len_encXred (x : XredArgs) : (encXred x).len ≠ 0 := one_ne

theorem len_encLd (x : LdArgs) : (encLd x).len ≠ 0 := len_encOff _ _ one_ne

theorem len_encSt (x : StArgs) : (encSt x).len ≠ 0 := len_encOff _ _ one_ne

theorem len_encLdc (x : LdcArgs) : (encLdc x).len ≠ 0 := one_ne

theorem len_encPref (x : PrefArgs) : (encPref x).len ≠ 0 := len_encOff _ _ one_ne

theorem len_encFence (x : FenceArgs) : (encFence x).len ≠ 0 := one_ne

theorem len_encCctl (op : BitVec 4) (x : Bare) : (encCctl op x).len ≠ 0 := one_ne

theorem len_encIinv (x : IinvArgs) : (encIinv x).len ≠ 0 := one_ne

theorem len_encAtom (x : AtomArgs) : (encAtom x).len ≠ 0 := len_encOff _ _ one_ne

theorem len_encCas (x : CasArgs) : (encCas x).len ≠ 0 := one_ne

theorem len_encRed (x : RedArgs) : (encRed x).len ≠ 0 := len_encOff _ _ one_ne

theorem len_encRedt (x : RedtArgs) : (encRedt x).len ≠ 0 := two_ne

theorem len_encRclose (x : RcloseArgs) : (encRclose x).len ≠ 0 := one_ne

theorem len_encCpy (out : Bool) (x : CpyArgs) : (encCpy out x).len ≠ 0 := len_encOff _ _ one_ne

theorem len_encTbar (op : Byte) (sub : BitVec 6) (x : TbarArgs) : (encTbar op sub x).len ≠ 0 := len_encR8 _ _ one_ne

theorem len_encTbarw (x : TbarwArgs) : (encTbarw x).len ≠ 0 := len_encR8 _ _ one_ne

theorem len_encBar (sub : BitVec 6) (x : BarArgs) : (encBar sub x).len ≠ 0 := one_ne

theorem len_encRing (op : Byte) (sub : BitVec 6) (x : RingArgs) : (encRing op sub x).len ≠ 0 := len_encR8 _ _ one_ne

theorem len_encWld (op : Byte) (x : WldArgs) : (encWld op x).len ≠ 0 := by
  unfold encWld
  split <;> first | exact one_ne | exact two_ne

theorem len_encMloop (x : MloopArgs) : (encMloop x).len ≠ 0 := three_ne

theorem len_encMzero (x : MzeroArgs) : (encMzero x).len ≠ 0 := two_ne

theorem len_encDcfg (x : DcfgArgs) : (encDcfg x).len ≠ 0 := len_encRIa _ _ one_ne

theorem len_encVec (op : Byte) (x : VecArgs) : (encVec op x).len ≠ 0 := two_ne

theorem len_encVcvt (x : VcvtArgs) : (encVcvt x).len ≠ 0 := two_ne

theorem len_encVst (x : VstArgs) : (encVst x).len ≠ 0 := two_ne

theorem len_encLdlStart (x : LdlStartArgs) : (encLdlStart x).len ≠ 0 := three_ne

theorem len_encLdlStartAt (x : LdlStartAtArgs) : (encLdlStartAt x).len ≠ 0 := three_ne

theorem len_encDA (op : Byte) (sub : BitVec 6) (x : DAArgs) : (encDA op sub x).len ≠ 0 := one_ne

theorem len_encLdlBase (x : LdlBaseArgs) : (encLdlBase x).len ≠ 0 := len_encRIa _ _ one_ne

theorem len_encLdlFree (x : LdlFreeArgs) : (encLdlFree x).len ≠ 0 := one_ne

theorem len_encAwait (x : LdlBaseArgs) : (encAwait x).len ≠ 0 := len_encRIb _ _ one_ne

theorem len_encArels (x : ArelsArgs) : (encArels x).len ≠ 0 := len_encRIb _ _ one_ne

theorem len_encRld (x : RldArgs) : (encRld x).len ≠ 0 := len_encOff _ _ one_ne

theorem len_encRst (x : RstArgs) : (encRst x).len ≠ 0 := len_encOff _ _ one_ne

theorem len_encRatom (x : RatomArgs) : (encRatom x).len ≠ 0 := len_encOff _ _ one_ne

theorem len_encRatomCas (x : RatomCasArgs) : (encRatomCas x).len ≠ 0 := one_ne

theorem len_encRred (x : RredArgs) : (encRred x).len ≠ 0 := len_encOff _ _ one_ne

theorem len_encFlow (sub : BitVec 6) (x : Bare) : (encFlow sub x).len ≠ 0 := one_ne

theorem len_encColl (x : CollArgs) : (encColl x).len ≠ 0 := three_ne

theorem len_encTok (op : Byte) (x : TokArgs) : (encTok op x).len ≠ 0 := len_encRIb _ _ one_ne

theorem len_encMfence (x : MfenceArgs) : (encMfence x).len ≠ 0 := one_ne

theorem len_encTrap (op : Byte) (x : TrapArgs) : (encTrap op x).len ≠ 0 := one_ne

theorem len_encSub (op : Byte) (sub : BitVec 6) (x : Bare) : (encSub op sub x).len ≠ 0 := one_ne

theorem len_encSrd (x : SrArgs) : (encSrd x).len ≠ 0 := one_ne

theorem len_encSwr (x : SrArgs) : (encSwr x).len ≠ 0 := one_ne

theorem len_encFltrPg (x : AArgs) : (encFltrPg x).len ≠ 0 := one_ne

theorem len_encPerfr (x : PerfrArgs) : (encPerfr x).len ≠ 0 := one_ne

/-! ## Every instruction -/

namespace Encodes

theorem nop (x) : Statement (.nop x) := fun _ h => Option.some.inj h ▸ len_encNop _
theorem bra (x) : Statement (.bra x) := fun _ h => Option.some.inj h ▸ len_encBra _ _
theorem brx (x) : Statement (.brx x) := fun _ h => Option.some.inj h ▸ len_encA _ _
theorem call (x) : Statement (.call x) := fun _ h => Option.some.inj h ▸ len_encBra _ _
theorem callx (x) : Statement (.callx x) := fun _ h => Option.some.inj h ▸ len_encA _ _
theorem ret (x) : Statement (.ret x) := fun _ h => Option.some.inj h ▸ len_encBare _ _
theorem exit (x) : Statement (.exit x) := fun _ h => Option.some.inj h ▸ len_encBare _ _
theorem yield (x) : Statement (.yield x) := fun _ h => Option.some.inj h ▸ len_encBare _ _
theorem pause (x) : Statement (.pause x) := fun _ h => Option.some.inj h ▸ len_encPause _
theorem iadd (x) : Statement (.iadd x) := fun _ h => Option.some.inj h ▸ len_encAlu3 _ _
theorem isub (x) : Statement (.isub x) := fun _ h => Option.some.inj h ▸ len_encAlu3 _ _
theorem imul (x) : Statement (.imul x) := fun _ h => Option.some.inj h ▸ len_encAlu3 _ _
theorem imulh (x) : Statement (.imulh x) := fun _ h => Option.some.inj h ▸ len_encAlu3 _ _
theorem imad (x) : Statement (.imad x) := fun _ h => Option.some.inj h ▸ len_encImad _
theorem idiv (x) : Statement (.idiv x) := fun _ h => Option.some.inj h ▸ len_encAlu3 _ _
theorem irem (x) : Statement (.irem x) := fun _ h => Option.some.inj h ▸ len_encAlu3 _ _
theorem imin (x) : Statement (.imin x) := fun _ h => Option.some.inj h ▸ len_encAlu3 _ _
theorem imax (x) : Statement (.imax x) := fun _ h => Option.some.inj h ▸ len_encAlu3 _ _
theorem iabs (x) : Statement (.iabs x) := fun _ h => Option.some.inj h ▸ len_encUn _ _
theorem lea (x) : Statement (.lea x) := fun _ h => Option.some.inj h ▸ len_encLea _
theorem icmp (x) : Statement (.icmp x) := fun _ h => Option.some.inj h ▸ len_encIcmp _
theorem isel (x) : Statement (.isel x) := fun _ h => Option.some.inj h ▸ len_encIsel _
theorem mov (x) : Statement (.mov x) := fun _ h => Option.some.inj h ▸ len_encUn _ _
theorem movi (x) : Statement (.movi x) := fun _ h => Option.some.inj h ▸ len_encMovi _
theorem movs (x) : Statement (.movs x) := fun _ h => Option.some.inj h ▸ len_encMovs _
theorem and (x) : Statement (.and x) := fun _ h => Option.some.inj h ▸ len_encAlu3 _ _
theorem or (x) : Statement (.or x) := fun _ h => Option.some.inj h ▸ len_encAlu3 _ _
theorem xor (x) : Statement (.xor x) := fun _ h => Option.some.inj h ▸ len_encAlu3 _ _
theorem lut3 (x) : Statement (.lut3 x) := fun _ h => Option.some.inj h ▸ len_encLut3 _
theorem plut (x) : Statement (.plut x) := fun _ h => Option.some.inj h ▸ len_encPlut _
theorem shl (x) : Statement (.shl x) := fun _ h => Option.some.inj h ▸ len_encAlu3 _ _
theorem shr (x) : Statement (.shr x) := fun _ h => Option.some.inj h ▸ len_encAlu3 _ _
theorem rot (x) : Statement (.rot x) := fun _ h => Option.some.inj h ▸ len_encRot _
theorem bfe (x) : Statement (.bfe x) := fun _ h => Option.some.inj h ▸ len_encBfe _
theorem bfi (x) : Statement (.bfi x) := fun _ h => Option.some.inj h ▸ len_encBfi _
theorem popc (x) : Statement (.popc x) := fun _ h => Option.some.inj h ▸ len_encUn _ _
theorem clz (x) : Statement (.clz x) := fun _ h => Option.some.inj h ▸ len_encUn _ _
theorem brev (x) : Statement (.brev x) := fun _ h => Option.some.inj h ▸ len_encUn _ _
theorem bsel (x) : Statement (.bsel x) := fun _ h => Option.some.inj h ▸ len_encBsel _
theorem fadd (x) : Statement (.fadd x) := fun _ h => Option.some.inj h ▸ len_encFp3 _ _
theorem fsub (x) : Statement (.fsub x) := fun _ h => Option.some.inj h ▸ len_encFp3 _ _
theorem fmul (x) : Statement (.fmul x) := fun _ h => Option.some.inj h ▸ len_encFp3 _ _
theorem fma (x) : Statement (.fma x) := fun _ h => Option.some.inj h ▸ len_encFma _ _
theorem fdiv (x) : Statement (.fdiv x) := fun _ h => Option.some.inj h ▸ len_encFp3 _ _
theorem fmin (x) : Statement (.fmin x) := fun _ h => Option.some.inj h ▸ len_encFp3 _ _
theorem fmax (x) : Statement (.fmax x) := fun _ h => Option.some.inj h ▸ len_encFp3 _ _
theorem fcmp (x) : Statement (.fcmp x) := fun _ h => Option.some.inj h ▸ len_encFcmp _ _
theorem fclass (x) : Statement (.fclass x) := fun _ h => Option.some.inj h ▸ len_encF1 _ _
theorem hadd2 (x) : Statement (.hadd2 x) := fun _ h => Option.some.inj h ▸ len_encFp3 _ _
theorem hsub2 (x) : Statement (.hsub2 x) := fun _ h => Option.some.inj h ▸ len_encFp3 _ _
theorem hmul2 (x) : Statement (.hmul2 x) := fun _ h => Option.some.inj h ▸ len_encFp3 _ _
theorem hfma2 (x) : Statement (.hfma2 x) := fun _ h => Option.some.inj h ▸ len_encFma _ _
theorem hmin2 (x) : Statement (.hmin2 x) := fun _ h => Option.some.inj h ▸ len_encFp3 _ _
theorem hmax2 (x) : Statement (.hmax2 x) := fun _ h => Option.some.inj h ▸ len_encFp3 _ _
theorem hcmp2 (x) : Statement (.hcmp2 x) := fun _ h => Option.some.inj h ▸ len_encFcmp _ _
theorem cvt (x) : Statement (.cvt x) := fun _ h => Option.some.inj h ▸ len_encCvt _
theorem cvts (x) : Statement (.cvts x) := fun _ h => Option.some.inj h ▸ len_encCvts _
theorem frint (x) : Statement (.frint x) := fun _ h => Option.some.inj h ▸ len_encF1 _ _
theorem pack (x) : Statement (.pack x) := fun _ h => Option.some.inj h ▸ len_encFp3 _ _
theorem unpk (x) : Statement (.unpk x) := fun _ h => Option.some.inj h ▸ len_encF1 _ _
theorem rnd (x) : Statement (.rnd x) := fun _ h => Option.some.inj h ▸ len_encRnd _ _
theorem rndLo (x) : Statement (.rndLo x) := fun _ h => Option.some.inj h ▸ len_encRnd _ _
theorem fexp2 (x) : Statement (.fexp2 x) := fun _ h => Option.some.inj h ▸ len_encF1 _ _
theorem flog2 (x) : Statement (.flog2 x) := fun _ h => Option.some.inj h ▸ len_encF1 _ _
theorem frcp (x) : Statement (.frcp x) := fun _ h => Option.some.inj h ▸ len_encF1 _ _
theorem frsq (x) : Statement (.frsq x) := fun _ h => Option.some.inj h ▸ len_encF1 _ _
theorem fsqrt (x) : Statement (.fsqrt x) := fun _ h => Option.some.inj h ▸ len_encF1 _ _
theorem fsin (x) : Statement (.fsin x) := fun _ h => Option.some.inj h ▸ len_encF1 _ _
theorem fcos (x) : Statement (.fcos x) := fun _ h => Option.some.inj h ▸ len_encF1 _ _
theorem ftanh (x) : Statement (.ftanh x) := fun _ h => Option.some.inj h ▸ len_encF1 _ _
theorem ld (x) : Statement (.ld x) := fun _ h => Option.some.inj h ▸ len_encLd _
theorem st (x) : Statement (.st x) := fun _ h => Option.some.inj h ▸ len_encSt _
theorem ldc (x) : Statement (.ldc x) := fun _ h => Option.some.inj h ▸ len_encLdc _
theorem pref (x) : Statement (.pref x) := fun _ h => Option.some.inj h ▸ len_encPref _
theorem fence (x) : Statement (.fence x) := fun _ h => Option.some.inj h ▸ len_encFence _
theorem cctlL1inv (x) : Statement (.cctlL1inv x) := fun _ h => Option.some.inj h ▸ len_encCctl _ _
theorem cctlIinv (x) : Statement (.cctlIinv x) := fun _ h => Option.some.inj h ▸ len_encIinv _
theorem cctlIinvall (x) : Statement (.cctlIinvall x) := fun _ h => Option.some.inj h ▸ len_encCctl _ _
theorem atom (x) : Statement (.atom x) := fun _ h => Option.some.inj h ▸ len_encAtom _
theorem cas (x) : Statement (.cas x) := fun _ h => Option.some.inj h ▸ len_encCas _
theorem red (x) : Statement (.red x) := fun _ h => Option.some.inj h ▸ len_encRed _
theorem redt (x) : Statement (.redt x) := fun _ h => Option.some.inj h ▸ len_encRedt _
theorem rclose (x) : Statement (.rclose x) := fun _ h => Option.some.inj h ▸ len_encRclose _
theorem cpyIn (x) : Statement (.cpyIn x) := fun _ h => Option.some.inj h ▸ len_encCpy _ _
theorem cpyOut (x) : Statement (.cpyOut x) := fun _ h => Option.some.inj h ▸ len_encCpy _ _
theorem tbari (x) : Statement (.tbari x) := fun _ h => Option.some.inj h ▸ len_encTbar _ _ _
theorem tbara (x) : Statement (.tbara x) := fun _ h => Option.some.inj h ▸ len_encA _ _
theorem tbaraN (x) : Statement (.tbaraN x) := fun _ h => Option.some.inj h ▸ len_encTbar _ _ _
theorem tbarvd (x) : Statement (.tbarvd x) := fun _ h => Option.some.inj h ▸ len_encA _ _
theorem tbarw (x) : Statement (.tbarw x) := fun _ h => Option.some.inj h ▸ len_encTbarw _
theorem bar (x) : Statement (.bar x) := fun _ h => Option.some.inj h ▸ len_encBar _ _
theorem barArv (x) : Statement (.barArv x) := fun _ h => Option.some.inj h ▸ len_encBar _ _
theorem ringp (x) : Statement (.ringp x) := fun _ h => Option.some.inj h ▸ len_encRing _ _ _
theorem ringwEmpty (x) : Statement (.ringwEmpty x) := fun _ h => Option.some.inj h ▸ len_encRing _ _ _
theorem ringwFull (x) : Statement (.ringwFull x) := fun _ h => Option.some.inj h ▸ len_encRing _ _ _
theorem join (x) : Statement (.join x) := fun _ h => Option.some.inj h ▸ len_encMask _ _
theorem leave (x) : Statement (.leave x) := fun _ h => Option.some.inj h ▸ len_encMask _ _
theorem wait (x) : Statement (.wait x) := fun _ h => Option.some.inj h ▸ len_encMask _ _
theorem waitPut (x) : Statement (.waitPut x) := fun _ h => Option.some.inj h ▸ len_encWaitPut _
theorem mset (x) : Statement (.mset x) := fun _ h => Option.some.inj h ▸ len_encMset _
theorem msetRd (x) : Statement (.msetRd x) := fun _ h => Option.some.inj h ▸ len_encMsetRd _
theorem xshf (x) : Statement (.xshf x) := fun _ h => Option.some.inj h ▸ len_encXshf _
theorem xvote (x) : Statement (.xvote x) := fun _ h => Option.some.inj h ▸ len_encXvote _
theorem xbal (x) : Statement (.xbal x) := fun _ h => Option.some.inj h ▸ len_encXbal _
theorem xred (x) : Statement (.xred x) := fun _ h => Option.some.inj h ▸ len_encXred _
theorem wld (x) : Statement (.wld x) := fun _ h => Option.some.inj h ▸ len_encWld _ _
theorem wlds (x) : Statement (.wlds x) := fun _ h => Option.some.inj h ▸ len_encWld _ _
theorem mloop (x) : Statement (.mloop x) := fun _ h => Option.some.inj h ▸ len_encMloop _
theorem mzero (x) : Statement (.mzero x) := fun _ h => Option.some.inj h ▸ len_encMzero _
theorem msync (x) : Statement (.msync x) := fun _ h => Option.some.inj h ▸ len_encBare _ _
theorem mstat (x) : Statement (.mstat x) := fun _ h => Option.some.inj h ▸ len_encD _ _
theorem msclr (x) : Statement (.msclr x) := fun _ h => Option.some.inj h ▸ len_encA _ _
theorem dcfg (x) : Statement (.dcfg x) := fun _ h => Option.some.inj h ▸ len_encDcfg _
theorem vadd (x) : Statement (.vadd x) := fun _ h => Option.some.inj h ▸ len_encVec _ _
theorem vsub (x) : Statement (.vsub x) := fun _ h => Option.some.inj h ▸ len_encVec _ _
theorem vmul (x) : Statement (.vmul x) := fun _ h => Option.some.inj h ▸ len_encVec _ _
theorem vfma (x) : Statement (.vfma x) := fun _ h => Option.some.inj h ▸ len_encVec _ _
theorem vmin (x) : Statement (.vmin x) := fun _ h => Option.some.inj h ▸ len_encVec _ _
theorem vmax (x) : Statement (.vmax x) := fun _ h => Option.some.inj h ▸ len_encVec _ _
theorem vexp2 (x) : Statement (.vexp2 x) := fun _ h => Option.some.inj h ▸ len_encVec _ _
theorem vrmax (x) : Statement (.vrmax x) := fun _ h => Option.some.inj h ▸ len_encVec _ _
theorem vrsum (x) : Statement (.vrsum x) := fun _ h => Option.some.inj h ▸ len_encVec _ _
theorem vscl (x) : Statement (.vscl x) := fun _ h => Option.some.inj h ▸ len_encVec _ _
theorem vcvt (x) : Statement (.vcvt x) := fun _ h => Option.some.inj h ▸ len_encVcvt _
theorem vcmp (x) : Statement (.vcmp x) := fun _ h => Option.some.inj h ▸ len_encVec _ _
theorem vmov (x) : Statement (.vmov x) := fun _ h => Option.some.inj h ▸ len_encVec _ _
theorem vst (x) : Statement (.vst x) := fun _ h => Option.some.inj h ▸ len_encVst _
theorem ldlStart (x) : Statement (.ldlStart x) := fun _ h => Option.some.inj h ▸ len_encLdlStart _
theorem ldlStartAt (x) : Statement (.ldlStartAt x) := fun _ h => Option.some.inj h ▸ len_encLdlStartAt _
theorem ldlStop (x) : Statement (.ldlStop x) := fun _ h => Option.some.inj h ▸ len_encA _ _
theorem ldlStat (x) : Statement (.ldlStat x) := fun _ h => Option.some.inj h ▸ len_encDA _ _ _
theorem ldlStatFree (x) : Statement (.ldlStatFree x) := fun _ h => Option.some.inj h ▸ len_encDA _ _ _
theorem ldlBaseBind (x) : Statement (.ldlBaseBind x) := fun _ h => Option.some.inj h ▸ len_encLdlBase _
theorem ldlBaseFree (x) : Statement (.ldlBaseFree x) := fun _ h => Option.some.inj h ▸ len_encLdlFree _
theorem await (x) : Statement (.await x) := fun _ h => Option.some.inj h ▸ len_encAwait _
theorem arels (x) : Statement (.arels x) := fun _ h => Option.some.inj h ▸ len_encArels _
theorem rld (x) : Statement (.rld x) := fun _ h => Option.some.inj h ▸ len_encRld _
theorem rst (x) : Statement (.rst x) := fun _ h => Option.some.inj h ▸ len_encRst _
theorem ratom (x) : Statement (.ratom x) := fun _ h => Option.some.inj h ▸ len_encRatom _
theorem ratomCas (x) : Statement (.ratomCas x) := fun _ h => Option.some.inj h ▸ len_encRatomCas _
theorem rred (x) : Statement (.rred x) := fun _ h => Option.some.inj h ▸ len_encRred _
theorem flowselOrd (x) : Statement (.flowselOrd x) := fun _ h => Option.some.inj h ▸ len_encFlow _ _
theorem flowselUnord (x) : Statement (.flowselUnord x) := fun _ h => Option.some.inj h ▸ len_encFlow _ _
theorem coll (x) : Statement (.coll x) := fun _ h => Option.some.inj h ▸ len_encColl _
theorem token (x) : Statement (.token x) := fun _ h => Option.some.inj h ▸ len_encTok _ _
theorem twait (x) : Statement (.twait x) := fun _ h => Option.some.inj h ▸ len_encTok _ _
theorem mfence (x) : Statement (.mfence x) := fun _ h => Option.some.inj h ▸ len_encMfence _
theorem trap (x) : Statement (.trap x) := fun _ h => Option.some.inj h ▸ len_encTrap _ _
theorem bkpt (x) : Statement (.bkpt x) := fun _ h => Option.some.inj h ▸ len_encTrap _ _
theorem hret (x) : Statement (.hret x) := fun _ h => Option.some.inj h ▸ len_encSub _ _ _
theorem hretSkip (x) : Statement (.hretSkip x) := fun _ h => Option.some.inj h ▸ len_encSub _ _ _
theorem preck (x) : Statement (.preck x) := fun _ h => Option.some.inj h ▸ len_encBare _ _
theorem srd (x) : Statement (.srd x) := fun _ h => Option.some.inj h ▸ len_encSrd _
theorem swr (x) : Statement (.swr x) := fun _ h => Option.some.inj h ▸ len_encSwr _
theorem fltr (x) : Statement (.fltr x) := fun _ h => Option.some.inj h ▸ len_encSub _ _ _
theorem fltrPg (x) : Statement (.fltrPg x) := fun _ h => Option.some.inj h ▸ len_encFltrPg _
theorem escl (x) : Statement (.escl x) := fun _ h => Option.some.inj h ▸ len_encBare _ _
theorem cycr (x) : Statement (.cycr x) := fun _ h => Option.some.inj h ▸ len_encD _ _
theorem perfr (x) : Statement (.perfr x) := fun _ h => Option.some.inj h ▸ len_encPerfr _
theorem gangPick (x0) : Statement (.gangPick x0) := fun _ h => nomatch h
theorem classLCompletion (x0 x1 x2) : Statement (.classLCompletion x0 x1 x2) := fun _ h => nomatch h
theorem deferredFaultDelivery (x0 x1) : Statement (.deferredFaultDelivery x0 x1) := fun _ h => nomatch h
theorem pauseExpiry (x0 x1) : Statement (.pauseExpiry x0 x1) := fun _ h => nomatch h
theorem yieldPauseExpiry (x0 x1) : Statement (.yieldPauseExpiry x0 x1) := fun _ h => nomatch h
theorem boundCopyCompletion (x0 x1 x2) : Statement (.boundCopyCompletion x0 x1 x2) := fun _ h => nomatch h
theorem wldExecute (x0) : Statement (.wldExecute x0) := fun _ h => nomatch h
theorem mloopExecute (x0 x1) : Statement (.mloopExecute x0 x1) := fun _ h => nomatch h
theorem mzeroExecute (x0) : Statement (.mzeroExecute x0) := fun _ h => nomatch h
theorem dcfgApply (x0) : Statement (.dcfgApply x0) := fun _ h => nomatch h
theorem vectorOpExecute (x0 x1) : Statement (.vectorOpExecute x0 x1) := fun _ h => nomatch h
theorem ladleSrc (x0) : Statement (.ladleSrc x0) := fun _ h => nomatch h
theorem ladleDst (x0) : Statement (.ladleDst x0) := fun _ h => nomatch h
theorem ladleWalk (x0) : Statement (.ladleWalk x0) := fun _ h => nomatch h
theorem ladleGather (x0) : Statement (.ladleGather x0) := fun _ h => nomatch h
theorem ladleQuant (x0) : Statement (.ladleQuant x0) := fun _ h => nomatch h
theorem ladleLoop (x0) : Statement (.ladleLoop x0) := fun _ h => nomatch h
theorem ladleBr (x0) : Statement (.ladleBr x0) := fun _ h => nomatch h
theorem waitm (x0) : Statement (.waitm x0) := fun _ h => nomatch h
theorem waitmTimeout (x0 x1) : Statement (.waitmTimeout x0 x1) := fun _ h => nomatch h
theorem ladleSignalStore32 (x0) : Statement (.ladleSignalStore32 x0) := fun _ h => nomatch h
theorem ladleSignalAdd32 (x0) : Statement (.ladleSignalAdd32 x0) := fun _ h => nomatch h
theorem ladleSignalToken (x0) : Statement (.ladleSignalToken x0) := fun _ h => nomatch h
theorem ladleCall (x0) : Statement (.ladleCall x0) := fun _ h => nomatch h
theorem tileDelivery (x0 x1) : Statement (.tileDelivery x0 x1) := fun _ h => nomatch h
theorem runAheadRead (x0 x1 x2) : Statement (.runAheadRead x0 x1 x2) := fun _ h => nomatch h
theorem replayWalk (x0) : Statement (.replayWalk x0) := fun _ h => nomatch h
theorem pageDiversion (x0 x1) : Statement (.pageDiversion x0 x1) := fun _ h => nomatch h
theorem redtApply (x0 x1 x2) : Statement (.redtApply x0 x1 x2) := fun _ h => nomatch h
theorem sequencerApply (x0) : Statement (.sequencerApply x0) := fun _ h => nomatch h
theorem blockRetirement (x0 x1) : Statement (.blockRetirement x0 x1) := fun _ h => nomatch h
theorem launchCompletion (x0) : Statement (.launchCompletion x0) := fun _ h => nomatch h
theorem wptrWrite (x0 x1) : Statement (.wptrWrite x0 x1) := fun _ h => nomatch h
theorem cfgWrite (x0 x1) : Statement (.cfgWrite x0 x1) := fun _ h => nomatch h
theorem statClear (x0) : Statement (.statClear x0) := fun _ h => nomatch h
theorem launch (x0) : Statement (.launch x0) := fun _ h => nomatch h
theorem launchi (x0) : Statement (.launchi x0) := fun _ h => nomatch h
theorem lanternLoop (x0) : Statement (.lanternLoop x0) := fun _ h => nomatch h
theorem ifmem (x0) : Statement (.ifmem x0) := fun _ h => nomatch h
theorem calll (x0) : Statement (.calll x0) := fun _ h => nomatch h
theorem waitmem (x0) : Statement (.waitmem x0) := fun _ h => nomatch h
theorem waitmemTimeout (x0) : Statement (.waitmemTimeout x0) := fun _ h => nomatch h
theorem waitlch (x0) : Statement (.waitlch x0) := fun _ h => nomatch h
theorem signalStore64 (x0) : Statement (.signalStore64 x0) := fun _ h => nomatch h
theorem signalAdd64 (x0) : Statement (.signalAdd64 x0) := fun _ h => nomatch h
theorem signalStore32 (x0) : Statement (.signalStore32 x0) := fun _ h => nomatch h
theorem signalAdd32 (x0) : Statement (.signalAdd32 x0) := fun _ h => nomatch h
theorem gswap (x0) : Statement (.gswap x0) := fun _ h => nomatch h
theorem snapCreate (x0) : Statement (.snapCreate x0) := fun _ h => nomatch h
theorem snapRelease (x0) : Statement (.snapRelease x0) := fun _ h => nomatch h
theorem preempt (x0) : Statement (.preempt x0) := fun _ h => nomatch h
theorem contextSave (x0) : Statement (.contextSave x0) := fun _ h => nomatch h
theorem recomputeDiscard (x0) : Statement (.recomputeDiscard x0) := fun _ h => nomatch h
theorem resume (x0) : Statement (.resume x0) := fun _ h => nomatch h
theorem stageLinks (x0) : Statement (.stageLinks x0) := fun _ h => nomatch h
theorem kill (x0) : Statement (.kill x0) := fun _ h => nomatch h
theorem killCompletion (x0) : Statement (.killCompletion x0) := fun _ h => nomatch h
theorem registerWrite (x0 x1) : Statement (.registerWrite x0 x1) := fun _ h => nomatch h
theorem linkTrain (x0) : Statement (.linkTrain x0) := fun _ h => nomatch h
theorem linkLoss (x0) : Statement (.linkLoss x0) := fun _ h => nomatch h
theorem belfryLinkDetect (x0) : Statement (.belfryLinkDetect x0) := fun _ h => nomatch h
theorem linkAck (x0 x1) : Statement (.linkAck x0 x1) := fun _ h => nomatch h
theorem linkReplay (x0 x1 x2) : Statement (.linkReplay x0 x1 x2) := fun _ h => nomatch h
theorem lendInterval (x0 x1 x2 x3) : Statement (.lendInterval x0 x1 x2 x3) := fun _ h => nomatch h
theorem lendAnnouncement (x0 x1 x2 x3 x4) : Statement (.lendAnnouncement x0 x1 x2 x3 x4) := fun _ h => nomatch h
theorem remoteRequest (x0) : Statement (.remoteRequest x0) := fun _ h => nomatch h
theorem remoteResponse (x0) : Statement (.remoteResponse x0) := fun _ h => nomatch h
theorem requestResend (x0) : Statement (.requestResend x0) := fun _ h => nomatch h
theorem requestTimeout (x0) : Statement (.requestTimeout x0) := fun _ h => nomatch h
theorem collFire (x0) : Statement (.collFire x0) := fun _ h => nomatch h
theorem chunkReceive (x0) : Statement (.chunkReceive x0) := fun _ h => nomatch h
theorem chunkAck (x0) : Statement (.chunkAck x0) := fun _ h => nomatch h
theorem chunkResend (x0 x1) : Statement (.chunkResend x0 x1) := fun _ h => nomatch h
theorem collCompletion (x0) : Statement (.collCompletion x0) := fun _ h => nomatch h
theorem belfryInterval (x0) : Statement (.belfryInterval x0) := fun _ h => nomatch h
theorem heartbeatReceive (x0) : Statement (.heartbeatReceive x0) := fun _ h => nomatch h
theorem noticeReceive (x0) : Statement (.noticeReceive x0) := fun _ h => nomatch h
theorem stripeRequest (x0) : Statement (.stripeRequest x0) := fun _ h => nomatch h
theorem stripeAttempt (x0) : Statement (.stripeAttempt x0) := fun _ h => nomatch h
theorem stripeReceive (x0) : Statement (.stripeReceive x0) := fun _ h => nomatch h
theorem hostAccess (x0) : Statement (.hostAccess x0) := fun _ h => nomatch h
theorem egressRateRelease (x0) : Statement (.egressRateRelease x0) := fun _ h => nomatch h
theorem packetForward (x0) : Statement (.packetForward x0) := fun _ h => nomatch h
theorem bootAddrWrite (x0) : Statement (.bootAddrWrite x0) := fun _ h => nomatch h
theorem stageImage (x0) : Statement (.stageImage x0) := fun _ h => nomatch h
theorem stageMemory (x0) : Statement (.stageMemory x0) := fun _ h => nomatch h
theorem featAcceptWrite (x0 x1) : Statement (.featAcceptWrite x0 x1) := fun _ h => nomatch h
theorem clkCtlWrite (x0) : Statement (.clkCtlWrite x0) := fun _ h => nomatch h
theorem pwrLimitWrite (x0) : Statement (.pwrLimitWrite x0) := fun _ h => nomatch h
theorem ctxCfgWrite (x0 x1) : Statement (.ctxCfgWrite x0 x1) := fun _ h => nomatch h
theorem ctxFaultClear (x0 x1) : Statement (.ctxFaultClear x0 x1) := fun _ h => nomatch h
theorem coreCtlWrite (x0 x1) : Statement (.coreCtlWrite x0 x1) := fun _ h => nomatch h
theorem errStatClear (x0) : Statement (.errStatClear x0) := fun _ h => nomatch h
theorem errCeWrite (x0) : Statement (.errCeWrite x0) := fun _ h => nomatch h
theorem powerEvaluation (x0) : Statement (.powerEvaluation x0) := fun _ h => nomatch h
theorem uncorrectableError (x0) : Statement (.uncorrectableError x0) := fun _ h => nomatch h
theorem correctedError (x0) : Statement (.correctedError x0) := fun _ h => nomatch h
theorem coreDomainPowerDown (x0) : Statement (.coreDomainPowerDown x0) := fun _ h => nomatch h
theorem attestationReport (x0) : Statement (.attestationReport x0) := fun _ h => nomatch h
theorem measurementExtend (x0 x1) : Statement (.measurementExtend x0 x1) := fun _ h => nomatch h
theorem gateSetKey (x0 x1) : Statement (.gateSetKey x0 x1) := fun _ h => nomatch h
theorem gateRankBank (x0 x1 x2) : Statement (.gateRankBank x0 x1 x2) := fun _ h => nomatch h
theorem gateGeneration (x0 x1) : Statement (.gateGeneration x0 x1) := fun _ h => nomatch h
theorem gateRouteBank (x0 x1 x2) : Statement (.gateRouteBank x0 x1 x2) := fun _ h => nomatch h
theorem gateRouteSwap (x0) : Statement (.gateRouteSwap x0) := fun _ h => nomatch h
theorem gateClearPortDown (x0 x1) : Statement (.gateClearPortDown x0 x1) := fun _ h => nomatch h
theorem gatePkeyEntry (x0 x1) : Statement (.gatePkeyEntry x0 x1) := fun _ h => nomatch h
theorem gateBelfryConfig (x0 x1) : Statement (.gateBelfryConfig x0 x1) := fun _ h => nomatch h
theorem gateRecastPlan (x0 x1) : Statement (.gateRecastPlan x0 x1) := fun _ h => nomatch h
theorem gateFabid (x0 x1) : Statement (.gateFabid x0 x1) := fun _ h => nomatch h
theorem coreDomainPowerUp (x0) : Statement (.coreDomainPowerUp x0) := fun _ h => nomatch h
theorem endl : Statement (.endl) := fun _ h => nomatch h
theorem ladleRet : Statement (.ladleRet) := fun _ h => nomatch h
theorem ladleFence : Statement (.ladleFence) := fun _ h => nomatch h
theorem halt : Statement (.halt) := fun _ h => nomatch h
theorem dispatch : Statement (.dispatch) := fun _ h => nomatch h
theorem endloop : Statement (.endloop) := fun _ h => nomatch h
theorem retl : Statement (.retl) := fun _ h => nomatch h
theorem coldReset : Statement (.coldReset) := fun _ h => nomatch h
theorem warmReset : Statement (.warmReset) := fun _ h => nomatch h
theorem powerLoss : Statement (.powerLoss) := fun _ h => nomatch h
theorem stageOffer : Statement (.stageOffer) := fun _ h => nomatch h
theorem featLock : Statement (.featLock) := fun _ h => nomatch h
theorem thermTrip : Statement (.thermTrip) := fun _ h => nomatch h
theorem thermWarn : Statement (.thermWarn) := fun _ h => nomatch h
theorem lanternWd : Statement (.lanternWd) := fun _ h => nomatch h
theorem fenceAbortDeadline : Statement (.fenceAbortDeadline) := fun _ h => nomatch h
theorem bankSwap : Statement (.bankSwap) := fun _ h => nomatch h

end Encodes

end Sys2Proof.Laws
end

