-- ==== Sys2Proof/Tests/Slice0.lean ====
section
/-! SUPPORT. Tests: words written out from the manual's encodings, ill-formed terms, results that the manual works out, and for
every statement a state and operands that meet its hypotheses. -/

namespace Sys2Proof.Tests

open Sys2Proof Sys2Proof.Machine Sys2Proof.Safety

set_option Elab.async false

/-! ## A small device: one thread in slot 0 of core 0, with the pages 0 and 1 of its context mapped to frames 0x200 and 0x300 -/

/-- Page tables at 0x100000: virtual page 0 is frame 0x200 and page 1 frame 0x300, both with RD, W and X, page 1 with EXP. -/
def pages : Store :=
  [(0x100000, 1 + 0x11 * 65536), (0x110000, 1 + 0x12 * 65536), (0x120000, 0x1F + 0x200 * 65536),
    (0x120008, 0x21F + 0x300 * 65536)].foldl (fun m e => m.write e.1 (leBytes 8 e.2)) Store.empty

/-- The thread: role `r`, 256 registers, those of `g` with values, and a private window of 64 KiB. -/
def thread (r : Role) (g : FMap Word) : Thread :=
  { startThread (probeLaunch r) 0 0 with status := .running 0, crun := some 0, g := g, prvBase := 0, prvSize := 65536 }

def base (r : Role) (g : FMap Word) : State :=
  let s := { State.reset.withFetchWord 64 0 with mem := pages, schedule := [], cur := .thread 0 0 }
  (s.setCtx 0 { s.ctx 0 with ptb := 0x100001, valid := true }).setThread 0 0 (thread r g)

/-- The state after one instruction. -/
def after (i : Instr) (s : State) : Option State :=
  match exec i s with
  | .next s' => some s'
  | _ => none

def thAfter (i : Instr) (s : State) : Option Thread := (after i s).bind fun s' => s'.thread? 0 0

/-- A register after one instruction of the thread with role `r` and registers `g`. -/
def regAfter (i : Instr) (r : Role) (g : FMap Word) (q : Nat) : Option Word := (thAfter i (base r g)).map fun t => t.reg q

def pairAfter (i : Instr) (r : Role) (g : FMap Word) (q : Nat) : Option Dword := (thAfter i (base r g)).map fun t => t.pair q

def predAfter (i : Instr) (r : Role) (g : FMap Word) (q : Nat) : Option Bool := (thAfter i (base r g)).map fun t => t.pred q

/-- The fault code that an instruction leaves in its context's record. -/
def codeAfter (i : Instr) (s : State) : Option Nat := (after i s).map fun s' => (s'.ctx 0).fault.code
/-! ## Words written out from the encodings of R74, R80, R265, R329, R312 and R280 -/

theorem test_decode_control : decode [0x00000006, 0x00001000, 0xFFFFFFE0] = .ok (.bra ⟨1, 0xFFFFFFE0⟩) := rfl
theorem test_decode_integer : decode [0x20103041, 0x00800000] = .ok (.iadd ⟨0, .i32, false, 3, 1, .reg 2⟩) := rfl
theorem test_decode_fma : decode [0x504070CD, 0x00000060] = .ok (.fma ⟨0, .f32, .rn, false, 7, 4, 5, .reg 6⟩) := rfl
theorem test_decode_cvt_bf16_rs : decode [0x50403141, 0x20200000] = .ok (.cvt ⟨0, .flt .bf16, .flt .f32, .rs, false, 3, 4, 5⟩) := rfl
theorem test_decode_packed : decode [0x5040710D, 0x00800060] = .ok (.hfma2 ⟨0, .bf16, .rn, false, 7, 4, 5, .reg 6⟩) := rfl
theorem test_decode_memory : decode [0x00805982, 0x01A00000, 0x40] = .ok (.ld ⟨⟨0, some false⟩, false, .dev, .glb, .n32, 5, 8, .o32 0x40⟩) := rfl
theorem test_decode_atomic : decode [0x708061C1, 0x70A00100] =
    .ok (.atom ⟨⟨0, none⟩, .flt .add .bf16, .plain, .dev, .glb, 6, 8, .o8 0x10, 7⟩) := rfl
theorem test_decode_rendezvous : decode [0x00500209, 0] = .ok (.tbara ⟨0, 5⟩) := rfl
theorem test_decode_crew : decode [0x30500249, 0x04000020] = .ok (.waitPut ⟨0, 3, 5, ⟨2, false⟩⟩) := rfl
theorem test_decode_matrix : decode [0x01E00285, 0x06000000] = .ok (.wlds ⟨⟨0, none⟩, .lns6, true, 30, none⟩) := rfl
theorem test_decode_vector : decode [0x302012C2, 0x000E0000, 0] =
    .ok (.vadd ⟨⟨0, none⟩, 0, .f32, .rn, false, true, true, true, false, 1, 2, 3, 0, 0⟩) := rfl
theorem test_decode_ladle_thread : decode [0x00403303, 0, 0x85, 0] = .ok (.ldlStartAt ⟨⟨0, none⟩, 3, 4, 5⟩) := rfl
theorem test_decode_fabric : decode [0x00806341, 0x05A80100] = .ok (.rld ⟨0, true, .n32, 6, 8, .o8 0x10⟩) := rfl
theorem test_decode_token : decode [0x0000035A, 0, 9] = .ok (.token ⟨0, .imm 9⟩) := rfl
theorem test_decode_twait : decode [0x5000035D, 0] = .ok (.twait ⟨0, .reg 5⟩) := rfl
theorem test_decode_cycr : decode [0x0000439D, 0] = .ok (.cycr ⟨0, 4⟩) := rfl
theorem test_decode_perfr : decode [0x00304399, 0] = .ok (.perfr ⟨0, 4, 3⟩) := rfl
theorem test_decode_ladle_loop : decodeLadle [(0x0000000500000006, 0)] = .ok (.ladleLoop 5) := rfl
theorem test_decode_ladle_signal : decodeLadle [(0x000000070000000A, 0x1000)] = .ok (.ladleSignalStore32 ⟨7, 0x1000⟩) := rfl
theorem test_decode_ladle_bad_op : decodeLadle [(0x0F, 0)] = .error .badOp := rfl
theorem test_decode_launch : decodeLantern ⟨0x01, 0x1000, 0x0004000300000002, 0x801⟩ = .ok (.launch ⟨0x1000, 2, 3, 4, 1, 1⟩) := rfl
theorem test_decode_signal_after : decodeLantern ⟨0x040A, 0x2000, 7, 0⟩ = .ok (.signalStore64 ⟨true, 0x2000, 7⟩) := rfl

/-! ## Ill-formed terms, one for each check, and well-formed neighbours -/

theorem test_illformed_integer : [Instr.iadd ⟨8, .i32, false, 3, 1, .reg 2⟩, .iadd ⟨0, .i64, false, 3, 2, .reg 4⟩, .iadd ⟨0, .n8, false, 3, 1, .imm32 256⟩,
    .imulh ⟨0, .i8, false, 3, 1, .reg 2⟩, .imulh ⟨0, .i32, true, 3, 1, .reg 2⟩, .idiv ⟨0, .i32, false, 3, 1, .imm32 2⟩,
    .imad ⟨0, .i32, false, 3, 1, 2, .imm32 2⟩, .iabs ⟨0, .n32, false, 3, 1⟩, .lea ⟨0, 0, .n64, 2, 4, .reg 6⟩, .lea ⟨0, 0, .i32, 3, 4, .reg 6⟩,
    .isel ⟨0, .i32, 3, 1, 2, ⟨0, false⟩⟩, .movi ⟨0, 3, .n64 1⟩, .and ⟨0, .i32, false, 3, 1, .reg 2⟩, .shl ⟨0, .n32, false, 3, 1, .imm32 2⟩,
    .lut3 ⟨0, 0, true, 3, 2, 4, 6⟩, .bfe ⟨0, .n32, 3, 1, 1, 31⟩, .bfi ⟨0, .n64, 2, 4, 6, 0x3F, 1⟩].all (fun i => !i.wf) = true := by
  decide +kernel

theorem test_wellformed_integer : [Instr.iadd ⟨0, .i64, false, 2, 4, .reg 6⟩, .iadd ⟨0, .n8, false, 3, 1, .imm32 255⟩, .imulh ⟨0, .i32, false, 3, 1, .reg 2⟩,
    .iabs ⟨0, .i32, true, 3, 1⟩, .movi ⟨0, 2, .n64 1⟩, .bfe ⟨0, .n32, 3, 1, 1, 30⟩].all Instr.wf = true := by decide +kernel

theorem test_illformed_float : [Instr.fadd ⟨0, .f16, .rn, false, 3, 1, .reg 2⟩, .fadd ⟨0, .f32, .rs, false, 3, 1, .reg 2⟩, .fadd ⟨0, .f64, .rn, false, 2, 4, .imm 0⟩,
    .fmin ⟨0, .f32, .rz, false, 3, 1, .reg 2⟩, .fdiv ⟨0, .f32, .rn, true, 3, 1, .reg 2⟩, .hadd2 ⟨0, .f32, .rn, false, 3, 1, .reg 2⟩,
    .hcmp2 ⟨0, .lt, .f16, 1, 1, .reg 2⟩, .cvt ⟨0, .flt .lns6, .flt .f32, .ru, false, 3, 1, 0⟩, .cvt ⟨0, .int .i32, .flt .f32, .rs, false, 3, 1, 0⟩,
    .cvt ⟨0, .flt .f16, .flt .f32, .rn, false, 3, 1, 5⟩, .unpk ⟨0, .f16, .rn, 3, 1⟩, .unpk ⟨0, .e4m3, .rn, 2, 1⟩, .rnd ⟨0, 2, 4, 8⟩,
    .fexp2 ⟨0, .f64, .rn, 2, 4⟩, .pack ⟨0, .f16, .rn, false, 3, 1, .imm 0⟩].all (fun i => !i.wf) = true := by decide +kernel

theorem test_illformed_memory : [Instr.ld ⟨⟨0, none⟩, false, .dev, .loc, .n32, 3, 1, .o8 0⟩, .ld ⟨⟨0, none⟩, false, .dev, .glb, .n32, 3, 1, .o8 0⟩,
    .ld ⟨⟨0, none⟩, false, .blk, .prv, .n32, 3, 2, .o8 0⟩, .st ⟨⟨8, none⟩, false, .dev, .glb, .n32, 2, .o8 0, 3⟩, .ldc ⟨⟨0, none⟩, .i32, 3, 1, 0⟩,
    .fence ⟨0, .plain, .dev⟩, .atom ⟨⟨0, none⟩, .int .add .i8, .plain, .dev, .glb, 3, 2, .o8 0, 4⟩, .atom ⟨⟨0, none⟩, .int .add .n32, .plain, .thr, .wbuf, 3, 2, .o8 0, 4⟩,
    .red ⟨⟨0, none⟩, .int .exch .n32, false, .dev, .glb, 2, .o8 0, 3⟩, .cas ⟨⟨0, none⟩, .plain, .dev, .glb, .n16, 3, 2, 4, 5⟩,
    .cpyIn ⟨⟨0, none⟩, .s4, .pod, .loc, 2, .o8 0, 3⟩, .cpyOut ⟨⟨0, none⟩, .s4, .dev, .prv, 2, .o8 0, 3⟩].all (fun i => !i.wf) = true := by decide +kernel

theorem test_illformed_engines : [Instr.join ⟨0, 12⟩, .xbal ⟨0, 2, 2, 0⟩, .xred ⟨0, .and, .f32, false, 3, 0⟩, .xred ⟨0, .max, .i32, true, 3, 0⟩,
    .wld ⟨⟨0, none⟩, .lns6, false, 3, none⟩, .wlds ⟨⟨0, none⟩, .f32, false, 3, none⟩, .mzero ⟨⟨0, none⟩, 3, 0⟩, .mzero ⟨⟨0, none⟩, 3, 65⟩,
    .dcfg ⟨0, .imm 2⟩, .dcfg ⟨0, .imm 0x10⟩, .vadd ⟨⟨0, none⟩, 1, .f32, .rn, false, true, true, true, false, 1, 2, 3, 0, 0⟩,
    .vadd ⟨⟨0, none⟩, 0, .f16, .rn, false, true, true, true, false, 1, 2, 3, 0, 0⟩, .vadd ⟨⟨0, none⟩, 0, .f32, .rn, false, true, true, true, false, 1, 2, 3, 4, 0⟩,
    .vcmp ⟨⟨0, none⟩, 0, .f32, .rz, false, true, true, true, false, 1, 2, 3, 0, 0⟩, .vcvt ⟨⟨0, none⟩, .lns6, false, .rn, false, true, 1, 2, 0⟩,
    .vst ⟨⟨0, none⟩, .dev, .f32, .rz, false, false, 2, 3, 4, 0⟩].all (fun i => !i.wf) = true := by decide +kernel

theorem test_illformed_system : [Instr.coll ⟨⟨0, none⟩, 3, 2, 4096, 0xFFFF, 0xFFFF, 0xFFFF⟩, .token ⟨0, .imm 4096⟩, .swr ⟨0, .csp, 2⟩, .srd ⟨0, .fpc, 3⟩,
    .perfr ⟨0, 4, 10⟩, .cycr ⟨0, 3⟩, .ldlStart ⟨⟨0, none⟩, 3, 5⟩, .rld ⟨0, false, .n32, 3, 5, .o8 0⟩].all (fun i => !i.wf) = true := by decide +kernel

theorem test_illformed_commands : [Instr.ladleSrc ⟨false, .f32, false, 0, [], 0⟩, .ladleSrc ⟨true, .f16, false, 0, [(1, 0)], 0⟩, .ladleSrc ⟨false, .e2m1, false, 0, [(1, 0)], 0⟩,
    .ladleSrc ⟨false, .f32, false, 2, [(1, 0)], 0⟩, .ladleSrc ⟨false, .f32, false, 0, [(0, 0)], 0⟩, .ladleSrc ⟨false, .e4m3, true, 0, [(16, 0)], 0⟩,
    .ladleDst ⟨0, false, false, 0, 0, 0, 1, 1⟩, .ladleDst ⟨0, false, false, 0x1FFF, 0, 0, 1, 1⟩, .ladleDst ⟨0, false, false, 1, 8, 0, 1, 1⟩, .ladleDst ⟨0, false, false, 1, 0, 9, 1, 1⟩,
    .ladleDst ⟨0, false, false, 1, 0, 0, 0, 1⟩, .ladleWalk ⟨0, 0, 5, 0, 0⟩, .ladleGather ⟨true, false, 0, 0, 0, 4⟩, .ladleQuant ⟨.f32, false, .rn, false, true, 1, 0⟩,
    .ladleLoop 0, .ladleBr ⟨.eq, 0, 0, 2⟩, .ladleSignalToken ⟨4096, 0⟩, .ladleCall 8, .launch ⟨0, 1, 1, 1, 2047, 1⟩, .launch ⟨32, 1, 1, 1, 0, 0⟩,
    .launch ⟨0, 0x10000, 0x100, 0x100, 0, 0⟩, .lanternLoop 0, .ifmem ⟨⟨.eq, false, 4, 0, 0⟩, 0⟩, .calll 16, .signalStore64 ⟨false, 4, 0⟩,
    .snapCreate ⟨0, 0, 0, 0⟩, .snapCreate ⟨0, 1, 65536, 0⟩, .snapRelease ⟨0, 65536, 0, 0⟩, .preempt ⟨0, 1⟩].all (fun i => !i.wf) = true := by decide +kernel

theorem test_wellformed_commands : [Instr.ladleSrc ⟨false, .f32, false, 4, [(1, 0)], 0⟩, .ladleDst ⟨0, false, false, 0xFFF, 16, 8, 1, 1⟩, .launch ⟨64, 1, 1, 1, 2047, 0⟩,
    .snapCreate ⟨0, 65536, 65536, 0⟩, .ladleSignalToken ⟨4095, 0⟩].all Instr.wf = true := by decide +kernel

/-! ## Results that the manual works out or that follow from its tables by hand -/

theorem test_iadd_sat : regAfter (.iadd ⟨0, .i8, true, 3, 1, .reg 2⟩) .general [(1, 0x70), (2, 0x20)] 3 = some 0x7F := by decide +kernel
theorem test_iadd_wrap : regAfter (.iadd ⟨0, .i8, false, 3, 1, .reg 2⟩) .general [(1, 0x70), (2, 0x20)] 3 = some 0xFFFFFF90 := by decide +kernel
theorem test_imulh_n32 : regAfter (.imulh ⟨0, .n32, false, 3, 1, .reg 2⟩) .general [(1, 0xFFFFFFFF), (2, 0xFFFFFFFF)] 3 = some 0xFFFFFFFE := by decide +kernel
theorem test_imulh_i32 : regAfter (.imulh ⟨0, .i32, false, 3, 1, .reg 2⟩) .general [(1, 0xFFFFFFFF), (2, 0xFFFFFFFF)] 3 = some 0 := by decide +kernel
theorem test_idiv : regAfter (.idiv ⟨0, .i32, false, 3, 1, .reg 2⟩) .general [(1, 0xFFFFFFF9), (2, 2)] 3 = some 0xFFFFFFFD := by decide +kernel
theorem test_irem : regAfter (.irem ⟨0, .i32, false, 3, 1, .reg 2⟩) .general [(1, 7), (2, 0xFFFFFFFE)] 3 = some 1 := by decide +kernel
theorem test_idiv_zero : regAfter (.idiv ⟨0, .n32, false, 3, 1, .reg 2⟩) .general [(1, 7)] 3 = some 0xFFFFFFFF := by decide +kernel
theorem test_idiv_edge : regAfter (.idiv ⟨0, .i32, false, 3, 1, .reg 2⟩) .general [(1, 0x80000000), (2, 0xFFFFFFFF)] 3 = some 0x80000000 := by decide +kernel
theorem test_isub_same_register : regAfter (.isub ⟨0, .i32, false, 1, 1, .reg 1⟩) .general [(1, 5)] 1 = some 0 := by decide +kernel
theorem test_imad : regAfter (.imad ⟨0, .i32, false, 3, 1, 2, .imm8 0xFF⟩) .general [(1, 3), (2, 4)] 3 = some 11 := by decide +kernel
theorem test_imin_signed : regAfter (.imin ⟨0, .i32, false, 3, 1, .reg 2⟩) .general [(1, 0xFFFFFFFF), (2, 1)] 3 = some 0xFFFFFFFF := by decide +kernel
theorem test_imax_unsigned : regAfter (.imax ⟨0, .n32, false, 3, 1, .reg 2⟩) .general [(1, 0xFFFFFFFF), (2, 1)] 3 = some 0xFFFFFFFF := by decide +kernel
theorem test_iabs_min : regAfter (.iabs ⟨0, .i32, false, 3, 1⟩) .general [(1, 0x80000000)] 3 = some 0x80000000 := by decide +kernel
theorem test_lea : pairAfter (.lea ⟨0, 2, .i32, 2, 4, .reg 6⟩) .general [(4, 0x10), (5, 1), (6, 0xFFFFFFFF)] 2 = some 0x10000000C := by decide +kernel
theorem test_icmp : predAfter (.icmp ⟨0, .lt, .i32, 1, 1, .reg 2⟩) .general [(1, 0xFFFFFFFF), (2, 0)] 1 = some true := by decide +kernel
theorem test_movi_i64 : pairAfter (.movi ⟨0, 2, .i64 0x80000000⟩) .general [] 2 = some 0xFFFFFFFF80000000 := by decide +kernel
theorem test_shl_past_width : regAfter (.shl ⟨0, .n32, false, 3, 1, .imm8 32⟩) .general [(1, 1)] 3 = some 0 := by decide +kernel
theorem test_shr_sign : regAfter (.shr ⟨0, .i32, false, 3, 1, .imm8 40⟩) .general [(1, 0x80000000)] 3 = some 0xFFFFFFFF := by decide +kernel
theorem test_rot_right : regAfter (.rot ⟨0, true, .n32, 3, 1, .imm8 4⟩) .general [(1, 0x12345678)] 3 = some 0x81234567 := by decide +kernel
theorem test_bfe_sign : regAfter (.bfe ⟨0, .i32, 3, 1, 4, 3⟩) .general [(1, 0xF0)] 3 = some 0xFFFFFFFF := by decide +kernel
theorem test_bfi : regAfter (.bfi ⟨0, .n32, 3, 1, 2, 8, 7⟩) .general [(1, 0xFFFFFFFF), (2, 0x12)] 3 = some 0xFFFF12FF := by decide +kernel
theorem test_clz_zero : regAfter (.clz ⟨0, .n32, false, 3, 1⟩) .general [] 3 = some 32 := by decide +kernel
theorem test_popc : regAfter (.popc ⟨0, .n64, false, 3, 4⟩) .general [(4, 0xF), (5, 0xF0000000)] 3 = some 8 := by decide +kernel
theorem test_lut3_majority : regAfter (.lut3 ⟨0, 0xE8, false, 3, 1, 2, 4⟩) .general [(1, 0xC), (2, 0xA), (4, 0x9)] 3 = some 0x8 := by decide +kernel
theorem test_fadd : regAfter (.fadd ⟨0, .f32, .rn, false, 3, 1, .reg 2⟩) .general [(1, 0x3F800000), (2, 0x40000000)] 3 = some 0x40400000 := by decide +kernel
theorem test_fadd_zero_rd : regAfter (.fadd ⟨0, .f32, .rd, false, 3, 1, .reg 2⟩) .general [(1, 0x3F800000), (2, 0xBF800000)] 3 = some 0x80000000 := by decide +kernel
theorem test_fdiv : regAfter (.fdiv ⟨0, .f32, .rn, false, 3, 1, .reg 2⟩) .general [(1, 0x3F800000), (2, 0x40400000)] 3 = some 0x3EAAAAAB := by decide +kernel
theorem test_fma_cancels : regAfter (.fma ⟨0, .f32, .rn, false, 3, 1, 1, .reg 2⟩) .general [(1, 0x3F800001), (2, 0xBF800002)] 3 = some 0x28800000 := by decide +kernel
theorem test_fmin_nan : regAfter (.fmin ⟨0, .f32, .rn, false, 3, 1, .reg 2⟩) .general [(1, 0x7FC00000), (2, 0x40000000)] 3 = some 0x40000000 := by decide +kernel
theorem test_fcmp_unordered : predAfter (.fcmp ⟨0, .ne, .f32, 1, 1, .reg 2⟩) .general [(1, 0x7FC00000)] 1 = some true := by decide +kernel
theorem test_fclass_subnormal : regAfter (.fclass ⟨0, .f32, .rn, 3, 1⟩) .general [(1, 1)] 3 = some 0x20 := by decide +kernel
theorem test_frint_sign : regAfter (.frint ⟨0, .f32, .rn, 3, 1⟩) .general [(1, 0xBE99999A)] 3 = some 0x80000000 := by decide +kernel
theorem test_cvt_to_int_nan : regAfter (.cvt ⟨0, .int .i32, .flt .f32, .rz, true, 3, 1, 0⟩) .general [(1, 0x7FC00000)] 3 = some 0 := by decide +kernel
theorem test_cvt_e4m3 : regAfter (.cvt ⟨0, .flt .e4m3, .flt .f32, .rn, false, 3, 1, 0⟩) .general [(1, 0x3F800000)] 3 = some 0x38 := by decide +kernel
theorem test_hadd2 : regAfter (.hadd2 ⟨0, .f16, .rn, false, 3, 1, .reg 2⟩) .general [(1, 0x3C004000), (2, 0x3C003C00)] 3 = some 0x40004200 := by decide +kernel
theorem test_fsqrt : regAfter (.fsqrt ⟨0, .f32, .rn, 3, 1⟩) .general [(1, 0x40800000)] 3 = some 0x40000000 := by decide +kernel
theorem test_fexp2_zero : regAfter (.fexp2 ⟨0, .f32, .rn, 3, 1⟩) .general [(1, 0x80000000)] 3 = some 0x3F800000 := by decide +kernel
theorem test_fexp2_least : regAfter (.fexp2 ⟨0, .f32, .rn, 3, 1⟩) .general [(1, 0xC3158000)] 3 = some 1 := by decide +kernel
theorem test_stack_offset : sliceOf 0x0012345600 = 0x76 ∧ stackOf 0x0012345600 = 1 ∧ stackOffset 0x0012345600 = 0x1845E00 := by decide +kernel
/-! ## Witnesses: for every statement, states and operands that meet the hypotheses of its clauses, at the ends of their ranges -/

/-- The thread of `base` is in turn under guard `gd`, and the registers named are its own. -/
def runsOk (r : Role) (g : FMap Word) (gd : BitVec 4) (spans : List (Nat × Nat)) : Prop :=
  Runs (base r g) 0 0 (thread r g) gd ∧ regsOk (thread r g) spans = true

/-- Whether a class L header finds the flag `fl` under the gang's clause header. -/
def flagIs (s : State) (th : Thread) (h : LHdr) (fl : Option Nat) : Bool :=
  match slotFlag (((s.gangOf 0 th).map Gang.header).getD 0) h.flag with
  | .ok f => f == fl
  | .error _ => false

theorem flagOf_of_flagIs {s : State} {th : Thread} {h : LHdr} {fl : Option Nat} (w : flagIs s th h fl = true) : FlagOf s 0 th h fl := by
  unfold flagIs at w
  unfold FlagOf
  split at w
  · rename_i f e; rw [e, eq_of_beq w]
  · exact nomatch w

/-- Whether the checks of an access pass, at the place `t`. -/
def passes (s : State) (th : Thread) (a : Acc) (ea : Int) (n : Nat) (perm : BitVec 10) (t : Tgt) : Bool :=
  match s.checkAccess th a ea n perm with
  | .ok (.ok u) => decide (u = t)
  | _ => false

theorem check_of_passes {s : State} {th : Thread} {a : Acc} {ea : Int} {n : Nat} {perm : BitVec 10} {t : Tgt} (w : passes s th a ea n perm t = true) :
    s.checkAccess th a ea n perm = .ok (.ok t) := by
  unfold passes at w
  split at w
  · rename_i u e; rw [e, of_decide_eq_true w]
  · exact nomatch w

/-- Registers in order, and the flag found, for a class L instruction. -/
def runsL (r : Role) (g : FMap Word) (h : LHdr) (fl : Option Nat) (spans : List (Nat × Nat)) : Prop :=
  runsOk r g h.g spans ∧ flagIs (base r g) (thread r g) h fl = true

/-- Registers 254 and 255 are the last pair of a thread with 256 registers. -/
theorem wit_IntegerArithmeticResults :
    (fun x : Alu3Args => runsOk .general [] x.g (spT x.t x.d :: spT x.t x.a :: spSrc x.t x.b) ∧ x.sat = false) ⟨0, .i64, false, 254, 254, .reg 254⟩ ∧
    (fun x : ImadArgs => runsOk .general [] x.g (spT x.t x.d :: spT x.t x.a :: spT x.t x.b :: spSrc x.t x.c)) ⟨0, .n32, true, 255, 255, 0, .imm8 0x80⟩ ∧
    (fun x : UnArgs => runsOk .general [] x.g [spT x.t x.d, spT x.t x.a]) ⟨0, .i8, true, 255, 0⟩ ∧
    (fun x : LeaArgs => runsOk .general [] x.g (sp2 x.d :: sp2 x.a :: spSrc x.t x.b)) ⟨0, 31, .i64, 254, 254, .reg 254⟩ := by
  unfold runsOk Runs; decide +kernel

theorem wit_IntegerOperandsAndResults : IType.i32.n ≤ 32 ∧ IType.n64.n = 64 ∧ 253 ∉ spanRegs (spT .n64 254) ∧ 254 ∉ spanRegs (spT .n32 255) := by
  decide +kernel

theorem wit_BitwiseResults :
    (fun x : Alu3Args => runsOk .general [] x.g (spT x.t x.d :: spT x.t x.a :: spSrc x.t x.b)) ⟨0, .n64, false, 254, 254, .reg 254⟩ ∧
    (fun x : Lut3Args => x.wide = true ∧ runsOk .general [] x.g [spT .n64 x.d, spT .n64 x.a, spT .n64 x.b, spT .n64 x.c]) ⟨0, 0x96, true, 254, 254, 0, 2⟩ ∧
    (fun x : Alu3Args => runsOk .general [(255, 64)] x.g (spT x.t x.d :: spT x.t x.a :: spAmount x.b)) ⟨0, .i64, false, 254, 0, .reg 255⟩ ∧
    (fun x : RotArgs => runsOk .general [] x.g (spT x.t x.d :: spT x.t x.a :: spAmount x.b)) ⟨0, true, .n32, 255, 255, .imm8 32⟩ ∧
    (fun x : BfeArgs => runsOk .general [] x.g [spT x.t x.d, spT x.t x.a] ∧ x.p.toNat + (x.len1.toNat + 1) = x.t.n) ⟨0, .i64, 254, 254, 63, 0⟩ ∧
    (fun x : BfiArgs => runsOk .general [] x.g [spT x.t x.d, spT x.t x.a, spT x.t x.b] ∧ x.p.toNat + (x.len1.toNat + 1) = x.t.n)
      ⟨0, .n32, 255, 255, 255, 0, 31⟩ ∧
    (fun x : UnArgs => runsOk .general [] x.g [spT x.t x.d, spT x.t x.a]) ⟨0, .n64, false, 254, 254⟩ := by
  unfold runsOk Runs; decide +kernel

theorem wit_CountAndMoveResults :
    (fun x : NopArgs => runsOk .general [] x.g []) ⟨0, true⟩ ∧
    (fun x : UnArgs => runsOk .general [] x.g [sp1 x.d, spT x.t x.a] ∧ runsOk .general [] x.g [spT x.t 254, spT x.t x.a]) ⟨0, .n64, false, 255, 254⟩ ∧
    (fun x : BselArgs => runsOk .general [] x.g [sp1 x.d, sp1 x.a, sp1 x.b, sp1 x.c]) ⟨0, 255, 255, 255, 255⟩ ∧
    (fun x : IcmpArgs => runsOk .general [] x.g (spT x.t x.a :: spSrc x.t x.b)) ⟨0, .le, .i64, 7, 254, .imm32 0x80000000⟩ ∧
    (fun x : IselArgs => runsOk .general [] x.g [spT x.t x.d, spT x.t x.a, spT x.t x.b]) ⟨0, .n64, 254, 252, 254, ⟨7, true⟩⟩ ∧
    (fun x : PlutArgs => runsOk .general [] x.g []) ⟨0, 0x80, 7, ⟨7, false⟩, ⟨0, true⟩, ⟨1, false⟩⟩ ∧
    runsOk .general [] 0 [sp1 (255 : GReg)] ∧ runsOk .general [] 0 [sp2 (254 : GReg)] := by
  unfold runsOk Runs; decide +kernel

theorem wit_FloatArithmeticResults :
    (fun x : Fp3Args => runsOk .general [] x.g (spF x.f x.d :: spF x.f x.a :: spRI x.f x.b)) ⟨0, .f64, .ru, false, 254, 254, .reg 254⟩ ∧
    (fun x : FmaArgs => runsOk .general [] x.g (spF x.f x.d :: spF x.f x.a :: spF x.f x.b :: spRI x.f x.c)) ⟨0, .f32, .rd, true, 255, 255, 0, .imm 0x3F800000⟩ ∧
    (fun x : F1Args => runsOk .general [] x.g [spF x.f x.d, spF x.f x.a]) ⟨0, .f64, .rz, 254, 254⟩ ∧
    value (.fin false 3 (-1)) = some (3 / 2) ∧ value (.fin true 3 (-1)) = some (-3 / 2) ∧ (3 / 2 + -3 / 2 : Rat) = 0 ∧ value (.fin true 0 5) = some 0 := by
  unfold runsOk Runs; decide +kernel

/-- 3/2 + 2⁻²⁴ lies half way between the FP32 values 3/2 and 3/2 + 2⁻²³. -/
theorem wit_RoundingModes :
    let v : XR := .fin false 25165825 (-24)
    Fmt.f32 ≠ .lns6 ∧ Fmt.hasInf .f32 = true ∧ (value v).isSome = true ∧ (value (toReal .f32 (round v .f32 .rn 0 true))).isSome = true ∧
    (value (toReal .f32 (round v .f32 .rz 0 true))).isSome = true ∧ (value (toReal .f32 (round v .f32 .rd 0 false))).isSome = true ∧
    (value (toReal .f32 (round v .f32 .ru 0 false))).isSome = true ∧ 0x7F7FFFFF < 2 ^ Fmt.f32.n ∧ (value (toReal .f32 0x7F7FFFFF)).isSome = true ∧
    (2 ^ 32 - 1 < 2 ^ 32 ∧ value v = some (25165825 / 16777216) ∧ 0x3FC00000 + 1 < 2 ^ (Fmt.f32.n - 1) ∧ value (toReal .f32 0x3FC00000) = some (3 / 2) ∧
      value (toReal .f32 0x3FC00001) = some (12582913 / 8388608) ∧ (3 / 2 : Rat) ≤ (25165825 / 16777216 : Rat).abs ∧
      (25165825 / 16777216 : Rat).abs < 12582913 / 8388608) := by
  decide +kernel

theorem wit_ConversionToOwnFormat : 2 ^ Fmt.e4m3.n - 1 < 2 ^ Fmt.e4m3.n ∧ 2 ^ 32 - 1 < 2 ^ 32 := by decide

theorem wit_MinMaxCompareAndClass :
    (Fmt.f32 ≠ .lns6 ∧ codeNan .f32 0x7FC00000 ∧ ¬ codeNan .f32 0 ∧ toReal .f32 0x80000000 = .fin true 0 (-149) ∧ toReal .f32 0 = .fin false 0 (-149)) ∧
    (fun x : FcmpArgs => x.f ≠ .lns6 ∧ runsOk .general [] x.g (spF x.f x.a :: spRI x.f x.b)) ⟨0, .num, .f64, 7, 254, .reg 254⟩ ∧
    (fun x : F1Args => (x.f = .f32 ∨ x.f = .f64) ∧ runsOk .general [] x.g [sp1 x.d, spF x.f x.a]) ⟨0, .f64, .rn, 255, 254⟩ := by
  unfold runsOk Runs codeNan; decide +kernel

/-- −∞ lies below every finite value, and −1 below 1. -/
theorem wit_MinMaxCompareAndClass_below : codeBelow .f32 0xFF800000 0x7F7FFFFF ∧ codeBelow .f32 0xBF800000 0x3F800000 :=
  ⟨rfl, ⟨-1, 1, by decide +kernel, by decide +kernel, by decide⟩⟩

theorem wit_PackedResults :
    (fun x : Fp3Args => runsOk .general [] x.g (sp1 x.d :: sp1 x.a :: spRI1 x.b)) ⟨0, .bf16, .ru, true, 255, 255, .imm 0x3F803F80⟩ ∧
    (fun x : FmaArgs => runsOk .general [] x.g (sp1 x.d :: sp1 x.a :: sp1 x.b :: spRI1 x.c)) ⟨0, .f16, .rn, false, 255, 255, 0, .reg 255⟩ ∧
    (fun x : FcmpArgs => runsOk .general [] x.g (sp1 x.a :: spRI1 x.b)) ⟨0, .nan, .f16, 6, 255, .reg 255⟩ ∧
    (fun x : F1Args => x.f ∈ [Fmt.f16, .bf16, .e4m3, .e5m2] ∧ runsOk .general [] x.g [(x.d.toNat, 32 / x.f.n), sp1 x.a]) ⟨0, .e5m2, .rn, 252, 255⟩ ∧
    (fun x : F1Args => x.f ∈ [Fmt.f16, .bf16, .e4m3, .e5m2] ∧ runsOk .general [] x.g [(x.d.toNat, 32 / x.f.n), sp1 x.a]) ⟨0, .bf16, .rn, 254, 255⟩ := by
  unfold runsOk Runs; decide +kernel

theorem wit_ConversionAndRandomResults :
    (fun x : CvtArgs => runsOk .general [] x.g (spC x.dt x.d :: spC x.st x.a :: (if x.rm = .rs then [sp1 x.w] else []))) ⟨0, .flt .bf16, .flt .f64, .rs, true, 255, 254, 255⟩ ∧
    (fun x : CvtArgs => runsOk .general [] x.g (spC x.dt x.d :: spC x.st x.a :: (if x.rm = .rs then [sp1 x.w] else []))) ⟨0, .int .i64, .flt .f32, .rd, false, 254, 255, 0⟩ ∧
    (fun x : CvtArgs => runsOk .general [] x.g (spC x.dt x.d :: spC x.st x.a :: (if x.rm = .rs then [sp1 x.w] else []))) ⟨0, .flt .f64, .int .n8, .ru, false, 254, 255, 0⟩ ∧
    (fun x : CvtArgs => runsOk .general [] x.g (spC x.dt x.d :: spC x.st x.a :: (if x.rm = .rs then [sp1 x.w] else []))) ⟨0, .int .i8, .int .i64, .rn, true, 255, 254, 0⟩ ∧
    (fun x : CvtsArgs => runsOk .general [] x.g (spF x.dt x.d :: spF x.st x.a :: sp1 x.s :: (if x.rm = .rs then [sp1 x.w] else []))) ⟨0, true, .e4m3, .f32, .rs, true, 255, 254, 255, 253⟩ ∧
    (∀ n ∈ [1, 2, 12], (base .general []).lacksFeature n = false) ∧
    (fun x : RndArgs => runsOk .general [] x.g [sp2 x.k, sp4 x.c] ∧ runsOk .general [] x.g [sp4 x.d] ∧ runsOk .general [] x.g [sp1 x.d]) ⟨0, 252, 254, 252⟩ := by
  unfold runsOk Runs; decide +kernel

theorem wit_SpecialFunctionResults :
    (fun x : F1Args => x.f = .f32 ∧ runsOk .general [] x.g [sp1 x.d, sp1 x.a]) ⟨0, .f32, .rn, 255, 255⟩ ∧ codeNan .f32 0xFFFFFFFF := by
  unfold runsOk Runs codeNan; decide +kernel

theorem wit_BranchExitAndPause :
    ((base .general []).gangOf 0 (thread .general [])).isSome = true ∧
    (fun x : BraArgs => runsOk .general [] x.g []) ⟨0, 0x80000000⟩ ∧
    (fun x : AArgs => runsOk .general [] x.g [sp2 x.a]) ⟨0, 254⟩ ∧
    (fun x : PauseArgs => runsOk .general [(255, 0xFFFFFFFF)] x.g (spAmount x.c)) ⟨0, .reg 255⟩ ∧
    (fun x : PauseArgs => runsOk .general [] x.g (spAmount x.c) ∧ (thread .general []).amount x.c = 0) ⟨0, .imm8 0⟩ := by
  unfold runsOk Runs; decide +kernel

/-- 1/3 lies between the magnitudes at places 0x3EAAAAAA and 0x3EAAAAAB of FP32, √2 above the one at 0x3FB504F3, and 3/2 between 1 and 2. -/
theorem wit_FloatArithmeticResults_rounded :
    let third : Rat → Ordering := fun z => orderRat z (((1 : Nat) : Rat) * 2 ^ (0 : Int) / ((3 : Nat) * 2 ^ (0 : Int)))
    let root : Rat → Ordering := fun z => orderRat (z * z) (((1 : Nat) : Rat) * 2 ^ (1 : Int))
    Fmt.f32 ∈ [Fmt.f32, .f64] ∧ Rm.ru ≠ .rs ∧ third (gridAt .f32 0x3EAAAAAA) ≠ .gt ∧ third (gridAt .f32 0x3EAAAAAB) = .gt ∧
    root (gridAt .f32 0x3FB504F3) ≠ .gt ∧ root (gridAt .f32 0x3FB504F4) = .gt ∧
    toReal .f32 0x3FC00000 = .fin false 0xC00000 (-23) ∧ toReal .f32 0x80000000 = .fin true 0 (-149) ∧
    (2 : Rat) ^ Fmt.frac .f32 ≤ ((0x800000 : Nat) : Rat) * 2 ^ (0 : Int) ∧ toReal .f32 0x4B000000 = .fin false 0x800000 0 ∧
    magOrder (.fin false 0xC00000 (-23)) 1 ≠ .gt ∧ magOrder (.fin false 0xC00000 (-23)) 2 = .gt ∧
    toReal .f32 0xFF800000 = .inf true ∧ toReal .f32 0x7FC00000 = .nan := by
  dsimp only
  and_intros <;> decide +kernel

/-- The half-way point past the largest FP32 value and a fourth root of 2; 3 into LNS6; 3/2 to an integer. -/
theorem wit_RoundingModes_past :
    let v : XR := .fin false 0x1FFFFFF 103
    let x : Rat := ((3 : Nat) : Rat) * 2 ^ (0 : Int)
    (Fmt.f32 ≠ .lns6 ∧ 2 ^ 32 - 1 < 2 ^ 32 ∧ Proper v ∧ Proper (.quart true 1)) ∧
    magOrder v (gridAt .f32 0x7F7FFFFF) ≠ .gt ∧ magOrder v (gridAt .f32 0x7F800000) = .gt ∧
    magOrder (.quart true 1) (gridAt .e4m3 0x39) ≠ .gt ∧ magOrder (.quart true 1) (gridAt .e4m3 0x3A) = .gt ∧
    (2 ^ (2 * 22 - 33 : Int) < x ^ 8 ∧ x ^ 8 < 2 ^ (2 * 22 - 31 : Int)) ∧ 2 ^ (22 - 16 : Int) ≤ x ^ 4 ∧ x ^ 4 < 2 ^ (22 - 15 : Int) := by
  dsimp only [Proper]
  and_intros <;> decide +kernel

theorem wit_ConversionAndRandomResults_values :
    Rm.ru ≠ .rs ∧ Proper (.fin true 3 (-1)) ∧ Proper (.quart false (-15)) ∧ magOrder (.fin true 3 (-1)) 1 ≠ .gt ∧ magOrder (.fin true 3 (-1)) 2 = .gt ∧
    value (.fin true 3 (-1)) = some (-3 / 2) := by
  dsimp only [Proper]
  and_intros <;> decide +kernel
/-- `base` with another record of its thread. -/
def withThread (th : Thread) : State := (base .general []).setThread 0 0 th

/-- A state whose thread `th` of core 0, slot 0 is in turn under guard 0. -/
def inTurn (s : State) (th : Thread) : Prop := Runs s 0 0 th 0

/-- An access of the call stack at byte `ea` of the private window. -/
def stackAcc (ea : Int) (kind : Nat) : Acc := { space := .prv, scope := .thr, ea := BitVec.ofInt 64 ea, size := 3, kind := kind }

def opOf (uid : Nat) (k : OpKind) (a : Acc) : Op := { uid := uid, clause := 0, gang := 0, index := 0, sc := a.scope, flag := none, acc := a, kind := k }

/-- CSP stands at the top of the window for a push that fits, at CSLO for one that does not, and at CSHI − 8 for a pop that fits; an
earlier store to the slot holds the push back. -/
theorem wit_CallAndReturn :
    let th := thread .general []
    let tgt : Tgt := .dev (0x2000000 + 65528)
    let th1 : Thread := { th with ops := [opOf 0 (.store tgt 8 0 false) (stackAcc 65528 1)] }
    let th2 : Thread := { th with csp := th.cslo }
    let th3 : Thread := { th with csp := 65528 }
    (inTurn (withThread th) th ∧ ((withThread th).gangOf 0 th).isSome = true ∧ regsOk th [sp2 (254 : GReg)] = true ∧ (th.cslo.toNat : Int) ≤ 65528) ∧
    passes (withThread th) th (stackAcc 65528 1) 65528 8 0 tgt = true ∧
    (withThread th).eligible 0 0 th (opOf 0 (.store tgt 8 0 false) (stackAcc 65528 1)) = true ∧
    (inTurn (withThread th1) th1 ∧ (withThread th1).eligible 0 0 th1 (opOf 1 (.store tgt 8 0 false) (stackAcc 65528 1)) = false) ∧
    (inTurn (withThread th2) th2 ∧ (th2.csp.toNat : Int) - 8 < th2.cslo.toNat) ∧
    (inTurn (withThread th) th ∧ (th.cshi.toNat : Int) < th.csp.toNat + 8) ∧
    (inTurn (withThread th3) th3 ∧ (th3.csp.toNat : Int) + 8 ≤ th3.cshi.toNat) ∧
    passes (withThread th3) th3 (stackAcc 65528 0) 65528 8 0 tgt = true ∧
    (withThread th3).eligible 0 0 th3 (opOf 0 (.load tgt .n64 0 false) (stackAcc 65528 0)) = true ∧
    ((withThread th3).readTgt 0 th3.bid tgt 8 false).2.1 = [] := by
  unfold inTurn Runs; decide +kernel

/-- Addresses at the end of page 1, the last bytes of `loc` and of the constant window. -/
theorem wit_AccessesIssue :
    let g : FMap Word := [(8, 0x10000), (255, 0x3FFFC), (4, 0x10), (2, 0x7FFF0)]
    let s := base .general g
    let th := thread .general g
    let s2 : State := { s with blocks := s.blocks.map fun k => { k with desc := { k.desc with cbase := 0x10000, csize := 8 } } }
    let f := base .feed g
    let tf := thread .feed g
    (fun x : LdArgs => runsL .general g x.h none [spT x.t x.d, spBase x.space x.a]) ⟨⟨0, none⟩, true, .dev, .glb, .n64, 254, 8, .o32 0xFFF8⟩ ∧
    passes s th (accOf .glb .dev 0x1FFF8 8 0) 0x1FFF8 8 0x001 (.dev 0x300FFF8) = true ∧
    (fun x : StArgs => runsL .general g x.h none [spBase x.space x.a, spT x.t x.b]) ⟨⟨0, none⟩, true, .sys, .glb, .n8, 8, .o32 0xFFFF, 255⟩ ∧
    passes s th (accOf .glb .sys 0x1FFFF 1 1) 0x1FFFF 1 0x002 (.dev 0x300FFFF) = true ∧
    (fun x : AtomArgs => runsL .general g x.h none [spAtom x.op x.d, spBase x.space x.a, spAtom x.op x.b])
      ⟨⟨0, none⟩, .flt .add .f64, .ar, .blk, .loc, 254, 255, .o8 0xFC, 254⟩ ∧
    passes s th (accOf .loc .blk 0x3FFF8 8 2) 0x3FFF8 8 0x003 (.buf .loc 0x3FFF8) = true ∧
    s.detScope th .loc .blk 0x3FFF8 true = false ∧
    (fun x : CasArgs => runsL .general g x.h none [spT x.t x.d, spBase x.space x.a, spT x.t x.b, spT x.t x.c]) ⟨⟨0, none⟩, .acq, .dev, .glb, .n64, 254, 8, 252, 254⟩ ∧
    passes s th (accOf .glb .dev 0x10000 8 2) 0x10000 8 0x003 (.dev 0x3000000) = true ∧
    (fun x : RedArgs => runsL .general g x.h none [spBase x.space x.a, spAtom x.op x.b] ∧ (s.ctx th.ctx).det = false)
      ⟨⟨0, none⟩, .int .add .n32, true, .sys, .glb, 8, .o8 0, 255⟩ ∧
    passes s th (accOf .glb .sys 0x10000 4 2) 0x10000 4 0x003 (.dev 0x3000000) = true ∧
    (fun x : RedtArgs => runsL .general g x.h none [sp2 x.a, spAtom x.op x.b, sp1 x.tag] ∧ s.lacksFeature 10 = false) ⟨⟨0, none⟩, .flt .max .f32, false, 8, 0xFFFC, 255, 255⟩ ∧
    passes s th (accOf .glb .dev 0x1FFFC 4 2) 0x1FFFC 4 0x003 (.dev 0x300FFFC) = true ∧
    (fun x : LdcArgs => inTurn s2 th ∧ regsOk th [spT x.t x.d, sp1 x.a] = true ∧ (s2.block? th.bid).isSome = true ∧
      (0 : Int) ≤ (th.reg x.a.toNat).toNat + x.off.toInt ∧ ((th.reg x.a.toNat).toNat : Int) + x.off.toInt + 8 ≤ 8 ∧ canonical 0x10000 = true)
      ⟨⟨0, none⟩, .n64, 254, 4, 0xF0⟩ ∧
    passes s2 th (accOf .glb .thr 0x10000 8 0) 0x10000 8 0 (.dev 0x3000000) = true ∧
    (fun x : CpyArgs => runsL .feed g x.h none [sp2 x.a, sp1 x.b] ∧ (thread .feed g).role = .feed ∧ canonical 0x1FFF0 = true)
      ⟨⟨0, none⟩, .s16, .dev, .abuf, 8, .o32 0xFFF0, 2⟩ ∧
    passes f tf (accOf .abuf .dev 0x7FFF0 16 1) 0x7FFF0 16 0x004 (.buf .abuf 0x7FFF0) = true ∧
    passes f tf (accOf .abuf .dev 0x7FFF0 16 0) 0x7FFF0 16 0x008 (.buf .abuf 0x7FFF0) = true ∧
    passes f tf (accOf .glb .dev 0x1FFF0 16 0) 0x1FFF0 16 0 (.dev 0x300FFF0) = true ∧
    passes f tf (accOf .glb .dev 0x1FFF0 16 1) 0x1FFF0 16 0 (.dev 0x300FFF0) = true := by
  dsimp only [inTurn, runsL, runsOk, Runs]
  and_intros <;> decide +kernel
/-- A thread of `base` with one operation in flight. -/
def holding (o : Op) : Thread := { thread .general [] with ops := [o] }

def glbAcc (va : Dword) (size kind : Nat) : Acc := { space := .glb, scope := .dev, ea := va, size := size, kind := kind }

/-- A load, a store and a compare-and-swap of the last word of page 1; a poisoned word; a landing at register 255 of a thread that is
between clauses, inside the clause, or exited; an unbound copy that may be performed. -/
theorem wit_AccessesPerform :
    let p : Tgt := .dev 0x300FFF8
    let load := opOf 7 (.load p .n64 254 true) (glbAcc 0x1FFF8 3 0)
    let store := opOf 7 (.store p 8 1 true) (glbAcc 0x1FFF8 3 1)
    let cas := opOf 7 (.cas p .n64 0 1 254 .ar) (glbAcc 0x1FFF8 3 2)
    let ready (o : Op) : Prop := (withThread (holding o)).thread? 0 0 = some (holding o) ∧ (holding o).ops.find? (fun y => y.uid == 7) = some o ∧
      (withThread (holding o)).eligible 0 0 (holding o) o = true
    let s := withThread (holding load)
    let sp : State := { s with mem := s.mem.mark (0x300FFF8 / 8) }
    let land := opOf 7 (.load p .n32 255 false) (glbAcc 0x1FFF8 2 0)
    ready load ∧ ready store ∧ ready cas ∧
    ((s.l1Invalidate 0).readTgt 0 ⟨0, 0⟩ p 8 true).2.1 = [] ∧ ((sp.l1Invalidate 0).readTgt 0 ⟨0, 0⟩ p 8 true).2.1 = 0 :: [1, 2, 3, 4, 5, 6, 7] ∧
    (((withThread (holding cas)).l1Invalidate 0).recall p cas.acc |>.readTgt 0 ⟨0, 0⟩ p 8 true).2.1 = [] ∧
    (255 < 256 ∧ (holding land).status ≠ .exited ∧ ({ holding land with crun := none } : Thread).crun ≠ some land.clause ∧
      ({ holding land with status := .exited } : Thread).status = .exited ∧ (holding land).crun = some land.clause) ∧
    (let cp := opOf 7 (.copy (.dev 0x300FFF0) (.buf .abuf 0) 16 .dev [] false) (glbAcc 0x1FFF0 4 0)
     (withThread (holding cp)).thread? 0 0 = some (holding cp) ∧ (holding cp).preck = [] ∧ (withThread (holding cp)).bound (holding cp) 7 = false ∧
       (withThread (holding cp)).copyReady 0 0 (holding cp) cp = true) := by
  dsimp only
  and_intros <;> decide +kernel

theorem wit_ReadsAfterWrites :
    let s := base .general []
    (∀ n ∈ [1, 2, 4, 8], (List.replicate n (0xA5 : Byte)).length ∈ [1, 2, 4, 8] ∧ tgtAddr (.dev (824633720832 - n)) % n = 0 ∧
      ∀ i < n, isCfgByte (824633720832 - n + i) = false ∧ isPageZero (824633720832 - n + i) = false ∧
        isPoolZero (824633720832 - n + i) = false) ∧
    (tgtAddr (.buf .cbuf 2097144) % 8 = 0 ∧ (s.block? ⟨0, 0⟩).isSome = true ∧ Space.cbuf ∈ [Space.loc, .wbuf, .abuf, .cbuf]) := by
  decide +kernel

/-- An atomic that merges with no other may be performed, on a clean word and a poisoned one; a two-wide one with either half first, and
after either half. -/
theorem wit_AtomicValues_performed :
    let p : Tgt := .dev 0x300FFF8
    let at_ (op : AtomOp) (done : Option (Nat × Nat)) : Op := { opOf 7 (.atom p op 1 (some 254) .ar done) (glbAcc 0x1FFF8 3 2) with index := 1 }
    let sp (o : Op) : State := { withThread (holding o) with mem := (withThread (holding o)).mem.mark (0x300FFF8 / 8) }
    let old (s : State) (o : Op) (p : Tgt) (n : Nat) : List Nat := (((s.acquireL1 0 (holding o) o).recall p o.acc).readTgt 0 ⟨0, 0⟩ p n true).2.1
    (∀ o ∈ [at_ (.int .add .n64) none, at_ (.flt .add .bf16) none, at_ (.flt .add .bf16) (some (0, 3)), at_ (.flt .add .bf16) (some (1, 0xFFFF))],
      let s := withThread (holding o)
      s.thread? 0 0 = some (holding o) ∧ (holding o).ops.find? (fun y => y.uid == 7) = some o ∧ s.mergeGroup 0 0 (holding o) o = [(0, holding o, o)] ∧
        s.groupReady 0 0 (holding o) o = true ∧ old s o p 8 = [] ∧ old s o (p.add 0) 2 = [] ∧ old s o (p.add 2) 2 = [] ∧ old (sp o) o p 8 ≠ [] ∧ old (sp o) o (p.add 0) 2 ≠ [] ∧ old (sp o) o (p.add 2) 2 ≠ []) ∧
    twoWide (.int .add .n64) = false ∧ twoWide (.flt .add .bf16) = true ∧ Bool.toNat false = 0 ∧ Bool.toNat true = 1 := by
  decide +kernel

theorem wit_AtomicValues : 2 ^ 64 - 1 < 2 ^ IType.i64.n ∧ 2 ^ 32 - 1 < 2 ^ 32 ∧ (∀ v ∈ [2 ^ 32 - 1, 1], v < 2 ^ IType.n32.n) ∧ [2 ^ 32 - 1, 1] ≠ [] ∧
    2 ^ 64 - 1 < 2 ^ Fmt.f64.n ∧ 2 ^ 32 - 1 < 2 ^ Fmt.f32.n := by
  decide

/-- Page 1 is mapped, page 2 is not; the last line of page 1 may be poisoned. -/
theorem wit_FenceAndCacheControl :
    let g : FMap Word := [(8, 0x1FFC0), (10, 0x20000)]
    let s := base .general g
    let sp : State := { s with mem := s.mem.mark (0x300FFC0 / 8) }
    (fun x : FenceArgs => runsOk .general g x.g [] ∧ (thread .general g).fenceDone x.ord x.scope = true) ⟨0, .ar, .sys⟩ ∧
    ((thread .general g).halted = false ∧ (thread .general g).late = [] ∧ (thread .general g).preck = [] ∧ (thread .general g).ops = [] ∧
      (thread .general g).yieldTill ≤ (s.core 0).cycle ∧ s.lineHeld noSkip 0x300FFC0 1 = false ∧ s.walkHeld 0 0x1FFC0 = false) ∧
    (fun x : PrefArgs => runsOk .general g x.g [sp2 x.a]) ⟨0, true, 8, .o8 0⟩ ∧
    (s.translate 0 0x1FFC0 0 = .ok (.dev 0x300FFC0) ∧ s.mem.badOffsets (0x300FFC0 / 64 * 64) 64 = []) ∧
    s.translate 0 0x20000 0 = .absent ∧ sp.mem.badOffsets (0x300FFC0 / 64 * 64) 64 ≠ [] ∧
    (s.setCore 0 { s.core 0 with gangs := [] }).cur = .thread 0 0 ∧ ((s.setCore 0 { s.core 0 with gangs := [] }).core 0).gangs = [] ∧
    (fun x : IinvArgs => runsOk .general g x.g [sp2 x.a]) ⟨0, 254, 0x80⟩ ∧
    s.walk 0 0x1FFC0 = .leaf { entry := 0x21F + 0x300 * 65536, big := false, addr := 0x120008 } ∧ s.walk 0 0x20000 = .absent false 0x120010 ∧
    (fun x : RcloseArgs => runsOk .general g x.g [sp1 x.a, sp1 x.b] ∧ s.lacksFeature 10 = false ∧ (s.ctx 0).det = false) ⟨0, 255, 255⟩ := by
  dsimp only [runsOk, Runs]
  and_intros <;> decide +kernel

/-- A deterministic context, a private window of two pages, and room for the last record of the log. -/
theorem wit_StagedReductions :
    let th : Thread := { thread .general [(8, 0x10000)] with prvSize := 131072, cslo := 126976, logLen := 2047 }
    let s0 := withThread th
    let s := s0.setCtx 0 { s0.ctx 0 with det := true }
    let la : Acc := { space := .prv, scope := .thr, ea := BitVec.ofInt 64 th.logAddr, size := 5, kind := 1 }
    inTurn s th ∧ (s.ctx th.ctx).det = true ∧ 0 ≤ th.logAddr ∧ th.logLen < 2048 ∧
    passes s th la th.logAddr 32 0 (.dev (0x2000000 + if th.logAddr < 65536 then th.logAddr.toNat else th.logAddr.toNat + 0xFF0000)) = true ∧
    (fun x : RedArgs => flagIs s th x.h none = true ∧ regsOk th [spBase x.space x.a, spAtom x.op x.b] = true ∧ 4 ≤ x.scope.code ∧
      apertureEa x.space 0x1FFF8 = false) ⟨⟨0, none⟩, .flt .add .f64, true, .dev, .glb, 8, .o32 0xFFF8, 254⟩ ∧
    passes s th (accOf .glb .dev 0x1FFF8 8 2) 0x1FFF8 8 0x003 (.dev 0x300FFF8) = true ∧
    (fun x : RedtArgs => flagIs s th x.h none = true ∧ s.lacksFeature 10 = false ∧ regsOk th [sp2 x.a, spAtom x.op x.b, sp1 x.tag] = true)
      ⟨⟨0, none⟩, .int .max .i32, false, 8, 0xFFFC, 255, 255⟩ ∧
    passes s th (accOf .glb .dev 0x1FFFC 4 2) 0x1FFFC 4 0x003 (.dev 0x300FFFC) = true ∧
    (fun x : RcloseArgs => regsOk th [sp1 x.a, sp1 x.b] = true) ⟨0, 255, 255⟩ ∧
    (fun x : AtomArgs => flagIs s th x.h none = true ∧ regsOk th [spAtom x.op x.d, spBase x.space x.a, spAtom x.op x.b] = true ∧ 2 < x.scope.code)
      ⟨⟨0, none⟩, .int .exch .n64, .plain, .clu, .glb, 254, 8, .o8 0, 254⟩ ∧
    (fun x : CasArgs => flagIs s th x.h none = true ∧ regsOk th [spT x.t x.d, spBase x.space x.a, spT x.t x.b, spT x.t x.c] = true ∧ 2 < x.scope.code)
      ⟨⟨0, none⟩, .ar, .clu, .glb, .n64, 254, 8, 252, 254⟩ ∧
    (fun x : RedArgs => flagIs s th x.h none = true ∧ regsOk th [spBase x.space x.a, spAtom x.op x.b] = true ∧ x.scope.code = 3)
      ⟨⟨0, none⟩, .int .add .n64, true, .clu, .glb, 8, .o8 0, 254⟩ ∧
    s.tgtHeld noSkip (ownCk 0 0) true (.dev (0x2000000 + th.logAddr.toNat)) 32 = false := by
  dsimp only [inTurn, Runs]
  and_intros <;> decide +kernel

/-- The last record of `loc`; a thread with an access or a copy outstanding. -/
theorem wit_TransactionBarriers :
    let th := thread .general [(255, 0x3FFF0), (254, 0xFFFFF)]
    let s := withThread th
    let th1 : Thread := { th with ops := [opOf 7 (.store (.dev 0x3000000) 4 0 false) (glbAcc 0x10000 2 1)] }
    let th2 : Thread := { th with ops := [opOf 7 (.copy (.dev 0x3000000) (.buf .abuf 0) 16 .dev [] false) (glbAcc 0x10000 4 0)] }
    let blk := s.block? th.bid
    blk.isSome = true ∧ inTurn s th ∧ inTurn (withThread th1) th1 ∧ inTurn (withThread th2) th2 ∧
    ((th.reg 255).toNat % 16 = 0 ∧ blk.map (fun k => decide ((th.reg 255).toNat + 16 ≤ k.desc.loc)) = some true) ∧
    th.accessesDone = true ∧ th1.accessesDone = false ∧ th.copies = [] ∧ th2.copies ≠ [] ∧
    (fun x : TbarArgs => regsOk th (sp1 x.a :: spR8 x.b) = true) ⟨0, 255, .reg 254⟩ ∧ (fun x : AArgs => regsOk th [sp1 x.a] = true) ⟨0, 255⟩ ∧
    (fun x : TbarwArgs => regsOk th (sp1 x.a :: spR8 x.b) = true ∧ (s.tbar th.bid 0x3FFF0).phase ≠ (th.r8 x.b).toNat % 16) ⟨0, 7, 255, .imm 15⟩ ∧
    (fun x : TbarwArgs => (s.tbar th.bid 0x3FFF0).phase = (th.r8 x.b).toNat % 16) ⟨0, 7, 255, .imm 0x10⟩ ∧
    (fun r : TBar => r.expected < 2 ^ 20 ∧ r.sectors < 2 ^ 28 ∧ r.pending < 2 ^ 20 ∧ r.phase < 16 ∧ 2 ^ 20 - 1 ≤ r.pending ∧ 0 < r.sectors ∧ r.pending < 2 ^ 20)
      ⟨true, 2 ^ 20 - 1, 2 ^ 28 - 1, 2 ^ 20 - 1, 15⟩ ∧
    (fun r : TBar => r.expected < 2 ^ 20 ∧ r.pending < 2 ^ 20 ∧ r.phase < 16 ∧ r.sectors = 0 ∧ 1 ≤ r.pending) ⟨false, 1, 0, 1, 15⟩ := by
  dsimp only [inTurn, Runs]
  and_intros <;> decide +kernel

theorem wit_BarriersAndRings :
    let th := thread .general []
    let s := withThread th
    let d := ((s.block? th.bid).map Block.desc)
    (s.block? th.bid).isSome = true ∧ inTurn s th ∧
    (fun x : BarArgs => d.map (fun d => decide (x.k.toNat < d.barriers)) = some true ∧ (s.barrier th.bid x.k.toNat).arr.contains th.linear = false) ⟨0, 15⟩ ∧
    th.ops = [] ∧ ((s.block? th.bid).map Block.threads = some [(0, 0)] ∧ th.status ≠ .exited ∧
      (s.barrier th.bid 15).arr.length + 1 = s.liveCount th.bid) ∧
    (fun x : RingArgs => regsOk th (spR8 x.b) = true ∧ d.map (fun d => decide (0 < d.rings.getD x.q.toNat 0)) = some true) ⟨0, 0, .reg 255⟩ ∧
    th.accessesDone = true ∧ (s.block? th.bid).map (fun k => FMap.find? k.rings 0) = some none ∧
    (s.block? th.bid).map (fun k => decide ((List.replicate 16 false).length = k.desc.rings.getD 0 0)) = some true := by
  dsimp only [inTurn, Runs]
  and_intros <;> decide +kernel

/-- Token 4095 with a positive count, with a zero count, and with the abort bit; a token number one too large. -/
theorem wit_Tokens :
    let th := thread .general [(255, 4095), (254, 4096)]
    let s := withThread th
    let has (n : Nat) (a : Bool) : State := s.setCtx 0 { s.ctx 0 with toks := [(4095, { count := n, abort := a })] }
    inTurn s th ∧ inTurn (has 1 false) th ∧ inTurn (has 0 false) th ∧ inTurn (has 0 true) th ∧ s.lacksFeature 7 = false ∧ th.role = .general ∧
    (fun x : TokArgs => regsOk th (spRI1 x.t) = true ∧ 2 ^ 12 ≤ (th.ri x.t).toNat) ⟨0, .reg 254⟩ ∧
    (fun x : TokArgs => regsOk th (spRI1 x.t) = true ∧ (th.ri x.t).toNat < 2 ^ 12) ⟨0, .reg 255⟩ ∧
    th.accessesDone = true ∧ ((has 1 false).ctx 0).tokq = [] ∧ 0 < (((has 1 false).ctx 0).tok 4095).count ∧
    (((has 0 false).ctx 0).tok 4095).count = 0 ∧ (((has 0 false).ctx 0).tok 4095).abort = false ∧ (((has 0 true).ctx 0).tok 4095).abort = true := by
  dsimp only [inTurn, Runs]
  and_intros <;> decide +kernel

theorem wit_CrewMasks :
    (fun x : MaskArgs => runsOk .general [] x.g []) ⟨0, 11⟩ ∧
    (fun x : MsetArgs => runsOk .general [] x.g [sp2 x.r]) ⟨0, 11, 254⟩ ∧
    (fun x : XshfArgs => runsOk .general [(255, 0xFFFFFFFF)] x.g [sp1 x.d, sp1 x.b]) ⟨0, .wrap, 255, 7, 11, 255⟩ ∧
    (fun x : XvoteArgs => runsOk .general [] x.g [sp2 x.e]) ⟨0, .same, 7, 254, 11⟩ ∧
    (fun x : XbalArgs => runsOk .general [] x.g [sp2 x.d, sp2 x.e]) ⟨0, 252, 254, 11⟩ ∧
    (fun x : XredArgs => runsOk .general [] x.g [sp1 x.d]) ⟨0, .max, .i32, false, 255, 11⟩ := by
  unfold runsOk Runs; decide +kernel

/-- Mask 0 holds the 16 threads of the crew, mask 11 none; an access is outstanding, or every member has arrived. -/
theorem wit_CrewRendezvous :
    let th := thread .general []
    let s := withThread th
    let th1 : Thread := { th with ops := [opOf 7 (.store (.dev 0x3000000) 4 0 false) (glbAcc 0x10000 2 1)] }
    let full := s.setMask th.bid 0 0 { s.mask th.bid 0 0 with arr := 0xFFFF }
    (s.block? th.bid).isSome = true ∧ inTurn s th ∧ inTurn (withThread th1) th1 ∧ (s.mask th.bid 0 11).mem.getLsbD th.tid = false ∧
    (s.mask th.bid 0 0).mem.getLsbD th.tid = true ∧ th.accessesDone = true ∧ th1.accessesDone = false ∧
    (fun x : WaitPutArgs => regsOk th [sp1 x.a] = true) ⟨0, 0, 255, ⟨0, false⟩⟩ ∧
    ((full.mask th.bid 0 0).mem ≠ 0 ∧ (full.mask th.bid 0 0).arr &&& (full.mask th.bid 0 0).mem = (full.mask th.bid 0 0).mem) ∧
    (s.mask th.bid 0 11).mem = 0 ∧ (s.mask th.bid 0 0).arr &&& (s.mask th.bid 0 0).mem ≠ (s.mask th.bid 0 0).mem ∧
    (let held : Thread := { th with status := .blocked (.mask 0) }
     let fh := full.setThread 0 0 held
     fh.thread? 0 0 = some held ∧ (fh.mask th.bid 0 0).arr.getLsbD held.tid = true ∧ ((fh.mask th.bid 0 0).dep.map Prod.fst).Nodup) ∧
    (let last := s.setMask th.bid 0 0 { s.mask th.bid 0 0 with arr := 0xFFFE }
     let m := last.mask th.bid 0 0
     inTurn last th ∧ (last.block? th.bid).isSome = true ∧ th.yieldTill = 0 ∧ th.tid < 64 ∧ m.mem.getLsbD th.tid = true ∧
       (m.arr ||| (1 : Dword) <<< th.tid) &&& m.mem = m.mem ∧ (m.dep.map Prod.fst).Pairwise (· < ·)) := by
  dsimp only [inTurn, Runs]
  and_intros <;> decide +kernel

/-- An arrival and a post of the thread that its earlier store holds back. -/
theorem wit_TransactionBarriers_own :
    let g : FMap Word := [(255, 0x3FFF0)]
    let held : Op := opOf 8 (.act (.tbar 0x3FFF0 1)) (glbAcc 0x3FFF0 4 1)
    let th : Thread := { thread .general g with ops := [opOf 7 (.store (.dev 0x3000000) 4 0 false) (glbAcc 0x10000 2 1), held] }
    inTurn (withThread th) th ∧ held ∈ th.ops ∧ held.kind = .act (.tbar (th.reg 255).toNat 1) ∧
    (∀ o ∈ (thread .general g).ops, ∀ n, o.kind ≠ .act (.tbar 0x3FFF0 n)) := by
  dsimp only [inTurn, Runs]
  and_intros <;> first | decide +kernel | (intro o h; cases h)

theorem wit_BarriersAndRings_own :
    let held : Op := opOf 8 (.act (.ringp 0 0)) (glbAcc 0 4 1)
    let th : Thread := { thread .general [] with ops := [opOf 7 (.store (.dev 0x3000000) 4 0 false) (glbAcc 0x10000 2 1), held] }
    inTurn (withThread th) th ∧ held ∈ th.ops ∧ held.kind = .act (.ringp (0 : BitVec 4).toNat 0) ∧ (thread .general []).ops = [] := by
  dsimp only [inTurn, Runs]
  and_intros <;> decide +kernel

/-- Two of a crew of 16 have deposits captured in mask 11; the lone live thread of a crew is blocked at mask 0, and it runs. -/
theorem wit_CrewMasks_values :
    let th := thread .general []
    let s := withThread th
    let d : FMap Deposit := [(0, { v := 5, p := true }), (15, { v := 0xFFFFFFFF, p := false })]
    let r := s.setMask th.bid 0 11 { s.mask th.bid 0 11 with mem := 0xFFFF, cap := 0x8001, cdep := d }
    let m := r.mask th.bid 0 11
    inTurn r th ∧ (((List.range th.width).filter fun i => (m.cap &&& m.mem).getLsbD i).map fun i =>
      (FMap.getD m.cdep i { v := 0, p := false }).v) = [5, 0xFFFFFFFF] ∧ th.width = 16 := by
  dsimp only [inTurn, Runs]
  and_intros <;> decide +kernel

theorem wit_CrewRendezvous_deadlock :
    let th := thread .general []
    let s := withThread th
    let at0 : Thread := { th with status := .blocked (.mask 0) }
    let stuck := (s.setMask th.bid 0 0 { s.mask th.bid 0 0 with arr := 1, dep := [(0, { v := 5, p := true })] }).setThread 0 0 at0
    (∀ z ∈ [s, stuck], (∀ n < 12, (z.mask th.bid 0 n).mem = 0 ∨ (z.mask th.bid 0 n).arr &&& (z.mask th.bid 0 n).mem ≠ (z.mask th.bid 0 n).mem) ∧
      ((z.block? th.bid).map Block.bid) = some th.bid) ∧
    ((stuck.core 0).threads.filter fun e => e.2.bid == th.bid && e.2.crew == 0 && e.2.status != .exited) = [(0, at0)] ∧ at0.halted = false ∧
    ((s.core 0).threads.filter fun e => e.2.bid == th.bid && e.2.crew == 0 && e.2.status != .exited) = [(0, th)] ∧
    th.status ≠ .blocked (.mask 0) ∧ (s.thread? 0 0).map Thread.tid = some 0 := by
  dsimp only
  and_intros <;> decide +kernel
/-! Engines. -/

/-- The last record of `wbuf`, the last accumulators of `cbuf`, the last activation of `abuf`. -/
theorem wit_MatrixOperationsEnqueue :
    let g : FMap Word := [(255, BitVec.ofNat 32 (524288 - recordSize .bf16 false false)), (254, BitVec.ofNat 32 (524288 - recordSize .e4m3 true true)),
      (253, 2097152 - 64), (252, BitVec.ofNat 32 (2097152 - 4 * nOf .bf16)), (251, BitVec.ofNat 32 (524288 - actSize .bf16 false false false)), (250, 0xFFF0FFF0)]
    let s := base .matrix g
    let th := thread .matrix g
    th.role = .matrix ∧ s.lacksFeature 0 = false ∧ s.lacksFeature 1 = false ∧ s.lacksFeature 2 = false ∧
    (fun x : WldArgs => runsL .matrix g x.h none [sp1 x.a] ∧ x.fmt ≠ .lns6 ∧ (th.reg 255).toNat % 64 = 0 ∧
      (th.reg 255).toNat + recordSize .bf16 false false ≤ s.alloc th.bid .wbuf) ⟨⟨0, none⟩, .bf16, false, 255, none⟩ ∧
    (fun x : WldArgs => runsL .matrix g x.h none [sp1 x.a] ∧ (th.reg 254).toNat % 64 = 0 ∧
      (th.reg 254).toNat + recordSize .e4m3 true true ≤ s.alloc th.bid .wbuf) ⟨⟨0, none⟩, .e4m3, true, 254, some 0⟩ ∧
    (fun x : MzeroArgs => runsL .matrix g x.h none [sp1 x.a] ∧ (th.reg 253).toNat % 64 = 0 ∧ (th.reg 253).toNat + x.len.toNat ≤ s.alloc th.bid .cbuf)
      ⟨⟨0, none⟩, 253, 64⟩ ∧
    (fun x : DcfgArgs => runsOk .matrix g x.g (spRI1 x.v) ∧ (th.ri x.v).extractLsb' 16 16 = 0 ∧ (th.ri x.v).extractLsb' 4 4 = 0 ∧ (th.ri x.v).getLsbD 1 = false)
      ⟨0, .imm 0xFF0D⟩ ∧
    (fun x : MloopArgs => runsL .matrix g x.h none [sp1 x.c, sp1 x.a, sp1 x.s] ∧
      s.checkOpds th.bid [⟨.cbuf, (th.reg 252).toNat, 0, 1, 0xFFF0, 1, 4 * nOf .bf16, 4, [0xFFF0], 2⟩,
        ⟨.abuf, (th.reg 251).toNat, 0, 1, 0xFFF0, 1, actSize .bf16 false false false, 16, [0xFFF0], 0⟩] = none)
      ⟨⟨0, none⟩, .bf16, false, false, false, true, 252, 251, 250, 0, 0, 0, 0, 0⟩ ∧
    (fun x : DArgs => runsOk .matrix g x.g [sp2 x.d]) ⟨0, 254⟩ ∧ (fun x : AArgs => runsOk .matrix g x.g [sp2 x.a]) ⟨0, 254⟩ ∧
    (fun x : Bare => runsOk .matrix g x.g []) ⟨0⟩ ∧
    (th.ops = [] ∧ th.halted = false ∧ th.late = [] ∧ th.preck = [] ∧ th.yieldTill ≤ (s.core 0).cycle) := by
  dsimp only [runsL, runsOk, Runs]
  and_intros <;> decide +kernel

/-- A state whose tile vector queue holds a VST that writes the 256 bytes at `pa`: it owns their lines. -/
def owning (s : State) (pa : Nat) : State :=
  s.setCore 0 { s.core 0 with vq := [⟨0, 1, ⟨0, 0⟩, 0, .st 0 [(pa, .dev pa)], .f32, .rn, false, .abuf, .cbuf, .abuf, .abuf, pa, 0, 0, 0, 1, 0, [], none⟩] }

/-- A device whose matrix queue holds one operation. -/
def matrixState (k : MKind) (l : Latch) : State :=
  let s := base .matrix []
  s.setCore 0 { s.core 0 with mq := [⟨0, 0, ⟨0, 0⟩, 0, k, 0⟩], latch := l }

def latchAt (a : Nat) : Latch := { fmt := some .bf16, scaled := false, sparse := false, addr := a, bytes := [], poison := [] }

theorem wit_MatrixOperationsPerform :
    let head (k : MKind) (l : Latch) : Prop := (matrixState k l).matrixHead 0 = some ⟨0, 0, ⟨0, 0⟩, 0, k, 0⟩
    let loop : MKind := .mloop .bf16 false false false true 0 0 0 0 1 1 0 0 0
    let last := 524288 - recordSize .bf16 false false
    head (.wld .bf16 false false last) Latch.none ∧ head (.mzero 0 64) Latch.none ∧ head (.dcfg 1) Latch.none ∧ head loop Latch.none ∧
    Latch.none.suits .bf16 false false = false ∧ (latchAt last).suits .bf16 false false = true ∧ head loop (latchAt last) ∧
    last + (1 - 1) * 0 + recordSize ((latchAt last).fmt.getD .bf16) false false ≤ (matrixState loop (latchAt last)).alloc ⟨0, 0⟩ .wbuf ∧
    (matrixState loop (latchAt (last + 64))).alloc ⟨0, 0⟩ .wbuf < last + 64 + (1 - 1) * 0 + recordSize .bf16 false false ∧ head loop (latchAt (last + 64)) ∧
    1 * 1 ≤ 1 := by
  dsimp only
  and_intros <;> decide +kernel

theorem wit_RowStepsAndKSteps :
    ((matrixState (.mloop .bf16 false false false true 0 0 0 0 1 1 0 0 0) Latch.none).core 0).mq.map MOp.kind = [.mloop .bf16 false false false true 0 0 0 0 1 1 0 0 0] ∧
    (63 < 64 ∧ (lnsProd ⟨[], [0, 0xFF], []⟩ ⟨[], [], List.replicate 63 0 ++ [32], false⟩ 63).val = .nan) ∧ 0x3F800000 < 2 ^ 32 := by
  and_intros <;> decide +kernel

theorem wit_RowStepsAndKSteps_zero :
    let x : Act := ⟨[], [], []⟩
    let w : Col := ⟨[], [], [], false⟩
    Fmt.f32 ∈ [Fmt.lns6, .e4m3, .e5m2, .bf16, .f16, .f32] ∧ (∀ i, x.codes.getD i 0 = 0) ∧ (∀ i, x.scales.getD i 127 ≠ 0xFF) ∧
    (∀ i, w.scales.getD i 127 ≠ 0xFF) ∧ (∀ i r, toReal .f32 (w.codes.getD i 0) ≠ .nan ∧ toReal .f32 (w.codes.getD i 0) ≠ .inf r) ∧
    (Fmt.f32 = .lns6 ↔ Fmt.f32 = .lns6) ∧ (Fmt.f32 = .f32 ↔ Fmt.f32 = .f32) ∧ (∃ r m e, toReal .f32 0x7F7FFFFF = .fin r m e ∧ m ≠ 0) :=
  have h1 : (127 : Nat) ≠ 0xFF := by decide
  have h2 : ∀ r, toReal .f32 0 ≠ .nan ∧ toReal .f32 0 ≠ .inf r := by decide +kernel
  ⟨by decide, fun i => by cases i <;> rfl, fun i => by cases i <;> exact h1, fun i => by cases i <;> exact h1,
    fun i r => by cases i <;> exact h2 r, Iff.rfl, Iff.rfl, ⟨false, 0xFFFFFF, 104, by decide +kernel, by decide⟩⟩

/-- The last rows of the buffers, and rows stored to the end of page 1. -/
theorem wit_VectorOperationsEnqueue :
    let g : FMap Word := [(255, 2097152 - 256), (252, 2097152 - 4), (253, 524288 - 128), (254, 0), (8, 0x1FF00)]
    let s := base .vector g
    let th := thread .vector g
    let x : VecArgs := ⟨⟨0, none⟩, 0, .f32, .rn, false, true, true, true, true, 255, 255, 255, 255, 0⟩
    let y : VecArgs := ⟨⟨0, none⟩, 1, .f32, .rn, false, true, true, true, false, 252, 255, 0, 0, 0⟩
    let z : VecArgs := ⟨⟨0, none⟩, 2, .f32, .rn, false, true, true, true, false, 255, 255, 252, 0, 0⟩
    let fits (v : VShape) (x : VecArgs) : Prop := regsOk th (v.spans x) = true ∧ s.checkOpds th.bid (v.opds x th) = none
    th.role = .vector ∧ runsL .vector g x.h none [] ∧ fits ⟨1, 1, 1, 0⟩ x ∧ fits ⟨1, 1, 1, 1⟩ x ∧ fits ⟨1, 1, 0, 0⟩ x ∧ fits ⟨2, 1, 0, 0⟩ y ∧ fits ⟨1, 1, 2, 0⟩ z ∧
    fits ⟨1, 0, 2, 0⟩ z ∧ x.op = 0 ∧ z.op ≠ 0 ∧
    (fun x : VcvtArgs => runsL .vector g x.h none [sp1 x.d, sp1 x.a] ∧ s.lacksFeature 2 = false ∧
      s.checkOpds th.bid [Opd.rows .abuf (th.reg 253).toNat (actSize .e4m3 false true false) 1 (actSize .e4m3 false true false) 64 1,
        Opd.rows .cbuf (th.reg 255).toNat 256 1 256 64 0] = none) ⟨⟨0, none⟩, .e4m3, true, .rn, false, true, 253, 255, 0⟩ ∧
    (fun x : VstArgs => runsL .vector g x.h none [sp2 x.d, sp1 x.a, sp1 x.b] ∧ (th.pair x.d.toNat).toNat % 16 = 0 ∧ (th.reg x.b.toNat).toNat % 16 = 0 ∧
      s.checkOpds th.bid [Opd.rows .cbuf (th.reg x.a.toNat).toNat 256 1 256 64 0] = none) ⟨⟨0, none⟩, .dev, .f32, .rn, false, true, 8, 255, 254, 0⟩ ∧
    (match s.vstPages 0 .dev (rowPages 0x1FF00 (rowBytes .f32)) [] with | .ok ps => decide (ps = [(0x1FF00, .dev 0x300FF00)]) | _ => false) = true := by
  dsimp only [runsL, runsOk, Runs]
  and_intros <;> decide +kernel

/-- A vector queue whose head moves one row. -/
def vectorState (rows : Nat) : State :=
  let s := base .vector []
  s.setCore 0 { s.core 0 with vq := [⟨0, 0, ⟨0, 0⟩, 0, .mov false, .f32, .rn, false, .cbuf, .cbuf, .abuf, .abuf, 2097152 - 256 * rows, 0, 0, 0, rows, 0, [], none⟩] }

theorem wit_VectorOperationsPerform :
    let s := vectorState 2
    (s.block? ⟨0, 0⟩).isSome = true ∧ Space.cbuf ∈ [Space.abuf, .cbuf] ∧ Space.abuf ∈ [Space.abuf, .cbuf] ∧ Fmt.bf16 ∈ [Fmt.f32, .f16, .bf16] ∧
    s.enginesRun 0 = true ∧ ((s.core 0).vq.head?).map VOp.rows = some 2 ∧ (match (s.core 0).vq with | v :: _ => s.issuerClear 0 v.slot v.bid v.uid | [] => false) = true ∧
    (match (s.core 0).vq with | v :: _ => (((s.vecRows 0 v 2).core 0).vq.head?).map VOp.done | [] => none) = some 2 ∧
    (match (s.core 0).vq with | v :: _ => (((s.vecRows 0 v 1).core 0).vq.head?).map VOp.done | [] => none) = some 1 := by
  dsimp only
  and_intros <;> decide +kernel

/-- Rows of every place and format, a sum of zeros, a quantised block with an infinity, and a stored row that ends on the next page. -/
theorem wit_VectorOperationsPerform_rows :
    let s := vectorState 2
    let inf (b : Store) : Store := b.write 4 (leBytes 4 0x7F800000)
    let x (b : Store) (i : Nat) : XR := toReal .f32 (b.readNat (4 * i) 4)
    let row (ps : List (Nat × Tgt)) := vstPieces ps 0xFF80 256
    let near : List (Nat × Tgt) := [(0, .dev 0x2000000), (0x10000, .host 0x3000000)]
    (∀ f ∈ [Fmt.f32, .f16, .bf16], f ∈ [Fmt.f32, .f16, .bf16]) ∧ (∀ f ∈ [Fmt.e4m3, .e5m2], f ∈ [Fmt.lns6, .e4m3, .e5m2]) ∧
    (s.block? ⟨0, 0⟩).map (fun k => roundRne (toReal .f32 ((k.store 0 .cbuf).readNat 0 4)) .f32) = some 0 ∧ fAdd .f32 .rn false 0 0 = 0 ∧
    (quantise .e4m3 .rn ((List.range 32).map fun i => (x (inf Store.empty) i, 0))).inf = true ∧
    ((s.core 0).vq.head?).map VOp.parts = some [] ∧ s.vstReady 0 (row near) = true ∧
    (row near).map (fun e => (e.1, e.2.2)) = [(.dev 0x200FF80, 0, 128), (.host 0x3000000, 128, 128)] ∧
    (∀ i < 128, isCfgByte (0x200FF80 + i) = false ∧ isPageZero (0x200FF80 + i) = false ∧ isPoolZero (0x200FF80 + i) = false) := by
  dsimp only
  and_intros <;> decide +kernel

/-- Codes of zero under the scale 1 in every position, a group of ones, and one with opposite infinities. -/
theorem wit_RowStepsAndKSteps_sums :
    let x : Act := ⟨[], [], []⟩
    let w : Col := ⟨[], [], [], false⟩
    let ones : Act := ⟨List.replicate 64 0x38, [], []⟩
    (∀ p < 64, x.scales.getD (w.pos.getD p 0 / 32) 127 ≠ 0xFF ∧ w.scales.getD (p / 32) 127 ≠ 0xFF ∧ x.codes.getD (w.pos.getD p 0) 0 % 64 ≠ 0x20 ∧
      w.codes.getD p 0 % 64 ≠ 0x20) ∧
    (Fmt.e4m3, Fmt.e5m2) ∈ [(Fmt.e4m3, Fmt.e4m3), (.e4m3, .e5m2), (.e5m2, .e4m3), (.e5m2, .e5m2), (.bf16, .bf16), (.f16, .f16)] ∧
    (∀ i < 16, value (toReal .e4m3 (ones.codes.getD (48 + i) 0)) = some 1 ∧ value (toReal .e5m2 0) = some 0) ∧
    toReal .e5m2 0x7C = .inf false ∧ toReal .e5m2 0xFC = .inf true := by
  dsimp only
  and_intros <;> decide +kernel
/-! The Ladles. -/

def resOk {α : Type} : ARes α → Bool
  | .ok _ => true
  | _ => false

/-- Whether an agent's read gives bytes without poison. -/
def readsClean : ARes (List Byte × List Nat × State) → Bool
  | .ok (_, bad, _) => bad.isEmpty
  | _ => false

/-- A running stream in slot 15 of Ladle 0, in turn, in the context of `base`. -/
def streamState (f : Stream → Stream) : State :=
  { (base .feed []).setStream 0 15 (f { Stream.free with handle := 0x780, st := .run, lpc := 0x1FFF0 }) with cur := .stream 0 15 }

theorem wit_LadleThreadInstructions :
    let g : FMap Word := [(254, 0x1FFF0), (253, 0x780)]
    let s := base .feed g
    let th := thread .feed g
    let full := (List.range 16).foldl (fun s k => s.setStream 0 k { Stream.free with st := .run }) s
    let last := s.setStream 0 0 { Stream.free with st := .run }
    let held := s.setStream 0 15 { Stream.free with st := .done, handle := 0x780, err := 255 }
    let bound := s.setChan 0 15 { Chan.reset with block := some th.bid }
    th.role = .feed ∧ inTurn full th ∧ inTurn last th ∧ inTurn held th ∧ inTurn bound th ∧
    (fun x : LdlStartArgs => runsL .feed g x.h none [sp1 x.d, sp2 x.a] ∧ (th.pair x.a.toNat).toNat % 16 = 0) ⟨⟨0, none⟩, 255, 254⟩ ∧
    (∀ k < 16, (full.stream 0 k).st ≠ .free) ∧ (last.stream 0 1).st = .free ∧ (∀ j < 1, (last.stream 0 j).st ≠ .free) ∧
    (fun x : LdlStartAtArgs => runsL .feed g x.h none [sp1 x.d, sp2 x.a] ∧ s.lacksFeature 15 = false ∧ ∀ k < 16, (s.stream x.n.toNat k).st = .free)
      ⟨⟨0, none⟩, 255, 254, 127⟩ ∧
    (fun x : AArgs => regsOk th [sp1 x.a] = true) ⟨0, 255⟩ ∧ (fun x : DAArgs => regsOk th [sp2 x.d, sp1 x.a] = true) ⟨0, 254, 253⟩ ∧
    s.streamOf th.ctx 0x780 = none ∧ (held.streamOf th.ctx 0x780).map Stream.err = some 255 ∧
    (fun x : LdlBaseArgs => regsOk th (spRI1 x.v) = true ∧ s.baseOk 0 x.ch.toNat th.bid = true ∧
      (s.setChan 0 15 { Chan.reset with block := some ⟨9, 9⟩ }).baseOk 0 x.ch.toNat th.bid = false) ⟨0, 7, 15, .imm 0xFFFFFFF0⟩ ∧
    (bound.chan 0 15).block = some th.bid ∧ (s.chan 0 15).block ≠ some th.bid ∧ th.accessesDone = true := by
  dsimp only [inTurn, runsL, runsOk, Runs]
  and_intros <;> decide +kernel

/-- Full and empty stacks, a channel bound to the block and one that is not, pages mapped and not, an absent feature. -/
theorem wit_LadleCommands :
    let s := streamState id
    let runs (f : Stream → Stream) : Prop := StreamRuns (streamState f) 0 15
    let d : LDst := ⟨15, true, false, 0x0001, 0, 8, 32, 1⟩
    let bound := s.setChan 0 15 { Chan.reset with block := some ⟨0, 0⟩ }
    let locked : State := { s with dev := { s.dev with featLock := true } }
    runs id ∧ StreamRuns bound 0 15 ∧ StreamRuns locked 0 15 ∧
    s.ladleLacks .lns6 true = false ∧ locked.ladleLacks .lns6 true = true ∧ s.lacksFeature 12 = false ∧
    s.chanOk (s.stream 0 15) 0 15 0 d.ch.toNat = false ∧ bound.chanOk (bound.stream 0 15) 0 15 0 d.ch.toNat = true ∧
    (bound.chan 0 15).base.toNat + d.land.toNat + 2 ^ d.logn.toNat * (64 * d.slotsz.toNat) ≤ bound.alloc ⟨0, 0⟩ d.space ∧
    (runs (fun y => { y with loops := List.replicate 3 (0, 2) }) ∧ runs (fun y => { y with loops := List.replicate 4 (0, 1) }) ∧
      runs (fun y => { y with calls := List.replicate 3 (0, 0) }) ∧ runs (fun y => { y with calls := List.replicate 4 (0, 0) })) ∧
    (fun y : Stream => y.outer < y.loops.length ∧ y.loops.length < 4) { Stream.free with loops := List.replicate 3 (0, 2) } ∧
    (fun y : Stream => y.loops.length ≤ y.outer ∧ y.calls = [] ∧ y.calls.length < 4) Stream.free ∧
    (fun y : Stream => y.calls = [(0, 1)] ∧ y.loops.length ≤ 1) { Stream.free with calls := [(0, 1)], loops := [(0, 1)] } ∧
    (fun y : Stream => y.calls = [(0, 0)] ∧ 0 < y.loops.length) { Stream.free with calls := [(0, 0)], loops := [(0, 1)] } ∧
    readsClean (s.agentRead 0 0x1FFFC 4) = true ∧ (match s.agentRead 0 0x20000 4 with | .fail _ _ => true | _ => false) = true ∧
    runs (fun y => { y with copy := true }) ∧ (s.stream 0 15).copy = false ∧
    resOk (s.agentWrite 0 0x1FFFC (leBytes 4 7) [] false) = true ∧
    (match s.agentAdd 0 0x1FFFC 4 7 false with | .ok (some _) => true | _ => false) = true := by
  dsimp only [StreamRuns]
  and_intros <;> decide +kernel

def someSrc : LSrc := ⟨false, .f32, false, 0x10000, [(16, 0), (16, 64)], 0⟩
def someDst : LDst := ⟨15, true, false, 0x0003, 0, 0, 16, 4⟩
def someEmit : Emit := Emit.fresh none ⟨15, 15, 0, 0, 0⟩

theorem wit_LadleEvents :
    let s (f : Emit → Emit) := streamState fun y => { y with src := some someSrc, dst := some someDst, emit := some (f someEmit) }
    let owned := ((s fun e => { e with begun := true, recv := 1 }).setChan 0 15 { Chan.reset with owner := some (0, 15), block := some ⟨0, 0⟩ })
    let rs := ((List.range 16).filter fun i => someDst.rmask.getLsbD i).map (16 * 0 + ·)
    (∀ y ∈ [(s id).stream 0 15, owned.stream 0 15], y.live = true ∧ y.halted = false ∧ y.stalled = none ∧ y.src = some someSrc ∧ y.dst = some someDst) ∧
    (someEmit.begun = false ∧ (delivered someSrc none).2 = false) ∧ someEmit.recv = 0 ∧ someEmit.row < someEmit.tr ∧
    resOk ((s fun e => { e with begun := true }).nextRow ((s fun e => { e with begun := true }).stream 0 15) someSrc { someEmit with begun := true }) = true ∧
    (rs[0]? = some 0 ∧ rs[1]? = some 1 ∧ 0 + 1 < rs.length) ∧ owned.owns 0 15 0 15 = true ∧ (s id).owns 0 15 0 15 = false ∧
    (let q : LQuant := ⟨.e4m3, true, .rn, true, false, 0, 0⟩
     let e (n : Nat) : Emit := { someEmit with begun := true, staged := List.replicate n (⟨[], []⟩, true) }
     let z (n : Nat) : State := streamState fun y => { y with src := some someSrc, dst := some someDst, quant := some q, emit := some (e n) }
     let c (n : Nat) : State := { z n with staging := [(0, [(15, 16 * 64)])] }
     let y := (c 15).stream 0 15
     ((y.emit.map fun e => e.recv == 0 && e.begun && decide (e.row + e.staged.length < e.tr)) = some true ∧ y.quant.isSome = true ∧
       (c 15).stageHeld 0 15 = true ∧ (y.emit.map fun e => resOk ((c 15).nextRow y someSrc { e with row := e.row + e.staged.length })) = some true) ∧
       (((c 16).stream 0 15).emit.map fun e => decide (e.tr ≤ e.row + e.staged.length)) = some true) ∧
    (fun y : Stream => y.waitm = some ⟨.eq, 1, 0, 0x10000⟩ ∧ y.live = true ∧ y.halted = false ∧ (⟨.eq, 1, 7, 0x10000⟩ : LWaitm).deadline ≠ 0)
      ((streamState fun y => { y with waitm := some ⟨.eq, 1, 0, 0x10000⟩ }).stream 0 15) ∧
    (fun s : State => (s.stream 0 15).waitm = none ∧ (s.stream 0 15).stalled = none ∧ (s.stream 0 15).emit = none ∧ s.streamClear (s.stream 0 15) = true ∧ s.aheadBytes 0 + 64 ≤ Config.runAheadBytes ∧ resOk (s.agentRead 0 (0x1FFFF &&& ~~~63) 64) = true)
      (streamState id) := by
  dsimp only
  and_intros <;> decide +kernel
/-! The fabric. -/

/-- `base` for device 5 with rank 3 at device 0x1FFF, rank 2 at itself, an egress entry that admits both, an ingress entry of context 0
whose window is the two mapped pages, and the active generation 9 beside the pending 10. -/
def fabricState (g : FMap Word) : State :=
  let s := base .general g
  { s with tables := { s.tables with
    fabid := 5, rankAct := [(2, 5), (3, 0x1FFF)], egress := [(0, ⟨0x77, true, 1, 1, BitVec.allOnes 128⟩)],
    ingress := [(63, { pkey := 0x88, ctx := 0, valid := true, exb := 0 })], gen := 9, genPend := 10 } }

/-- The address in the pod's aperture of byte `off` of rank `r`. -/
def podAddr (r off : Nat) : Dword := BitVec.ofNat 64 (0xFFF8000000000000 + r * 2 ^ 38 + off)

/-- The last word of the pod's aperture at ranks 3 and 2; an access of the thread still to be seen, or none. -/
theorem wit_RemoteOperations :
    let g : FMap Word := [(254, 0xFFFFFFF8), (255, 0xFFF800FF), (252, 0xFFFFFFFC), (253, 0xFFF800BF)]
    let s := fabricState g
    let th := thread .general g
    let reach (ea : Dword) (n : Nat) (dev : Half) : Prop := ea.toNat % n = 0 ∧ canonical ea = true ∧ inAperture ea = true ∧
      s.deviceAt (ea.extractLsb' 38 13).toNat = some dev ∧ s.egressOk th.ctx dev = true ∧ s.rateHolds th.ctx 64 = false ∧ s.unacked dev th.ctx < 256
    let ea (a : GReg) (off : Int) : Dword := BitVec.ofInt 64 (effAddr .glb (th.baseOf .glb a) off)
    inTurn s th ∧ th.role = .general ∧ s.lacksFeature 6 = false ∧ s.lacksFeature 11 = false ∧ (s.ctx th.ctx).det = false ∧ th.accessesDone = true ∧
    th.remoteWaits ⟨oReduce, 2, 0, .rel, 0, 0, 8, 2, none⟩ none = false ∧ th.remoteWaits ⟨oReduce, 2, 0, .rel, 0, 0, 8, 2, none⟩ (some (.dev 0x300FFF8, 8)) = false ∧
    reach (ea 254 0) 8 0x1FFF ∧ reach (ea 252 0) 4 5 ∧ (ea 254 0 = podAddr 3 0x3FFFFFFFF8 ∧ ea 252 0 = podAddr 2 0x3FFFFFFFFC) ∧
    (fun x : RldArgs => regsOk th [spT x.t x.d, sp2 x.a] = true ∧ ea x.a (Off.val x.off) = podAddr 3 0x3FFFFFFFF8) ⟨0, true, .n64, 254, 254, .o8 0⟩ ∧
    (fun x : RstArgs => flagIs s th x.h none = true ∧ regsOk th [sp2 x.a, spT x.t x.b] = true ∧ ea x.a (Off.val x.off) = podAddr 2 0x3FFFFFFFFF)
      ⟨⟨0, none⟩, true, .n8, 252, .o8 3, 255⟩ ∧
    (fun x : RatomArgs => flagIs s th x.h none = true ∧ regsOk th [spAtom x.op x.d, sp2 x.a, spAtom x.op x.b] = true)
      ⟨⟨0, none⟩, .int .exch .n64, .ar, 254, 254, .o8 0, 254⟩ ∧
    (fun x : RatomCasArgs => flagIs s th x.h none = true ∧ regsOk th [spT x.t x.d, sp2 x.a, spT x.t x.b, spT x.t x.c] = true)
      ⟨⟨0, none⟩, .plain, .n64, 254, 254, 252, 254⟩ ∧
    (fun x : RredArgs => flagIs s th x.h none = true ∧ regsOk th [sp2 x.a, spAtom x.op x.b] = true) ⟨⟨0, none⟩, .flt .min .f32, true, 252, .o8 0, 255⟩ := by
  dsimp only [inTurn, Runs]
  and_intros <;> decide +kernel

/-- A packet to device 5 on port 35, sealed. -/
def packetOf (f : Packet → Packet) : Packet := Packet.seal (f { Packet.blank with dstdev := 5, srcdev := 0x1FFF, pkey := 0x88, gen := 9, port := 35 })

/-- A request of operation `oper`, atomic operation `aop` and type code `ty` at byte `off` of the window. -/
def requestOf (oper aop ty : Nat) (off : Dword) : Packet :=
  packetOf fun p => { p with kind := kRequest, offset := off, opcode := BitVec.ofNat 32 (oper + 256 * aop + 4096 * ty), opb := 0xFFFFFFFFFFFFFFFF }

/-- Whether a request or notice is answered. -/
def served : Served → Bool
  | .answer _ _ _ => true
  | _ => false

/-- A request of each class that is new, one that is answered again, a response, a notice, a packet of device 6, and one whose check fails. -/
theorem wit_PacketArrival :
    let s := fabricState []
    let arrives (p : Packet) : Prop := s.fab.loopback.contains p = false ∧ p.port.toNat < Config.nPorts ∧ s.tables.fabid ≠ 0xFFFF
    let s1 (s : State) (p : Packet) : State := s.arriveAt 35 p
    let r0 := packetOf fun p => { p with kind := kRequest }
    let r1 := packetOf fun p => { p with kind := kRequest, fcls := 1, seq := 0xFFFFFF }
    let far := packetOf fun p => { p with kind := kRequest, seq := 2 ^ 23 - 1 }
    let resp := packetOf fun p => { p with kind := kResponse, fcls := 1 }
    let note := packetOf fun p => { p with kind := kNotice }
    let other := packetOf fun p => { p with kind := kRequest, dstdev := 6 }
    let locked : State := { s with dev := { s.dev with featLock := true } }
    let again : State := { s with fab := { s.fab with answered := [⟨0x1FFF, 0, 0, 0, Packet.blank⟩] } }
    (∀ p ∈ [r0, r1, far, resp, note, other, { r0 with crc := r0.crc + 1 }], arrives p ∧ (s.port p.port.toNat).rxReplayOf = none) ∧
    (let early := s.setPort 35 { s.port 35 with rxReplayOf := some (r0.lseq + 1) }
     r0.port.toNat = 35 ∧ (early.port 35).rxReplayOf = some (r0.lseq + 1) ∧ r0.lseq + 1 ≠ r0.lseq ∧
       ((s.setPort 35 { s.port 35 with rxReplayOf := some r0.lseq }).port 35).rxReplayOf = some r0.lseq) ∧ ({ r0 with crc := r0.crc + 1 } : Packet).sound = false ∧
    (∀ p ∈ [r0, r1, far, resp, note, other], p.sound = true) ∧ other.dstdev ≠ s.tables.fabid ∧
    (∀ p ∈ [r0, r1, far, resp, note], p.dstdev = s.tables.fabid ∧ p.fcls.toNat < 2) ∧
    (r0.kind = kRequest ∧ (s1 again r0).fab.answered.find? (fun y => y.of r0) = some ⟨0x1FFF, 0, 0, 0, Packet.blank⟩) ∧
    (∀ p ∈ [r0, r1, far], p.kind = kRequest ∧ (s1 s p).fab.answered = [] ∧ (p.fcls = 0 → (p.seq - (s1 s p).expected p).toNat < 2 ^ 23) ∧
      (s1 s p).fab.reorder = []) ∧
    resp.kind = kResponse ∧ note.kind = kNotice ∧
    (let q := requestOf oRead 0 IType.n64.code 0x1FFF8
     let z := s1 s q
     arrives q ∧ q.sound = true ∧ q.dstdev = s.tables.fabid ∧ q.kind = kRequest ∧ q.fcls.toNat < 2 ∧ z.inTurn q = true ∧ z.fab.reorder = [] ∧
       served (({ z with fab := { z.fab with reorder := [⟨q, false, none⟩] } } : State).serve ⟨q, false, none⟩) = true) ∧
    (let q := packetOf fun p => { p with kind := kNotice, fcls := 3, offset := 0x1FFE0 }
     let z := s1 locked q
     arrives q ∧ q.sound = true ∧ q.dstdev = s.tables.fabid ∧ locked.dev.featLock = true ∧ z.fab.reorder = [] ∧
       served (({ z with fab := { z.fab with reorder := [⟨q, false, none⟩] } } : State).landNotice q) = true) := by
  dsimp only
  and_intros <;> decide +kernel
/-- The last word of the window, clean and poisoned, and a word of page 0, which is not exposed. -/
theorem wit_RequestService :
    let s := fabricState []
    let sp : State := { s with mem := s.mem.mark (0x300FFF8 / 8) }
    let e : Ingress := { pkey := 0x88, ctx := 0, valid := true, exb := 0 }
    let exp : Leaf := { entry := 0x21F + 0x300 * 65536, big := false, addr := 0x120008 }
    let shut : Leaf := { entry := 0x1F + 0x200 * 65536, big := false, addr := 0x120000 }
    let n64 := IType.n64.code
    (∀ p ∈ [requestOf oWrite 0 n64 0x1FFF8, requestOf oRead 0 n64 0x1FFF8, requestOf oCas 0 n64 0x1FFF8, requestOf oAtomic 0 n64 0x1FFF8,
        requestOf oReduce 0 n64 0x1FFF8],
      s.ingressOf p.pkey = some e ∧ p.size = 8 ∧ (e.exb + (p.offset.extractLsb' 0 38).setWidth 64).toNat = 0x1FFF8 ∧ leafAdmits exp.entry p.accKind = true) ∧
    s.walk 0 0x1FFF8 = .leaf exp ∧ pteExp exp.entry = true ∧ pteSnap exp.entry = false ∧ leafTgt exp 0x1FFF8 = .dev 0x300FFF8 ∧
    s.walkHeld 0 0x1FFF8 = false ∧ s.walkHeld 0 0xFFF8 = false ∧ s.agentHeld true 0x300FFF8 8 = false ∧ s.agentHeld false 0x300FFF8 8 = false ∧
    (let h := requestOf oAtomic (AtomOp.flt .add .bf16).op (AtomOp.flt .add .bf16).ty 0x1FFF8
     AtomOp.ofCodes h.aop h.tcode = .flt .add .bf16 ∧ twoWide (AtomOp.ofCodes h.aop h.tcode) = true ∧ h.size = 4 ∧ h.oper = oAtomic ∧
       s.agentHeld (h.accKind != 0) 0x300FFF8 4 = false ∧ s.mem.badOffsets 0x300FFF8 2 = [] ∧ s.mem.badOffsets (0x300FFF8 + 2) 2 = [] ∧
       sp.mem.badOffsets 0x300FFF8 2 ≠ [] ∧ (∀ d ∈ [(0, 0xFFFF), (1, 0)], (⟨h, false, some d⟩ : Arrived).half = some d ∧ 1 - d.1 < 2) ∧
       s.hiFirst = false ∧ ({ s with hiFirst := true } : State).hiFirst = true) ∧
    twoWide (AtomOp.ofCodes 0 n64) = false ∧
    s.mem.badOffsets 0x300FFF8 8 = [] ∧ sp.mem.badOffsets 0x300FFF8 8 ≠ [] ∧ sp.walk 0 0x1FFF8 = .leaf exp ∧
    (s.walked 0 0x1FFF8).mem.badOffsets 0x300FFF8 8 = [] ∧ (s.walked 0 0x1FFF8).mem.badOffsets 0x300FFFA 2 = [] ∧
    (sp.walked 0 0x1FFF8).mem.badOffsets 0x300FFF8 2 ≠ [] ∧
    s.walk 0 0xFFF8 = .leaf shut ∧ pteExp shut.entry = false ∧ (requestOf oRead 0 n64 0xFFF8).size = 8 ∧
    (requestOf oWrite 0 n64 0x1FFF8).oper = oWrite ∧ (requestOf oRead 0 n64 0x1FFF8).oper = oRead ∧ (requestOf oCas 0 n64 0x1FFF8).oper = oCas ∧
    (requestOf oAtomic 0 n64 0x1FFF8).oper = oAtomic ∧ (requestOf oReduce 0 n64 0x1FFF8).oper = oReduce := by
  dsimp only
  and_intros <;> decide +kernel

/-- A thread that waits for no value, one remote operation of its own in flight under the last tag. -/
theorem wit_RemoteCompletion :
    let acc : Acc := { space := .glb, scope := .pod, ea := podAddr 3 0, size := 3, kind := 0 }
    let o := opOf 7 (.remote 0xFFFFFFFF (some (254, .n64)) .plain none) acc
    let th := holding o
    let q : Pending := ⟨0xFFFFFFFF, Packet.blank, 0, 0, acc⟩
    let s0 := withThread th
    let s : State := { s0 with fab := { s0.fab with pending := [q] } }
    let tag : Word := 0xFFFFFFFF
    (s.fab.pending.find? fun y => y.tag == tag.toNat) = some q ∧ s.thread? q.core q.slot = some th ∧ th.status ≠ .parked (.rld tag.toNat) ∧
    (th.ops.find? fun o => match o.kind with | .remote g _ _ _ => g == tag.toNat | _ => false) = some o ∧ o.kind.acquire = false ∧ s.fab.plan = none := by
  dsimp only
  and_intros <;> decide +kernel

/-- A request to send again: admitted or not, within its rate, beyond it, and behind another that waits; an acquire operation, and an RLD
whose thread is parked for its value. -/
theorem wit_RemoteCompletion_forms :
    let acc : Acc := { space := .glb, scope := .pod, ea := podAddr 3 0, size := 3, kind := 0 }
    let pkt := packetOf fun p => { p with kind := kRequest, dstdev := 0x1FFF, srcctx := 0 }
    let q : Pending := ⟨0xFFFFFFFF, pkt, 0, 0, acc⟩
    let with_ (s : State) : State := { s with fab := { s.fab with pending := [q] } }
    let s := with_ (fabricState [])
    let shut : State := { s with tables := { s.tables with egress := [] } }
    let full := s.setCtx 0 { s.ctx 0 with sentBytes := 1024 }
    let queued : State := { s with fab := { s.fab with rated := [(0, pkt)] } }
    let o := opOf 7 (.remote 0xFFFFFFFF (some (254, .n64)) .acq none) acc
    let rld : Thread := { holding o with status := .parked (.rld 0xFFFFFFFF) }
    (∀ z ∈ [s, shut, full, queued], (z.fab.pending.find? fun y => y.tag == (0xFFFFFFFF : Word).toNat) = some q) ∧
    q.pkt.srcctx.toNat = 0 ∧ shut.egressOk 0 q.pkt.dstdev = false ∧ (∀ z ∈ [s, full, queued], z.egressOk 0 q.pkt.dstdev = true) ∧
    (s.rateHolds 0 (64 * q.pkt.flits) = false ∧ s.fab.rated = []) ∧ full.rateHolds 0 (64 * q.pkt.flits) = true ∧ queued.fab.rated = [(0, pkt)] ∧
    (∀ th ∈ [holding o, rld], (with_ (withThread th)).thread? q.core q.slot = some th ∧
      (th.ops.find? fun o => match o.kind with | .remote g _ _ _ => g == (0xFFFFFFFF : Word).toNat | _ => false) = some o) ∧
    o.kind.acquire = true ∧ rld.status = .parked (.rld (0xFFFFFFFF : Word).toNat) := by
  dsimp only
  and_intros <;> decide +kernel

def linkPacket (k : BitVec 12) : Packet := { Packet.blank with lseq := k }

/-- Port 35 trained, with three packets unacknowledged, in a device whose links train. -/
def portUp (f : Port → Port) : State :=
  let s := fabricState []
  ({ s with dev := { s.dev with links := true } } : State).setPort 35
    (f { Port.reset with trained := true, unacked := [linkPacket 4094, linkPacket 4095, linkPacket 0], txEpoch := 0xFFFF })

/-- Port 35 trained, untrained, lost, replaying for the first time and for the last, and announcements repeated and half a circle away. -/
theorem wit_LinkEvents :
    ((portUp id).dev.links = true ∧ ((portUp id).port 0).trained = false ∧ ((portUp id).port 35).trained = true) ∧
    ((portUp fun x => { x with lost := true }).port 35).lost = true ∧
    (((portUp id).port 35).unacked.findIdx? fun p => p.lseq == 4095) = some 1 ∧
    (fun x : Port => x.trained = true ∧ x.replayOf = some 4094 ∧ 7 ≤ x.replays) ((portUp fun x => { x with replayOf := some 4094, replays := 7 }).port 35) ∧
    (fun x : Port => x.trained = true ∧ x.replays < 7 ∧ (x.unacked.findIdx? fun p => p.lseq == 4094) = some 0)
      ((portUp fun x => { x with replayOf := some 4094, replays := 6 }).port 35) ∧
    (fun x : Port => x.trained = true ∧ x.rxSeq = 0xFFF ∧ x.rxReplayOf = some 0xFFF ∧ x.rxReplays < 7)
      ((portUp fun x => { x with rxSeq := 0xFFF, rxReplayOf := some 0xFFF, rxReplays := 6 }).port 35) ∧
    (fun x : Port => x.trained = true ∧ x.rxFlits.length = 3 ∧ x.rxFlits.sum ≠ 0) ((portUp fun x => { x with rxFlits := [0, 0, 1] }).port 35) ∧
    ((portUp id).port 35).txEpoch = 0xFFFF ∧
    (((0xFFFF : Half) - 0xFFFF).toNat = 0 ∧ ((0x7FFF : Half) - 0xFFFF).toNat = 2 ^ 15) ∧
    (((0 : Half) - 0xFFFF).toNat = 1 ∧ ((0x7FFE : Half) - 0xFFFF).toNat = 2 ^ 15 - 1) := by
  decide +kernel

/-- 64 bytes of FP32 that two members exchange by a permutation; this device is the first member. -/
def someColl (f : Coll → Coll) : Coll :=
  f { opId := 0, ctx := 0, core := 0, slot := 0, bid := ⟨0, 0⟩, gen := 9, opnum := 0,
      desc := { src := 0x10000, dst := 0x1FFC0, outtok := 4095, etype := 0, rop := 0, window := 1, chunk := 1, groupid := 0x0C0E, axes := [2, 1, 1, 1],
                shape := [16, 1, 1, 1], sshard := [0, 0, 0, 0], spart := 0, dshard := [0, 0, 0, 0], dpart := 0, rperm := 0x10100, group := 0 },
      srcLen := 64, dstLen := 64, devs := [5, 0x1FFF], perm := [1, 0], pos := 0, toks := [], phases := [⟨0, .permute⟩], phase := 0, data := [], parts := [],
      unsent := [], sent := [], got := [], fired := false, finished := false, stalled := none }

def collState (f : Coll → Coll) : State := (fabricState []).setColl 63 (someColl f)

/-- Whether a COLL's acceptance answers with a status. -/
def answers : CollRes → Bool
  | .status _ _ => true
  | _ => false

/-- COLL with every input token and none pending; the three answers of MFENCE; an operation ready to fire, one ready to write, one finished. -/
theorem wit_CollectivesAndFences :
    let g : FMap Word := [(254, 0x1FF80), (1, 9), (2, 11), (3, 10)]
    let s0 := fabricState g
    let th := thread .general g
    let fence : State := { s0 with fab := { s0.fab with fence := some ⟨10, some 3, false⟩ } }
    let ready := collState fun o => { o with fired := true, phase := 1, data := List.replicate 64 (0, false) }
    let done := collState fun o => { o with fired := true, finished := true, phase := 1 }
    let sent := collState fun o => { o with fired := true, sent := [⟨0x1FFF, 0, [], false⟩] }
    let chunk := packetOf fun p => { p with kind := kChunk, fcls := 2, groupid := 0x0C0E }
    let ack := packetOf fun p => { p with kind := kResponse, fcls := 2, groupid := 0x0C0E }
    let s1 (p : Packet) (s : State) : State := s.arriveAt 35 p
    let arrives (s : State) (p : Packet) : Prop := s.fab.loopback.contains p = false ∧ p.port.toNat < Config.nPorts ∧ s.tables.fabid ≠ 0xFFFF ∧
      p.sound = true ∧ p.dstdev = s.tables.fabid
    (∀ s ∈ [s0, fence], inTurn s th) ∧ th.role = .general ∧ s0.lacksFeature 7 = false ∧
    (fun x : CollArgs => flagIs s0 th x.h none = true ∧ regsOk th [sp1 x.d, sp2 x.a] = true ∧ (th.pair x.a.toNat).toNat % 64 = 0 ∧
      answers (s0.acceptColl 0 0 th s0.uid (th.pair x.a.toNat) [0, 4095]) = true) ⟨⟨0, none⟩, 255, 254, 0, 4095, 0xFFFF, 0xFFFF⟩ ∧
    fence.fab.fence.isSome = true ∧ s0.fab.fence = none ∧
    (∀ r ∈ [(1, (9 : Half)), (2, 11), (3, 10)], regsOk th [sp1 (BitVec.ofNat 8 r.1 : GReg)] = true ∧ (th.reg r.1).extractLsb' 0 16 = r.2) ∧
    (s0.tables.gen = 9 ∧ s0.tables.genPend = 10) ∧
    ((collState id).coll? 63 = some (someColl id) ∧ (someColl id).fired = false ∧ (someColl id).stalled = none ∧ (someColl id).toks = [] ∧ (collState id).runs 0 = true ∧
      (collState id).canFire (someColl id) = true ∧
      readsClean ((collState id).readFor (engineSkip 0) 0 0x10000 64) = true) ∧
    (((ready.pumpColl 63).coll? 63).map (fun o => o.ready && !o.finished && o.stalled.isNone &&
      resOk ((ready.pumpColl 63).writeFor (engineSkip o.opId) 0 o.desc.dst ((o.data.take o.dstLen).map Prod.fst) [] false)) = some true ∧
      (ready.pumpColl 63).runs 0 = true) ∧
    (arrives (collState id) chunk ∧ chunk.kind = kChunk ∧ ((collState id).ingressOf chunk.pkey).map Ingress.ctx = some 0 ∧
      (collState id).ingressOf 0x89 = none ∧ (chunk.gen = 9 ∧ (packetOf fun p => { p with kind := kChunk, gen := 8 }).gen ≠ (collState id).tables.gen)) ∧
    (((s1 chunk done).collOf 0 chunk).map (fun x => x.1 == 63 && x.2.finished &&
      (x.2.expects (idPhase chunk.chunk.toNat)).any (fun y => y.1 == chunk.srcdev && y.2.1 == chunk.chunk.toNat)) = some true) ∧
    (arrives sent ack ∧ ack.kind = kResponse ∧ ack.fcls = 2 ∧ ((s1 ack sent).collOf 0 ack).map Prod.fst = some 63) ∧
    (sent.coll? 63).bind (fun o => o.sent[0]?) = some ⟨0x1FFF, 0, [], false⟩ ∧ sent.runs 0 = true ∧ sent.egressOk 0 0x1FFF = true ∧
    (fence.fab.colls.all (fun e => e.2.finished) = true ∧ done.fab.colls.all (fun e => e.2.finished) = true ∧ s0.fab.colls = []) := by
  dsimp only [inTurn, Runs]
  and_intros <;> decide +kernel
/-- A descriptor in a line that a VST owns; a piece that makes a chunk whole, and the first of two that does not. -/
theorem wit_CollectivesAndFences_waits :
    let g : FMap Word := [(254, 0x1FF80)]
    let s := owning (fabricState g) 0x300FF80
    let chunk := packetOf fun p => { p with kind := kChunk, fcls := 2, groupid := 0x0C0E }
    let z := (collState fun o => { o with fired := true }).arriveAt 35 chunk
    let o := someColl fun o => { o with fired := true }
    let long := someColl fun o => { o with fired := true, desc := { o.desc with shape := [256, 1, 1, 1], chunk := 4 }, srcLen := 1024, dstLen := 1024 }
    let piece (n : Nat) : GotChunk := ⟨0x1FFF, 0, 0, pieceOf chunk n⟩
    (match s.acceptColl 0 0 (thread .general g) s.uid 0x1FF80 [0, 4095] with | .wait _ => true | _ => false) = true ∧
    ((collState id).port 35).rxReplayOf = none ∧ chunk.port.toNat = 35 ∧ (z.collOf 0 chunk).map Prod.fst = some 63 ∧ ((o.expects (idPhase 0)).find? fun x => x.1 == chunk.srcdev && x.2.1 == 0) = some (0x1FFF, 0, 64) ∧
    o.finished = false ∧ o.phase ≤ idPhase 0 ∧ o.got = [] ∧ (({ o with got := [piece 64] } : Coll).whole 0x1FFF 0 64).isSome = true ∧
    ((long.expects (idPhase 0)).map fun x => (x.2.1, x.2.2)) = [(0, 1024)] ∧ (({ long with got := [piece 512] } : Coll).whole 0x1FFF 0 1024) = none ∧
    z.rateHolds 0 (chunkCost ⟨0x1FFF, 0, [], false⟩) = false := by
  dsimp only
  and_intros <;> decide +kernel

/-- A collective whose first part has gone ahead, and one whose rest is in a page that is not mapped. -/
theorem wit_CollectivesAndFences_parts :
    let o := someColl fun o => { o with fired := true, phase := 1, data := List.replicate 64 (0, false), parts := [0] }
    o.parts ≠ [] ∧ resOk ((collState fun _ => o).collWrite o (o.data.take o.dstLen)) = true := by
  dsimp only
  and_intros <;> decide +kernel
/-! The system family, threads, walks and launches. -/

/-- A vector table at 0x2000 whose entries 0x0B and 0x0C go to 0x10000, and one with entry 0x0B poisoned. -/
def vectored (th : Thread) : State :=
  let s := withThread th
  ({ s with mem := [0x2058, 0x2060].foldl (fun m a => m.write a (leBytes 8 0x10000)) s.mem } : State).setCtx 0 { s.ctx 0 with tvb := 0x2000 }

theorem wit_SystemInstructions :
    let th := thread .general []
    let s := vectored th
    let sp : State := { s with mem := s.mem.mark (0x2058 / 8) }
    let hm : Thread := { th with hm := true, fcause := 0x001F0119 }
    inTurn s th ∧ inTurn (withThread th) th ∧ inTurn sp th ∧ inTurn (withThread hm) hm ∧ hm.hm = true ∧ th.hm = false ∧ th.status ≠ .exited ∧
    (∀ code ∈ [0x0B, 0x0C], s.vector th.ctx code = (0x10000, false)) ∧ (withThread th).vector th.ctx 0x0B = (0, false) ∧ (sp.vector th.ctx 0x0B).2 = true ∧
    (hm.fcause.getLsbD 10 = false ∧ hm.fcause.extractLsb' 8 2 ≠ 0) ∧
    (s.lacksFeature 4 = false ∧ (match s.ckTranslate th (th.ckSlot (th.ckCount.toNat + 1)) 0 ((128 + 4 * th.nregs) / 8) [] with | .ok _ => true | _ => false) = true) ∧
    (fun x : SrArgs => x.r ∈ [SysReg.thstat, .csp, .cslo, .cshi] ∧ regsOk th [(x.x.toNat, 2)] = true) ⟨0, .cshi, 254⟩ ∧
    (fun x : SrArgs => x.r ∉ [SysReg.thstat, .csp, .cslo, .cshi] ∧ regsOk hm [(x.x.toNat, 1)] = true) ⟨0, .finfo, 255⟩ ∧
    (fun x : SrArgs => x.r ∉ [SysReg.thstat, .csp, .cslo, .cshi] ∧ regsOk hm [(x.x.toNat, 2)] = true) ⟨0, .hscratch1, 254⟩ ∧
    (fun x : PerfrArgs => regsOk th [sp2 x.d] = true ∧ x.n.toNat ≤ 9) ⟨0, 254, 9⟩ ∧
    (fun x : AArgs => regsOk th [sp2 x.a] = true) ⟨0, 254⟩ := by
  dsimp only [inTurn, Runs]
  and_intros <;> decide +kernel

/-- Whether a clause cannot be fetched yet: a replayable miss, or a line that an engine owns. -/
def fetchHeld {α : Type} : Except FetchErr α → Bool × Bool
  | .error (.replay _ _) => (true, false)
  | .error (.held _) => (false, true)
  | _ => (false, false)

/-- A vector and a clause in lines that an engine owns, a clause that has a replayable miss, and clauses that can be read. -/
theorem wit_SystemInstructions_waits :
    let th := thread .general []
    let s := vectored th
    let miss : State := { s with mem := s.mem.write 0x120010 (leBytes 8 0x80) }
    let code := s.mem.write 0x2000000 (leBytes 8 0x0000000000000006)
    let one : State := { s with mem := code }
    s.vectorAddr th.ctx 0x0C = 0x2060 ∧ s.lineHeld noSkip 0x2060 8 = false ∧ (owning s 0x2040).lineHeld noSkip 0x2060 8 = true ∧
    fetchHeld (miss.resumeIndex 0 0 0x20000 0) = (true, false) ∧ fetchHeld ((owning s 0x2000000).resumeIndex 0 0 0 8) = (false, true) ∧
    fetchHeld (miss.countAt 0 0 0x20000) = (true, false) ∧ fetchHeld ((owning s 0x2000000).countAt 0 0 0) = (false, true) ∧
    (match s.resumeIndex 0 0 4 0 with | .ok none => true | _ => false) = true ∧ (match one.countAt 0 0 0 with | .ok _ => true | _ => false) = true := by
  dsimp only
  and_intros <;> decide +kernel

def dataAfter (r : List Byte × List Nat × State) : Bool := r.2.1.isEmpty

/-- Page 1 under a snapshot, its pool empty, and with one frame. -/
def snapped (frame : Nat) : State :=
  let s := base .general []
  let m := s.mem.write 0x120008 (leBytes 8 (0x31F + 0x300 * 65536))
  { s with mem := if frame = 0 then m else (m.write 0x804000 (leBytes 4 frame)).write 0x800000 (leBytes 8 1) }

/-- Late faults, pauses, a bound copy, receipts absent, held and full, walks that found their entry, and a diversion with and without a frame. -/
theorem wit_ThreadEvents :
    let th := thread .general []
    let late : LateFault := ⟨3, 0x11, glbAcc 0x1FFF8 3 0⟩
    let p : Tgt := .dev 0x300FFF8
    let cp := opOf 7 (.copy p (.buf .abuf 0) 16 .dev [] false) (glbAcc 0x1FFF0 4 0)
    let rd := opOf 7 (.redt p (.int .add .n64) 1 9 false none) (glbAcc 0x1FFF8 3 2)
    let s := withThread (holding rd)
    let mine : Receipt := { tag := 9, launch := s.launchNumber (holding rd).bid }
    let key := 64 * sliceOf 0x300FFF8 + 0
    let has (n : Nat) (r : Receipt) : State := { s with tables := { s.tables with receipts := [(key, List.replicate n r)] } }
    let act := opOf 8 (.act (.tbarv 0x3FFF0)) (glbAcc 0x3FFF0 4 1)
    let cth : Thread := { holding cp with ops := [cp, act] }
    let cs := withThread cth
    let bs : State := { cs with blocks := cs.blocks.map fun k => { k with binds := [⟨0x3FFF0, [(7, sectorOf (.buf .abuf 0))]⟩] } }
    let st : State := (streamState fun y => { y with stalled := some 0x10000 })
    let leaf : Leaf := { entry := 0x31F + 0x300 * 65536, big := false, addr := 0x120008 }
    (2047 < Config.nCores ∧ ((withThread th).core 2047).grant = [] ∧ ((withThread th).core 2047).powered = true) ∧
    (∀ x ∈ [{ th with late := [late], status := .ready }, { th with late := [late], status := .exited }, { th with status := .paused 0 true },
      { th with status := .paused 0 false }, { th with status := .parked (.xlate 0x10000 0) }], (withThread x).thread? 0 0 = some x ∧ x.halted = false) ∧
    ((withThread th).core 0).halt = false ∧
    0 ≤ ((withThread th).core 0).cycle ∧
    (bs.thread? 0 0 = some cth ∧ act.uid ≠ 7 ∧ bs.copyReady 0 0 cth cp = true ∧ cth.preck = [] ∧
      (bs.block? cth.bid).map (fun k => decide ((k.binds.filter fun x => x.copies.any fun e => e.1 == 7) = [⟨0x3FFF0, [(7, sectorOf (.buf .abuf 0))]⟩])) = some true) ∧
    (let parked : Thread := { th with status := .parked (.vector 0x0B 0 0 ⟨0x40, 0, 31, 3, true⟩) }
     (withThread parked).thread? 0 0 = some parked ∧ parked.late = []) ∧
    ((holding rd).ops.find? (fun y => y.uid == 7) = some rd ∧ s.eligible 0 0 (holding rd) rd = true ∧ (s.receiptsAt (sliceOf 0x300FFF8) 0).contains mine = false ∧
      (s.receiptsAt (sliceOf 0x300FFF8) 0).length < Config.receiptsPer ∧ dataAfter (s.readTgt 0 (holding rd).bid p 8 true) = true) ∧
    (∀ h ∈ [none, some 0, some 1], let o := opOf 7 (.redt p (.flt .add .f16) 0x3C003C00 9 false h) (glbAcc 0x1FFF8 2 2)
      let s := withThread (holding o)
      s.thread? 0 0 = some (holding o) ∧ s.eligible 0 0 (holding o) o = true ∧ twoWide (.flt .add .f16) = true ∧
        (s.receiptsAt (sliceOf 0x300FFF8) 0).length < Config.receiptsPer ∧ dataAfter (s.readTgt 0 (holding o).bid (p.add 0) 2 true) = true ∧
        dataAfter (s.readTgt 0 (holding o).bid (p.add 2) 2 true) = true) ∧
    ((has 1 mine).receiptsAt (sliceOf 0x300FFF8) 0).contains mine = true ∧
    (let s := has Config.receiptsPer { mine with tag := 8 }
     (s.receiptsAt (sliceOf 0x300FFF8) 0).contains mine = false ∧ Config.receiptsPer ≤ (s.receiptsAt (sliceOf 0x300FFF8) 0).length ∧ 7 ∉ s.tables.redtWait) ∧
    (withThread th).missing 0 0x10000 = false ∧ ((st.stream 0 15).stalled = some 0x10000 ∧ st.missing (st.stream 0 15).ctx 0x10000 = false) ∧
    (snapped 0).walk 0 0x10000 = .leaf leaf ∧ (snapped 5).walk 0 0x10000 = .leaf leaf ∧
    (leaf.page = true ∧ pteSnap leaf.entry = true ∧ pteDiv leaf.entry = 0 ∧ (∀ z ∈ [snapped 0, snapped 5], z.walkHeld 0 0x10000 = false ∧ z.agentHeld true leaf.addr 8 = false ∧ z.agentHeld true poolPa 64 = false ∧
        z.agentHeld false (poolPa + 0x4000) 0x4000 = false ∧ z.agentHeld false (pteFrame leaf.entry * 65536) 65536 = false ∧
        z.agentHeld true (5 * 65536) 65536 = false) ∧ (snapped 5).fab.reorder = [] ∧
      (snapped 5).fab.plan = none) ∧
    (∀ asked ∈ [true, false], let d : Divert := { ctx := 0, page := 1, kind := 0, lantern := 1, asked := asked }
      ([d].find? fun d => d.ctx == 0 && d.page == (0x10000 : Dword).toNat / 65536) = some d) ∧
    (snapped 0).poolTake ((snapped 0).pool 0 8) 4097 ((snapped 0).pool 8 8) = none ∧
    (snapped 5).poolTake ((snapped 5).pool 0 8) 4097 ((snapped 5).pool 8 8) = some (5, 1) := by
  dsimp only
  and_intros <;> decide +kernel

/-- A translation that this device replays: an entry that is absent with RPL set. -/
def replaying : State :=
  let s := streamState fun y => { y with stalled := some 0x20000 }
  { s with mem := s.mem.write 0x120010 (leBytes 8 0x80) }

/-- The queue, the collective and the thread that wait for a walk. -/
theorem wit_ThreadEvents_walks :
    let th : Thread := { thread .general [] with status := .parked (.xlate 0x20000 0) }
    let s := replaying.setThread 0 0 th
    let q : State := { s with lqs := [(31, { LQ.reset with missed := some (0, 0x10000) })] }
    let o := collState fun o => { o with stalled := some 0x10000 }
    s.thread? 0 0 = some th ∧ s.missing 0 0x20000 = true ∧ s.walkHeld 0 0x20000 = false ∧ (owning s 0x120000).walkHeld 0 0x20000 = true ∧
    (owning s 0x120000).thread? 0 0 = some th ∧ (q.lq 31).missed = some (0, 0x10000) ∧ q.missing 0 0x10000 = false ∧
    (o.coll? 63).map Coll.stalled = some (some 0x10000) ∧ o.missing 0 0x10000 = false := by
  dsimp only
  and_intros <;> decide +kernel

/-- A launch of three blocks, its last block next, two retired or all. -/
def someLaunch (f : Launch → Launch) : Launch := f { probeLaunch .general with uid := 1, gx := 3, next := 2, first := 4, count := 2, cursor := 5 }

theorem wit_LaunchEvents :
    let s0 := State.reset
    let l := someLaunch id
    let tw := someLaunch fun l => { l with desc := { l.desc with twin := true } }
    let s : State := { s0 with launches := [l] }
    let full := someLaunch fun l => { l with retired := [0, 1, 2], ticket := 3 }
    let part := someLaunch fun l => { l with retired := [0, 2], ticket := 2 }
    let b := base .general []
    (s.launches = [l] ∧ s.unplaced = [] ∧ l.prio < 4 ∧ l.again = [] ∧ l.next + 1 = l.gx * l.gy * l.gz ∧ s.mayDispatch l = true ∧ s.findCore l none = some 5) ∧
    (l.first ≤ l.cursor ∧ l.cursor < l.first + l.count) ∧
    s.findCore tw none = some 4 ∧
    15 < l.desc.crews * l.desc.width ∧
    (let th := { thread .general [] with status := .exited }
     let x : State := b.setThread 0 0 th
     (x.block? ⟨0, 0⟩).map (fun k => x.mayRetire { k with threads := [(0, 0)] }) = some true) ∧
    (({ s0 with launches := [full] } : State).launch? 1 = some full ∧ full.retired.length = full.gx * full.gy * full.gz ∧ full.ticket = full.gx * full.gy * full.gz) ∧
    (let x : State := (({ s0 with launches := [part] } : State)).setCtx 0 { s0.ctx 0 with det := true }
     (let at_ (k : Nat) (n : Nat) := someLaunch fun l => { l with retired := [0, 2], ticket := 2, logs := [(2, [(0x1FFE0, n)])], applied := n - k }
      let rec_ (k : Nat) : LogRec := { va := 0x10000, kind := k, op := (AtomOp.int .add .n64).op, ty := (AtomOp.int .add .n64).ty, v := 1, lo := 0, hi := 9 }
      let z (k : Nat) : State := { b with mem := b.mem.write 0x300FFE0 (rec_ k).bytes }
      logPlace (FMap.getD (at_ 1 1).logs (at_ 1 1).ticket []) (at_ 1 1).applied = some 0x1FFE0 ∧ readsClean ((z 0).agentRead 0 0x1FFE0 32) = true ∧
        (∀ k ∈ [0, 2], (logRecOf ((z k).mem.readBytes 0x300FFE0 32)).kind = k) ∧ twoWide (AtomOp.ofCodes (rec_ 0).op (rec_ 0).ty) = false ∧
        (match (z 0).agentRmw 0 0x10000 8 (fun m => m) false with | .ok (some _) => true | _ => false) = true) ∧
     x.launch? 1 = some part ∧ (x.ctx part.ctx).det = true ∧ part.ticket < part.gx * part.gy * part.gz ∧ part.retired.contains part.ticket = true ∧
     logPlace (FMap.getD part.logs part.ticket []) part.applied = none) := by
  dsimp only
  and_intros <;> decide +kernel


/-- A clause of one NOP at address 0, for which the threads of core 0 are ready. -/
def gangReady (threads : FMap Thread) : State :=
  let s := base .general []
  let m := (s.mem.write 0x2000000 (leBytes 8 0x7FC000)).write 0x2000008 (leBytes 8 0x1)
  let s1 : State := { s with mem := m }
  s1.setCore 0 { s1.core 0 with threads := threads, gangs := [], grant := [] }

def readyThread : Thread := { thread .general [] with status := .ready, crun := none, pc := 0, res := none, gap := false }

def clauseReads (s : State) : Bool := match s.clauseAt 0 0 0 with | .ok _ cl _ => cl.starts == [8] | _ => false

/-- A lone ready thread, and two in different home lanes, of which the second is due. -/
theorem wit_ThreadEvents_gangs :
    let th := readyThread
    let s := gangReady [(0, th)]
    let two := gangReady [(0, th), (63, { th with tid := 1, w := 131071 })]
    ((s.core 0).threads.map Prod.fst = [0] ∧ (s.core 0).threads.map (fun e => e.2 == th) = [true] ∧ (s.core 0).halt = false ∧ (s.core 0).gangs = [] ∧
      0 ∉ (s.core 0).woken ∧ (s.core 0).grant = [] ∧ (s.core 0).powered = true) ∧
    (th.status = .ready ∧ th.halted = false ∧ th.late = [] ∧ th.preck = [] ∧ th.ops = [] ∧ th.crun = none ∧ th.res = none ∧ th.gap = false ∧
      (∀ i < 12, th.flagCount i = 0)) ∧ clauseReads s = true ∧ clauseReads two = true ∧ (entriesOf [8] 0 [] = (0, 0)) ∧
    (((two.readyThreads 0).filter fun e => !(two.core 0).woken.contains e.1).map fun e => (e.1, e.2.lane, e.2.due)) = [(0, 0, false), (63, 1, true)] := by
  dsimp only
  and_intros <;> decide +kernel
/-! Lantern. -/

/-- Queue 31 in turn, in the context of `base`, as `f` leaves it, with the bytes `m` written. -/
def queueState (f : LQ → LQ) (m : List (Nat × List Byte)) : State :=
  let s := fabricState []
  { s with lqs := [(31, f { LQ.reset with en := true, cfg := 0x4008 })], cur := .queue 31, mem := m.foldl (fun x e => x.write e.1 e.2) s.mem,
           dev := { s.dev with stage := 5, featLock := true, accept := 0xFFFF } }

/-- A launch descriptor of one crew of 16 threads with 16 registers and 64 KiB of private window, at the last 128 bytes of page 1. -/
def descAt : List (Nat × List Byte) :=
  [(0x300FF80 + 0x18, leBytes 8 (2 + 256 * 1 + 1024 * 1)), (0x300FF80 + 0x28, leBytes 8 (65536 * 1 + 1))]

theorem wit_QueuesAndLaunchRecords :
    let s := queueState id (descAt ++ [(0x300FF70, leBytes 4 65535 ++ leBytes 4 1 ++ leBytes 4 1)])
    let read : State := { s with lqs := [(31, { LQ.reset with en := true, cfg := 0x4008, desc := some (s.mem.readBytes 0x300FF80 128) })] }
    s.cur = .queue 31 ∧ (s.lq 31).waiting = .none ∧ (s.lq 31).desc = none ∧ (read.lq 31).desc = some (s.mem.readBytes 0x300FF80 128) ∧
    read.cur = .queue 31 ∧ (31 < Config.nQueues ∧ s.dev.stage ≠ 0 ∧ State.reset.dev.stage = 0 ∧ s.agentHeld true (65536 * 31) 64 = false ∧
      (owning s (65536 * 31)).agentHeld true (65536 * 31) 64 = true) ∧ (s.ctx 0).valid = true ∧ (s.ctx 0).killing = false ∧ readsClean (s.agentRead 0 0x1FF80 128) = true ∧
    (let bs := s.mem.readBytes 0x300FF80 128
     let d := descOf bs
     descZeros bs = true ∧ d.ok 2047 1 (s.ctx 0).policy = true ∧ s.descGated d = false ∧ s.dev.featLock = true ∧ (s.ctx 0).det = false ∧ d.holdable = true) ∧
    readsClean (s.agentRead 0 0x1FF70 12) = true ∧
    ((s.launches.filter Launch.queued).length < Config.launchEntries ∧
      Config.launchEntries ≤ ((List.replicate Config.launchEntries (someLaunch id)).filter Launch.queued).length) := by
  dsimp only
  and_intros <;> decide +kernel

def memCond (v : Dword) : MemCond := ⟨.eq, true, 0x1FFFC, v, 0xFFFFFFFF⟩

def isOk : Region → Bool
  | .ok _ => true
  | _ => false

/-- Loops of one and of two rounds left, the eighth level, an address list, waits with their conditions true and false. -/
theorem wit_LanternFlowRecords :
    let q (f : LQ → LQ) : State := queueState f []
    let lv (n : Nat) : List LLevel := List.replicate n (.loop (.ring 32) 2)
    (∀ n ∈ [0, 7], ((q fun x => { x with stack := lv n }).lq 31).stack.length < 8) ∧
    ((q fun x => { x with stack := [.loop (.ring 32) 1] }).lq 31).stack = [.loop (.ring 32) 1] ∧
    ((q fun x => { x with stack := [.call (.ring 32)] }).lq 31).stack = [.call (.ring 32)] ∧
    (let s := q id
     readsClean (s.agentRead 0 0x1FFFC 4) = true ∧ wordCond .eq 32 0 (memCond 0).value.toNat = true ∧ wordCond .eq 32 0 (memCond 1).value.toNat = false ∧
     readsClean ((s.setLq 31 { s.lq 31 with waiting := .mem 1 }).agentRead 0 0x1FFFC 4) = true) ∧
    (let s := queueState (fun x => { x with pos := .ring 0 }) [(65536 * 31 + 0x10, leBytes 8 64), (65536 * 31, leBytes 8 0x10000)]
     s.written 31 (s.lq 31).pos.next = true ∧ readsClean (s.agentRead 0 (s.recAddr 31 (s.lq 31) (s.lq 31).pos.next) 32) = true ∧ (0 : Byte) ∉ [(3 : Byte), 4, 7]) ∧
    (let s := q fun x => { x with waiting := .mem 1 }
     (s.lq 31).waiting = .mem 1 ∧ (s.lq 31).en = true ∧ s.fcode 31 = 0 ∧ s.agentHeld true (65536 * 31) 64 = false) ∧
    (let s : State := { q id with launches := [someLaunch fun l => { l with queue := 31 }] }
     (s.launches.filter fun l => l.queue == 31).length = 1) ∧
    (let s := q id
     s.inFlight 31 = 0 ∧ resOk (s.agentWrite 0 0x1FFF8 (leBytes 8 7) [] true) = true ∧
     (match s.agentAdd 0 0x1FFF8 8 7 true with | .ok (some _) => true | _ => false) = true) ∧
    (let s : State := { q id with mem := (q id).mem.mark (0x300FFF8 / 8) }
     (match s.agentAdd 0 0x1FFF8 8 7 true with | .ok none => true | _ => false) = true) := by
  dsimp only
  and_intros <;> decide +kernel

/-- A queue that may run system records, its fence pending and done, a view made and freed, and a context at each point of its pre-emption. -/
theorem wit_LanternRecords :
    let q (f : LQ → LQ) : State := queueState f []
    let s := q fun x => { x with cfg := 0xFFFFFFFFFFFFFFFF }
    let view : View := { base := 0x10000, len := 65536, ctx := 0, valid := true, diverted := 0 }
    let c (f : Ctx → Ctx) : State := s.setCtx 63 (f (s.ctx 63))
    let area : SaveArea := ⟨63, [], []⟩
    let saved : State := { (c fun x => { x with pre := .saved 0x400000 }) with saves := [(0x400000, area)] }
    (s.lq 31).sys = true ∧ s.lacksFeature 7 = false ∧ s.lacksFeature 8 = false ∧ (s.lq 31).waiting = .none ∧ s.tables.genPend = 10 ∧
    ((q fun x => { x with waiting := .fence 10 }).lq 31).waiting = .fence 10 ∧ s.fab.fence = none ∧
    (s.inFlight 31 = 0 ∧ (FMap.getD s.tables.views 63 View.reset).valid = false ∧ isOk (s.region 0 0x10000 1) = true ∧
      s.regionHeld 0 0x10000 1 = false ∧
      s.entryHeld 0x120008 = false ∧ s.frameWriting 0x300 = false) ∧
    (let r := ({ snapped 0 with tables := { (snapped 0).tables with views := [(63, view)] } } : State)
     (FMap.getD r.tables.views 63 View.reset).valid = true ∧ (r.releasePages 0 0x10000 1).2 = true) ∧
    ((c fun x => { x with pre := .none }).busy 63 = false ∧ ((c id).ctx 63).killing = false) ∧
    (let b : State := { c id with launches := [someLaunch fun l => { l with ctx := 63 }] }
     (b.ctx 63).pre = .none ∧ b.busy 63 = true ∧ b.preempting 31 63 = false ∧
       (b.setLq 30 { LQ.reset with en := true, waiting := .preempt 63 }).preempting 31 63 = true ∧ (0x400000 : Dword).toNat + 65536 ≤ Config.hbmBytes ∧ (0x400000 : Dword) ≠ 0) ∧
    ((q fun x => { x with waiting := .preempt 63 }).lq 31).waiting = .preempt 63 ∧ (saved.ctx 63).pre.isHalting = false ∧
    (saved.ctx 63).pre = .saved 0x400000 ∧ FMap.find? saved.saves 0x400000 = some area ∧ area.ctx = 63 ∧
    saved.agentHeld false 0x400000 area.bytes.length = false := by
  dsimp only
  and_intros <;> decide +kernel

theorem firstBad_of_clean (m : Store) (a n : Nat) (h : m.poison = []) : m.firstBad a n = none := by
  simp [Store.firstBad, Store.bad, h]

theorem poison_write_of_clean (m : Store) (a : Nat) (bs : List Byte) (h : m.poison = []) : (m.write a bs).poison = [] := by
  have put (l : List Byte) : ∀ (m : Store) (a : Nat), m.poison = [] → (m.putBytes a l).poison = [] := by
    induction l with
    | nil => exact fun _ _ h => h
    | cons b l ih => exact fun m a h => ih _ _ h
  have un (l : List Nat) : ∀ m : Store, m.poison = [] → (l.foldl Store.unmark m).poison = [] := by
    induction l with
    | nil => exact fun _ h => h
    | cons w l ih => exact fun m h => ih _ (by simp [Store.unmark, h])
  exact un _ _ (put _ _ _ h)

/-- The record that a save leaves is in memory where RESUME reads it. -/
theorem wit_LanternRecords_saved :
    let m := (queueState id []).mem.write 0x400000 (SaveArea.bytes ⟨63, [], []⟩)
    m.firstBad 0x400000 (SaveArea.bytes ⟨63, [], []⟩).length = none ∧
      m.readBytes 0x400000 (SaveArea.bytes ⟨63, [], []⟩).length = SaveArea.bytes ⟨63, [], []⟩ :=
  ⟨firstBad_of_clean _ _ _ (poison_write_of_clean _ _ _ (by decide +kernel)), Store.readBytes_write _ _ _⟩
/-! Contexts, peers, stripes, the device and its gate. -/

/-- Context 63 as `f` leaves it: no thread of it is in a gang. -/
def ctxState (f : Ctx → Ctx) : State :=
  let s := fabricState []
  s.setCtx 63 (f (s.ctx 63))

theorem wit_ContextOperations :
    (∀ p ∈ [true, false], let s := ctxState fun x => { x with pre := .halting 31 0x400000, policy := p }
      (s.ctx 63).pre = .halting 31 0x400000 ∧ (s.ctx 63).killing = false ∧ s.quiet 63 = true ∧ (s.ctx 63).policy = p ∧ s.threadsOf 63 = []) ∧
    ((fabricState []).agentHeld true 0x400000 (SaveArea.size ⟨63, [], []⟩) = false ∧
      (owning (fabricState []) 0x400000).agentHeld true 0x400000 (SaveArea.size ⟨63, [], []⟩) = true) ∧
    (let s := (fabricState []).setLq 31 { LQ.reset with waiting := .room (someLaunch fun l => { l with ctx := 63 }) }
     (s.lq 31).waiting = .room (someLaunch fun l => { l with ctx := 63 })) ∧
    ((fabricState []).threadsOf 0 ≠ [] ∧ ∀ th ∈ (fabricState []).threadsOf 0, th.savable = true ∧ th.discardable = true) ∧
    ((ctxState fun x => { x with killing := true }).ctx 63).killing = true ∧ (ctxState fun x => { x with killing := true }).quiet 63 = true ∧
    (ctxState id).busy 63 = false ∧ (ctxState fun x => { x with killing := true }).busy 63 = true ∧ (0x800000000000 : Dword).getLsbD 47 = true := by
  and_intros <;> decide +kernel

def someBelfry : BelfryCfg := ⟨[0x1FFF, 0xFFFF], 1, 1, 0xFFFF, 0, 8, 0⟩

def somePlan : Plan := { pa := 0x400000, count := 2, ctx := 0, running := [], tried := [], ready := true, waiting := [] }

/-- The last record of a plan, of no bytes: its landing address page 1, its holder device 0x1FFF. -/
def planState (f : Plan → Plan) : State :=
  let s := fabricState []
  ({ s with mem := (s.mem.write 0x400080 (leBytes 8 0x10000)).write 0x400088 (leBytes 8 0xFFFFFFFFFFFF1FFF),
            tables := { s.tables with belfry := some someBelfry, views := [(63, { base := 0x10000, len := 65536, ctx := 0, valid := true, diverted := 0 })] } } : State).setPlan
    (f somePlan)

theorem wit_HeartbeatsAndStripes :
    let s := planState id
    let run := { somePlan with running := [⟨1, 0x1FFF, 0⟩] }
    let x : StripeArgs := ⟨1, 0x1FFF, 0, [], [], sha3 [], []⟩
    let beat := packetOf fun p => { p with kind := kHeartbeat }
    (beat.srcdev = 0x1FFF ∧ beat.srcdev ≠ 0xFFFF ∧ beat.kind = kHeartbeat ∧ beat.sound = true ∧ beat.dstdev = s.tables.fabid ∧
      (s.port beat.port.toNat).rxReplayOf = none ∧ x.packets.all Packet.sound = true) ∧
    let p := packetOf fun p => { p with kind := kStripe, fcls := 3, opcode := BitVec.ofNat 32 oStripe, opc := 63 }
    s.tables.belfry = some someBelfry ∧ 0x1FFF ∈ belfryPeers someBelfry ∧ belfryPeers { someBelfry with peers := [0xFFFF] } = [] ∧ s.fab.suspected = [] ∧
    s.fab.plan = some somePlan ∧ s.planHeld somePlan = false ∧ (planState fun _ => run).planHeld run = false ∧
    (s.stripe somePlan 1).map (fun r => r.ok && r.state == 0 && r.devs == [0x1FFF] && r.len == 0 && r.dst == 0x10000) = some true ∧
    (1 < somePlan.count ∧ somePlan.running = [] ∧ somePlan.waiting = []) ∧
    (somePlan.source 1 [0x1FFF] = some 0x1FFF ∧ ({ somePlan with tried := [(1, [0x1FFF])] } : Plan).source 1 [0x1FFF] = none ∧
      s.rateHolds 0 64 = false ∧ s.egressOk 0 0x1FFF = true) ∧
    ((planState fun _ => run).fab.plan = some run ∧ run.running.map (fun y => (y.i, y.dev)) = [(x.i, x.dev)] ∧ s.fab.loopback = [] ∧ run.waiting = []) ∧
    (x.status.toNat = stOk ∧ x.bytes.length = 0) ∧ resOk (((planState fun _ => run).setPlan { run with running := [] }).agentWrite 0 0x10000 [] [] false) = true ∧
    (p.port.toNat < Config.nPorts ∧ (s.port p.port.toNat).rxReplayOf = none ∧ p.sound = true ∧ s.mayTalk kStripe = true ∧ p.kind = kStripe ∧ p.oper = oStripe ∧ p.dstdev = s.tables.fabid) ∧
    (match s.serveStripe p with | .send _ bs _ _ => bs.length % stripePiece == 0 | _ => false) = true ∧
    (match (fabricState []).serveStripe p with | .refuse _ => true | _ => false) = true := by
  dsimp only
  and_intros <;> decide +kernel

/-- After LOCK, a peer that is suspected, and a request that no engine holds back. -/
theorem wit_HeartbeatsAndStripes_locked :
    let s : State := { planState id with dev := { (planState id).dev with featLock := true }, fab := { (planState id).fab with suspected := [0x1FFF] } }
    let p : Packet := { Packet.blank with fcls := 3, opc := 63, opb := 65536 }
    s.dev.featLock = true ∧ s.tables.belfry = some someBelfry ∧ (0x1FFF : Half) ∈ someBelfry.peers ∧ (0x1FFF : Half) ≠ 0xFFFF ∧
      (0x1FFF : Half).toNat ∈ s.fab.suspected ∧ p.fcls = 3 ∧ s.stripeHeld p = false := by
  decide +kernel

/-- The digest of the stripe of no bytes, which a packet would carry. -/
theorem wit_HeartbeatsAndStripes_digest : sha3 (StripeArgs.mk 1 0x1FFF 0 [] [] (sha3 []) []).bytes = (StripeArgs.mk 1 0x1FFF 0 [] [] (sha3 []) []).digest := by
  dsimp only

/-- A device at stage `n`, its tables as `f` leaves them. -/
def devState (n : Nat) (f : Dev → Dev) : State :=
  let s := fabricState []
  { s with dev := f { s.dev with stage := n } }

theorem wit_DeviceRegisters :
    ((devState 4 id).dev.stage = 4 ∧ (devState 4 id).dev.featLock = false ∧ (1 : Dword).getLsbD 0 = true) ∧
    ((devState 5 fun d => { d with clkLock := true }).dev.clkLock = true ∧ (devState 5 id).dev.clkLock = false) ∧
    (let s := (devState 5 fun d => { d with clkLock := true }).setCtx 63 { (devState 5 id).ctx 63 with det := true, valid := true }
     s.anyDet = true ∧ s.dev.clkLock = true ∧ s.dev.coreMax = 24 ∧ (8 : Nat) ≠ s.dev.coreMax) ∧
    (2047 < Config.nCores ∧ ((devState 5 id).core 2047).powered = true) ∧ (devState 5 id).busy 63 = false := by
  and_intros <;> decide +kernel

theorem wit_ErrorsAndPower :
    let s := devState 5 id
    (824633720831 < Config.hbmBytes ∧ (s.blockOn 0 0).isSome = true) ∧
    (s.blockOn 0 0).map (fun b => b.holdsByte 0 .loc 0x3FFFF && !b.holdsByte 0 .loc 0x40000) = some true ∧
    (let l2 : State := { s with l2 := [(824633720831 / 64, { filled := true, mask := 0, hbm := [], bad := [] })] }
     (FMap.find? l2.l2 (824633720831 / 64)).map Sector.filled = some true ∧ FMap.find? s.l2 (824633720831 / 64) = none) ∧
    (FMap.find? ({ s.core 0 with l1 := [(4, { bytes := [], poison := [] })] } : Core).l1 (0x13F / 64)).isSome = true ∧
    (s.dev.clkLock = false ∧ (devState 5 fun d => { d with clkLock := true }).dev.clkLock = true ∧ s.dev.pwrLimit.toNat < (0xFFFF : Half).toNat) ∧
    ((State.reset.setCore 2047 { Core.reset with en := false }).core 2047).en = false ∧ s.dev.tripped = false ∧
    ((devState 15 id).firmware = false ∧ (devState 0 id).firmware = false ∧ 2 ≤ s.dev.stage ∧ s.dev.stage ≠ 15) ∧
    (∀ b ∈ [(4 : Nat), 3, 1], s.dev.errStat.getLsbD b = false) := by
  dsimp only
  and_intros <;> decide +kernel

/-- Every core of die 7 may be disabled. -/
theorem wit_ErrorsAndPower_disabled :
    let s := (List.range 256).foldl (fun s i => s.setCore (1792 + i) { Core.reset with en := false }) State.reset
    ∀ i, i < 256 → (s.core (1792 + i)).en = false := by
  decide +kernel

theorem wit_ResetsAndHost :
    let s (n : Nat) := devState n id
    (11 < 12 ∧ (0x1B : Half).toNat = 0x10 + 11) ∧ ([0xA5] : List Byte) ≠ [] ∧
    (s 0).dev.stage = 0 ∧ (s 5).dev.stage ≠ 0 ∧ (s 1).dev.stage = 1 ∧ (s 2).dev.stage = 2 ∧ (s 3).dev.stage = 3 ∧ (s 3).dev.links = false ∧
    ((devState 3 fun d => { d with links := true }).dev.links = true) ∧ (∀ i ∈ [4, 15], 4 ≤ i ∧ i ≤ 15) ∧
    (({ s 2 with tables := { (s 2).tables with identity := true } } : State).tables.identity = true ∧ (List.replicate 32 (0 : Byte)).length = 32) ∧
    (let z := s 5
     z.agentHeld true 824633720824 8 = false ∧ 824633720824 + 8 ≤ Config.hbmBytes ∧ 128 * 65536 ≤ 824633720824 ∧
     z.agentHeld true (128 * 65536) 8 = false ∧ atomOpWf true (.flt .add .f64) = true ∧ 824633720824 % ((AtomOp.flt .add .f64).n / 8) = 0 ∧
     z.mem.firstBad 824633720824 8 = none ∧ 0x810000 ≤ 824633720824 ∧ z.agentHeld true 0x810000 8 = false) ∧
    (let z : State := { s 5 with hostHalves := [⟨0x810000, .flt .add .bf16, 0x3F803F80, 1⟩] }
     atomOpWf true (.flt .add .bf16) = true ∧ twoWide (.flt .add .bf16) = true ∧ twoWide (.flt .add .f64) = false ∧ z.agentHeld true 0x810000 4 = false ∧
       z.mem.firstBad 0x810000 4 = none ∧ z.hostHalves[0]? = some ⟨0x810000, .flt .add .bf16, 0x3F803F80, 1⟩ ∧ z.agentHeld true (0x810000 + 2 * 1) 2 = false ∧
       z.mem.firstBad (0x810000 + 2 * 1) 2 = none) := by
  dsimp only
  and_intros <;> decide +kernel

/-- A message whose SEQ is that of the last one; a fence in progress and none; a plan at the last line of device memory. -/
theorem wit_GateMessages :
    let h : GateHdr := ⟨leBytes 8 1 ++ leBytes 8 7 ++ List.replicate 48 0, []⟩
    let s := devState 5 id
    gateField h 8 8 = 7 ∧ ({ s with tables := { s.tables with gateSeq := some 7 } } : State).tables.gateSeq = some 7 ∧
    ({ s with fab := { s.fab with fence := some ⟨10, none, false⟩ } } : State).fab.fence.isSome = true ∧ s.fab.fence = none ∧ s.tables.held = [] ∧
    (devState 0 id).dev.stage = 0 ∧ s.dev.stage ≠ 0 ∧ s.agentHeld false 824633720768 8 = false ∧
    (owning s 824633720576).agentHeld false 824633720768 8 = true ∧
    (s.lacksFeature 9 = false ∧ (824633720768 : Dword).toNat % 64 = 0 ∧ (824633720768 : Dword).toNat < Config.hbmBytes ∧ s.mem.firstBad 824633720768 8 = none) := by
  dsimp only
  and_intros <;> decide +kernel
/-! Encodings, the step, its invariants, faults and frames. -/

def okInstr {ε : Type} : Except ε Instr → Option Instr
  | .ok i => some i
  | .error _ => none

theorem wit_DecodeAfterEncode :
    (∀ i ∈ [Instr.nop ⟨7, true⟩, .iadd ⟨15, .i64, false, 254, 254, .imm32 0xFFFFFFFF⟩, .st ⟨⟨0, some true⟩, true, .sys, .glb, .n8, 254, .o32 0xFFFFFFFF, 255⟩],
      i.wf = true ∧ (encRaw i).isSome = true) := by
  decide +kernel

/-- A command and a record that are well-formed and have words, and words that decode. -/
theorem wit_CommandsDecodeAfterEncode :
    (∀ i ∈ [Instr.ladleLoop 0xFFFFFFFF, .ladleSrc someSrc], i.wf = true ∧ encodeLadle i ≠ []) ∧
    (∀ i ∈ [Instr.lanternLoop 0xFFFFFFFF, .waitmem ⟨memCond 1, 0xFFFFFFFF⟩], i.wf = true ∧ (encodeLantern i).isSome = true) ∧
    okInstr (decodeLadle (encodeLadle (.ladleLoop 0xFFFFFFFF))) = some (.ladleLoop 0xFFFFFFFF) ∧
    ((encodeLantern (.lanternLoop 0xFFFFFFFF)).bind fun r => okInstr (decodeLantern r)) = some (.lanternLoop 0xFFFFFFFF) ∧
    okInstr (decode [0x00000001, 0x00000000]) = some (.nop ⟨0, false⟩) := by
  decide +kernel

/-- A gang about to issue a word that decodes and one that does not; a stream, a queue and an event in turn. -/
theorem wit_StepRunsDecoded :
    let s (w : Nat) : State := { State.reset.withFetchWord 64 w with schedule := [.issue 0 0, .event .dispatch] }
    let g (w : Nat) := ({ s w with schedule := [] } : State).granted 0 0
    let ls0 := streamState id
    let ls : State := { ls0 with mem := ls0.mem.write 0x300FFF0 (leBytes 8 0x0000000500000006) }
    let qs := queueState id [(65536 * 31 + 0x10, leBytes 8 32), (65536 * 31, leBytes 8 0x10000), (0x3000000, leBytes 8 0x01)]
    ((s 1).dev.dead = false ∧ (g 1).map (fun g => decide (g.todo ≠ [])) = some true ∧ ((g 1).bind fun g => okInstr (decode g.rest)) = some (.nop ⟨0, false⟩)) ∧
    ((g 0x3C1).isSome = true ∧ ((g 0x3C1).bind fun g => okInstr (decode g.rest)) = none) ∧
    (((ls.stream 0 15).live = true ∧ (ls.stream 0 15).stalled = none ∧ (ls.stream 0 15).emit = none ∧ (ls.stream 0 15).waitm = none ∧ (ls.stream 0 15).halted = false ∧ ls.streamClear (ls.stream 0 15) = true) ∧
      readsClean (ls.agentRead 0 0x1FFF0 16) = true ∧ ladleLen 0x0000000500000006 = 1 ∧
      okInstr (decodeLadle (ladleWords (ls.mem.readBytes 0x300FFF0 16) 1)) = some (.ladleLoop 5)) ∧
    (match qs.queueFetch 31 with | .run _ _ => true | _ => false) = true ∧
    (match exec .thermWarn { State.reset with cur := .none } with | .next _ => true | _ => false) = true := by
  dsimp only
  and_intros <;> decide +kernel

/-- The step's answer is a next state. -/
def steps (s : State) : Bool :=
  match step s with
  | .next _ => true
  | _ => false

theorem wit_MemoriesKeepTheirForm : memoriesWf (State.reset.withFetchWord 64 1) ∧ steps (State.reset.withFetchWord 64 1) = true := by
  unfold memoriesWf; decide +kernel

theorem wit_RegistersStayLegal_runs : steps (State.reset.withFetchWord 64 1) = true := by decide +kernel

theorem wit_RegistersStayLegal : registersLegal State.reset := by
  refine ⟨by decide, by decide, by decide, by decide, by decide, by decide, by decide, by decide, by decide, by decide, by decide⟩

/-- The last fault code that has a vector; an instruction of index 31; a thread in its handler, exited, or without a vector. -/
theorem wit_FaultEntry :
    let th := thread .general []
    let s := vectored th
    let at_ : Site := ⟨0x40, 0, 31, 3, true⟩
    s.thread? 0 0 = some th ∧ at_.index < 32 ∧ 0x0B < 256 ∧ th.hm = false ∧ s.mem.firstBad (0x2000 + 8 * 0x0B) 8 = none ∧
    (BitVec.ofNat 64 (leNat (s.mem.readBytes (((s.ctx th.ctx).tvb.extractLsb' 12 40).toNat * 4096 + 8 * 0x0B) 8)) : Dword) = 0x10000 ∧
    s.lineHeld noSkip (0x2000 + 8 * 0x0B) 8 = false ∧ (owning s 0x2000).lineHeld noSkip (0x2000 + 8 * 0x0B) 8 = true ∧
    leNat (s.mem.readBytes 0x2000 8) = 0 ∧ (withThread { th with hm := true }).thread? 0 0 = some { th with hm := true } ∧
    (withThread { th with status := .exited }).thread? 0 0 = some { th with status := .exited } := by
  dsimp only
  and_intros <;> decide +kernel

/-- The exact form of `walk`'s answer that a trap needs. -/
def leafIs (w : Walk) (f : Leaf → Bool) : Bool :=
  match w with
  | .leaf l => f l
  | _ => false

theorem wit_InstructionTraps :
    let th := thread .general [(8, 0x10000), (10, 0x20000), (254, 0xFFFFFFF8), (6, 0x40000), (4, 0x2001)]
    let small : Thread := { th with nregs := 16 }
    let mx : Thread := { th with role := .matrix }
    let hm : Thread := { th with hm := true, fcause := 0x400 }
    let s := withThread th
    let bad : State := { s with mem := s.mem.mark (0x120008 / 8) }
    inTurn s th ∧ inTurn (withThread small) small ∧ inTurn (withThread hm) hm ∧ inTurn (withThread mx) mx ∧
    th.guard 7 = false ∧ (encRaw (.nop ⟨7, false⟩)).map (fun r => r.g) = some 7 ∧ (encRaw (.nop ⟨8, false⟩)).map (fun r => r.g) = some 8 ∧
    small.nregs < (16 : GReg).toNat + 1 ∧
    (fun x : WldArgs => flagIs s th x.h none = true ∧ x.scaled = false ∧ x.fmt ≠ .lns6 ∧ regsOk th [sp1 x.a] = true ∧ th.role ≠ .matrix) ⟨⟨0, none⟩, .bf16, false, 255, none⟩ ∧
    (th.hm = false ∧ hm.hm = true ∧ hm.fcause.getLsbD 10 = true ∧ (0 : Word).extractLsb' 8 2 = 0) ∧
    (fun x : SrArgs => x.r ∉ [SysReg.thstat, .csp, .cslo, .cshi] ∧ regsOk th [spSys x.r x.x] = true) ⟨0, .hscratch1, 254⟩ ∧
    (9 < (10 : BitVec 4).toNat) ∧ (s.block? th.bid).map (fun k => decide (k.desc.loc ≤ 0x40000)) = some true ∧
    (0x40000 % 16 = 0 ∧ (th.reg 4).toNat % 16 ≠ 0 ∧ regsOk th (sp1 (6 : GReg) :: spR8 (.imm 1)) = true) ∧
    (fun x : LdArgs => flagIs s th x.h none = true ∧ regsOk th [spT x.t x.d, spBase x.space x.a] = true ∧
      effAddr x.space (th.baseOf x.space x.a) (Off.val x.off) % 8 ≠ 0) ⟨⟨0, none⟩, true, .dev, .glb, .n64, 252, 8, .o32 4⟩ ∧
    (fun x : LdArgs => regsOk th [spT x.t x.d, spBase x.space x.a] = true ∧ effAddr x.space (th.baseOf x.space x.a) (Off.val x.off) = s.alloc th.bid x.space)
      ⟨⟨0, none⟩, true, .dev, .loc, .n8, 252, 6, .o32 0⟩ ∧
    (fun x : LdArgs => regsOk th [spT x.t x.d, spBase x.space x.a] = true ∧ effAddr x.space (th.baseOf x.space x.a) (Off.val x.off) < 0)
      ⟨⟨0, none⟩, true, .dev, .prv, .n8, 252, 12, .o32 0xFFFFFFFF⟩ ∧
    canonical 0x8000000000000 = false ∧ (canonical 0x10000 = true ∧ inAperture 0x10000 = false) ∧
    leafIs (({ s with mem := s.mem.write 0x120008 (leBytes 8 (0x213 + 0x300 * 65536)) } : State).walk 0 0x10000) (fun l => leafAdmits l.entry 0 == false) = true ∧
    s.walk 0 0x20000 = .absent false 0x120010 ∧ bad.walk 0 0x10000 = .poison 0x120008 ∧ s.walkHeld 0 0x10000 = false ∧ s.walkHeld 0 0x20000 = false ∧
    (fun x : StArgs => flagIs s th x.h none = true ∧ regsOk th [spBase x.space x.a, spT x.t x.b] = true ∧ x.space ∈ [Space.wbuf, .cbuf] ∧
      (effAddr x.space (th.baseOf x.space x.a) (Off.val x.off)) = 0) ⟨⟨0, none⟩, false, .dev, .cbuf, .n64, 7, .o32 0, 254⟩ := by
  dsimp only [inTurn, Runs]
  and_intros <;> decide +kernel

/-- Whether `exec` answers a next state. -/
def runsOn (i : Instr) (s : State) : Bool := (after i s).isSome

/-- An addition that acts, one that takes REG_RANGE, and a store that issues, outside deterministic mode. -/
theorem wit_RegisterOnlyFrame :
    let s := base .general []
    let i : Instr := .iadd ⟨0, .i64, false, 254, 254, .reg 254⟩
    let j : Instr := .iadd ⟨0, .i64, false, 255, 254, .reg 254⟩
    s.cur = .thread 0 0 ∧ s.thread? 0 0 = some (thread .general []) ∧ registersWritten i = some ([254, 255], []) ∧ (registersWritten j).isSome = true ∧
    runsOn i s = true ∧ runsOn j s = true := by
  decide +kernel

theorem wit_IssueFrame :
    let g : FMap Word := [(8, 0x10000)]
    let s := base .general g
    let i : Instr := .st ⟨⟨0, none⟩, true, .sys, .glb, .n64, 8, .o32 0xFFF8, 254⟩
    s.cur = .thread 0 0 ∧ s.thread? 0 0 = some (thread .general g) ∧ issuesOnly i = true ∧ (s.ctx (thread .general g).ctx).det = false ∧ runsOn i s = true := by
  decide +kernel
end Sys2Proof.Tests
end

section
/-! SUPPORT. Little-endian numbers by their bytes, slices of a store, packed elements of whole bytes (R5, R47). -/

namespace Sys2Proof

/-! ## Little-endian numbers -/

/-- The number that digits to the base `b` make up, the lowest first. -/
def digitsNat (b : Nat) : List Nat → Nat
  | [] => 0
  | x :: xs => x + b * digitsNat b xs

section
variable {b : Nat} (hb : 0 < b)
include hb

/-- The lowest digit is what is left over, and the others are the quotient. -/
theorem digitsNat_cons_div {x : Nat} {xs : List Nat} (hx : x < b) : digitsNat b (x :: xs) / b = digitsNat b xs := by
  rw [digitsNat, Nat.add_mul_div_left _ _ hb, Nat.div_eq_of_lt hx, Nat.zero_add]

omit hb in
theorem digitsNat_cons_mod {x : Nat} {xs : List Nat} (hx : x < b) : digitsNat b (x :: xs) % b = x := by
  rw [digitsNat, Nat.add_mul_mod_self_left, Nat.mod_eq_of_lt hx]

theorem digitsNat_drop (k : Nat) {xs : List Nat} (h : ∀ x ∈ xs, x < b) : digitsNat b (xs.drop k) = digitsNat b xs / b ^ k := by
  induction k generalizing xs with
  | zero => rw [List.drop_zero, Nat.pow_zero, Nat.div_one]
  | succ k ih =>
    cases xs with
    | nil => rw [List.drop_nil, digitsNat, Nat.zero_div]
    | cons x xs =>
      rw [List.drop_succ_cons, ih fun y hy => h y (List.mem_cons_of_mem _ hy), Nat.pow_succ', ← Nat.div_div_eq_div_mul,
        digitsNat_cons_div hb (h x List.mem_cons_self)]

theorem digitsNat_take (w : Nat) {xs : List Nat} (h : ∀ x ∈ xs, x < b) : digitsNat b (xs.take w) = digitsNat b xs % b ^ w := by
  induction w generalizing xs with
  | zero => rw [List.take_zero, Nat.pow_zero, Nat.mod_one, digitsNat]
  | succ w ih =>
    cases xs with
    | nil => rw [List.take_nil, digitsNat, Nat.zero_mod]
    | cons x xs =>
      have hx := h x List.mem_cons_self
      rw [List.take_succ_cons, digitsNat, ih fun y hy => h y (List.mem_cons_of_mem _ hy), Nat.pow_succ', Nat.mod_mul,
        digitsNat_cons_mod hx, digitsNat_cons_div hb hx]

theorem digitsNat_lt {xs : List Nat} (h : ∀ x ∈ xs, x < b) : digitsNat b xs < b ^ xs.length := by
  have ht := digitsNat_take hb xs.length h
  rw [List.take_length] at ht
  exact ht ▸ Nat.mod_lt _ (Nat.pow_pos hb)

/-- A digit of a number that is made up of digits. -/
theorem digitsNat_digit (i : Nat) {xs : List Nat} (h : ∀ x ∈ xs, x < b) : digitsNat b xs / b ^ i % b = xs.getD i 0 := by
  induction i generalizing xs with
  | zero =>
    rw [Nat.pow_zero, Nat.div_one]
    cases xs with
    | nil => exact Nat.zero_mod b
    | cons x xs => exact digitsNat_cons_mod (h x List.mem_cons_self)
  | succ i ih =>
    cases xs with
    | nil => rw [digitsNat, Nat.zero_div, Nat.zero_mod, List.getD_nil]
    | cons x xs =>
      rw [Nat.pow_succ', ← Nat.div_div_eq_div_mul, digitsNat_cons_div hb (h x List.mem_cons_self),
        ih fun y hy => h y (List.mem_cons_of_mem _ hy), List.getD_cons_succ]

end

/-- A little-endian number has its bytes as digits to the base 256. -/
theorem leNat_eq_digitsNat (bs : List Byte) : leNat bs = digitsNat 256 (bs.map BitVec.toNat) := by
  induction bs with
  | nil => rfl
  | cons b bs ih => rw [leNat, ih, List.map_cons, digitsNat]

theorem byteDigits_lt (bs : List Byte) : ∀ d ∈ bs.map BitVec.toNat, d < 256 := by
  intro d hd
  obtain ⟨b, -, rfl⟩ := List.mem_map.1 hd
  exact b.isLt

/-- The number that a slice of the bytes holds. -/
theorem leNat_take_drop (bs : List Byte) (k w : Nat) : leNat ((bs.drop k).take w) = leNat bs / 256 ^ k % 256 ^ w := by
  have hd : ∀ d ∈ (bs.map BitVec.toNat).drop k, d < 256 := fun d h => byteDigits_lt bs d (List.mem_of_mem_drop h)
  rw [leNat_eq_digitsNat, leNat_eq_digitsNat, List.map_take, List.map_drop, digitsNat_take (by decide) w hd,
    digitsNat_drop (by decide) k (byteDigits_lt bs)]

@[simp] theorem length_leBytes (n v : Nat) : (leBytes n v).length = n := by
  induction n generalizing v with
  | zero => rfl
  | succ n ih => simp [leBytes, ih]

theorem getD_leBytes (n v j : Nat) (h : j < n) : (leBytes n v).getD j 0 = BitVec.ofNat 8 (v / 256 ^ j) := by
  induction n generalizing v j with
  | zero => omega
  | succ n ih =>
    cases j with
    | zero => simp [leBytes]
    | succ j => rw [leBytes, List.getD_cons_succ, ih _ _ (by omega), Nat.div_div_eq_div_mul, Nat.pow_succ']

theorem leNat_leBytes (n v : Nat) : leNat (leBytes n v) = v % 256 ^ n := by
  induction n generalizing v with
  | zero => simp [leBytes, leNat, Nat.mod_one]
  | succ n ih => simp [leBytes, leNat, ih, Nat.pow_succ', Nat.mod_mul]

end Sys2Proof

namespace Sys2Proof.Machine

/-! ## Slices of a store -/

@[simp] theorem Store.length_readBytes (m : Store) (a n : Nat) : (m.readBytes a n).length = n := by simp [Store.readBytes]

theorem Store.getD_readBytes (m : Store) (a n j : Nat) (h : j < n) : (m.readBytes a n).getD j 0 = m.get (a + j) := by
  simp [Store.readBytes, h]

theorem Store.take_drop_readBytes (m : Store) (a n k w : Nat) (h : k + w ≤ n) :
    ((m.readBytes a n).drop k).take w = m.readBytes (a + k) w := by
  have hl : (((m.readBytes a n).drop k).take w).length = (m.readBytes (a + k) w).length := by
    rw [List.length_take, List.length_drop, Store.length_readBytes, Store.length_readBytes]; omega
  refine List.ext_getElem hl fun i _ _ => ?_
  simp [Store.readBytes, Nat.add_assoc]

/-- A number read inside a run of bytes, from the number that the run holds. -/
theorem Store.readNat_slice (m : Store) (a n k w : Nat) (h : k + w ≤ n) :
    m.readNat (a + k) w = leNat (m.readBytes a n) / 256 ^ k % 256 ^ w := by
  rw [Store.readNat, ← Store.take_drop_readBytes m a n k w h, leNat_take_drop]

theorem Store.readBytes_writeMarked (m : Store) (a : Nat) (bs : List Byte) (bad : List Nat) :
    (m.writeMarked a bs bad).readBytes a bs.length = bs := by
  have h : (m.writeMarked a bs bad).readBytes a bs.length = (m.write a bs).readBytes a bs.length := by
    simp only [Store.readBytes, Store.get_writeMarked]
  rw [h, Store.readBytes_write]

theorem Store.get_writeMarked_of_lt (m : Store) (a j : Nat) (bs : List Byte) (bad : List Nat) (h : j < bs.length) :
    (m.writeMarked a bs bad).get (a + j) = bs.getD j 0 := by
  rw [Store.get_writeMarked, Store.get_write, if_pos (by omega), Nat.add_sub_cancel_left]

theorem Store.get_writeMarked_outside (m : Store) (a j : Nat) (bs : List Byte) (bad : List Nat) (h : j < a ∨ a + bs.length ≤ j) :
    (m.writeMarked a bs bad).get j = m.get j := by
  rw [Store.get_writeMarked, Store.get_write, if_neg (by omega)]

/-! ## Packed elements of whole bytes (R47) -/

theorem pow_fmt {f : Fmt} {w : Nat} (hn : Fmt.n f = 8 * w) : 2 ^ Fmt.n f = 256 ^ w := by rw [hn, Nat.pow_mul]

/-- The codes of packed elements are those that their places hold. -/
theorem unpackElems_readBytes (m : Store) (f : Fmt) (a k w : Nat) (hn : Fmt.n f = 8 * w) :
    unpackElems f k (m.readBytes a (k * w)) = (List.range k).map fun i => m.readNat (a + i * w) w := by
  refine List.map_congr_left fun i hi => ?_
  have hi : i * w + w ≤ k * w := by
    rw [← Nat.succ_mul]; exact Nat.mul_le_mul_right _ (List.mem_range.1 hi)
  rw [Store.readNat_slice m a _ _ _ hi, bitsAt, Nat.mul_comm i (Fmt.n f), Nat.pow_mul, pow_fmt hn, ← Nat.pow_mul, Nat.mul_comm w]

@[simp] theorem length_packElems (f : Fmt) (xs : List Nat) : (packElems f xs).length = xs.length * Fmt.n f / 8 := length_leBytes ..

/-- The number that the codes make up as digits, the first lowest. -/
theorem packElems_eq (f : Fmt) (xs : List Nat) : packElems f xs = leBytes (xs.length * Fmt.n f / 8) (digitsNat (2 ^ Fmt.n f) xs) := by
  have h : (xs.foldr (fun x acc => x + 2 ^ Fmt.n f * acc) 0) = digitsNat (2 ^ Fmt.n f) xs := by
    induction xs with
    | nil => rfl
    | cons x xs ih => rw [List.foldr_cons, ih, digitsNat]
  rw [packElems, h]

theorem length_packElems_of_bytes {f : Fmt} {w : Nat} (hn : Fmt.n f = 8 * w) (xs : List Nat) : (packElems f xs).length = xs.length * w := by
  rw [length_packElems, hn, Nat.mul_left_comm, Nat.mul_div_cancel_left _ (by decide)]

section
variable {f : Fmt} {w : Nat} {xs : List Nat} (hn : Fmt.n f = 8 * w) (hx : ∀ x ∈ xs, x < 2 ^ Fmt.n f)
include hn hx

theorem leNat_packElems : leNat (packElems f xs) = digitsNat (2 ^ Fmt.n f) xs := by
  have hl := length_packElems_of_bytes hn xs
  rw [length_packElems] at hl
  rw [packElems_eq, leNat_leBytes, hl, Nat.mul_comm, Nat.pow_mul, ← pow_fmt hn,
    Nat.mod_eq_of_lt (digitsNat_lt (Nat.two_pow_pos _) hx)]

/-- Element `i` of packed codes, as a number. -/
theorem leNat_packElems_slice (i : Nat) : leNat (packElems f xs) / 256 ^ (i * w) % 256 ^ w = xs.getD i 0 := by
  rw [leNat_packElems hn hx, Nat.mul_comm, Nat.pow_mul, ← pow_fmt hn, digitsNat_digit (Nat.two_pow_pos _) i hx]

/-- Byte `j` of packed codes is byte `j % w` of element `j / w`. -/
theorem getD_packElems (j : Nat) (hj : j < xs.length * w) :
    (packElems f xs).getD j 0 = BitVec.ofNat 8 (xs.getD (j / w) 0 / 256 ^ (j % w)) := by
  have hw : j % w < w := Nat.mod_lt _ (Nat.pos_of_ne_zero fun h => by simp [h] at hj)
  have hl := length_packElems_of_bytes hn xs
  rw [length_packElems] at hl
  have hp : 256 ^ w = 256 ^ (j % w) * 256 ^ (w - j % w) := by rw [← Nat.pow_add, Nat.add_sub_cancel' (Nat.le_of_lt hw)]
  have hd : 256 ∣ 256 ^ (w - j % w) := by
    have h := Nat.pow_dvd_pow 256 (show 1 ≤ w - j % w by omega)
    rwa [Nat.pow_one] at h
  rw [packElems_eq, getD_leBytes _ _ _ (by omega), ← leNat_packElems_slice hn hx (j / w), leNat_packElems hn hx, hp,
    Nat.mod_mul_right_div_self, Nat.div_div_eq_div_mul, ← Nat.pow_add, Nat.div_add_mod']
  apply BitVec.eq_of_toNat_eq
  rw [BitVec.toNat_ofNat, BitVec.toNat_ofNat]
  exact (Nat.mod_mod_of_dvd _ hd).symm

/-- An element that a write of packed codes has left in a store. -/
theorem Store.readNat_write_packElems (m : Store) (a i : Nat) (bad : List Nat) (hi : i < xs.length) :
    (m.writeMarked a (packElems f xs) bad).readNat (a + i * w) w = xs.getD i 0 := by
  have hl : (packElems f xs).length = xs.length * w := length_packElems_of_bytes hn xs
  have hs : i * w + w ≤ (packElems f xs).length := by
    rw [hl, ← Nat.succ_mul]; exact Nat.mul_le_mul_right _ hi
  rw [Store.readNat_slice _ _ _ _ _ hs, Store.readBytes_writeMarked, leNat_packElems_slice hn hx]

end

end Sys2Proof.Machine
end

section
/-! SUPPORT. The range of an encoding: what rounding, FMIN and FMAX give lies in the format (R50 to R53, R153). -/

namespace Sys2Proof.Machine

theorem signBit_add (f : Fmt) : Fmt.signBit f + Fmt.signBit f = 2 ^ Fmt.n f := by cases f <;> rfl

theorem maxCode_lt (f : Fmt) : Fmt.maxCode f < Fmt.signBit f := by cases f <;> decide

/-- A format with infinities has room for one above its largest finite magnitude. -/
theorem maxCode_succ_lt (f : Fmt) (h : Fmt.hasInf f = true) : Fmt.maxCode f + 1 < Fmt.signBit f := by
  cases f <;> revert h <;> decide

theorem canonicalNan_lt (f : Fmt) : canonicalNan f < 2 ^ Fmt.n f := by cases f <;> decide

/-- A magnitude below the sign bit, under either sign. -/
theorem signed_lt (f : Fmt) (s : Bool) (x : Nat) (h : x < Fmt.signBit f) : (if s then Fmt.signBit f else 0) + x < 2 ^ Fmt.n f := by
  have := signBit_add f
  split <;> omega

theorem overflow_lt (f : Fmt) (rm : Rm) (s sat : Bool) : overflow f rm s sat < 2 ^ Fmt.n f := by
  unfold overflow
  cases sat with
  | true => exact signed_lt f s _ (maxCode_lt f)
  | false => cases f <;> cases rm <;> cases s <;> decide

theorem roundFin_lt (f : Fmt) (rm : Rm) (w : Nat) (sat s : Bool) (m : Nat) (e : Int) : roundFin f rm w sat s m e < 2 ^ Fmt.n f := by
  unfold roundFin
  extract_lets q mag code
  split
  · exact overflow_lt ..
  · exact signed_lt f s _ (Nat.lt_of_le_of_lt (Nat.le_of_not_lt ‹_›) (maxCode_lt f))

theorem lnsCode_lt (s : Bool) (l : Int) : lnsCode s l < 64 := by
  unfold lnsCode
  split
  · decide
  · have hsign : (if s then 32 else 0) ≤ 32 := by cases s <;> decide
    have hmag : (if 31 < l then 31 else l.toNat) ≤ 31 := by split <;> omega
    omega

theorem roundLns_lt (v : XR) (rm : Rm) : roundLns v rm < 64 := by
  unfold roundLns
  split
  · decide
  · exact lnsCode_lt ..
  · exact lnsCode_lt ..
  · split
    · decide
    · split
      · exact lnsCode_lt ..
      · exact lnsCode_lt ..

/-- Every result of rounding is an encoding of its format. -/
theorem round_lt (v : XR) (f : Fmt) (rm : Rm) (w : Nat) (sat : Bool) : round v f rm w sat < 2 ^ Fmt.n f := by
  unfold round
  split
  · exact roundLns_lt v rm
  · split
    · exact canonicalNan_lt _
    · split
      · exact overflow_lt ..
      · rename_i h
        simp only [Bool.or_eq_true, Bool.not_eq_true', not_or, Bool.not_eq_false] at h
        exact signed_lt _ _ _ (maxCode_succ_lt _ h.2)
    · split
      · exact signed_lt _ _ 0 (Nat.two_pow_pos _)
      · exact roundFin_lt ..
    · exact Nat.two_pow_pos _

theorem ite_lt_of_lt {p : Prop} [Decidable p] {x y n : Nat} (hx : x < n) (hy : y < n) : (if p then x else y) < n := by
  split
  · exact hx
  · exact hy

/-- FMIN and FMAX give one of their operands or the canonical NaN. -/
theorem fMinMax_lt (f : Fmt) (maxi : Bool) (a b : Nat) (ha : a < 2 ^ Fmt.n f) (hb : b < 2 ^ Fmt.n f) : fMinMax f maxi a b < 2 ^ Fmt.n f :=
  ite_lt_of_lt (canonicalNan_lt f) (ite_lt_of_lt hb (ite_lt_of_lt ha (ite_lt_of_lt (ite_lt_of_lt hb ha) (ite_lt_of_lt hb ha))))

end Sys2Proof.Machine
end

section
/-! SUPPORT. The buffers that an engine operation reads and writes, MSTAT bits, and the row operands of tile vector operations (R187, R263, R264). -/

namespace Sys2Proof.Machine

/-! ## The buffers that an engine reads and writes -/

theorem State.block?_bid {s : State} {b : Bid} {k : Block} (h : s.block? b = some k) : k.bid = b := by
  simpa using List.find?_some h

/-- A block is found again after it is replaced by one of the same identity. -/
theorem State.block?_setBlock {s : State} {b : Bid} {k : Block} (h : s.block? b = some k) (k' : Block) (hb : k'.bid = b) :
    (s.setBlock k').block? b = some k' := by
  have hp : ((fun x : Block => decide (x.bid = b)) ∘ fun x => if x.bid = k'.bid then k' else x) = fun x => decide (x.bid = b) := by
    funext x
    by_cases hx : x.bid = b <;> simp [hx, hb]
  rw [State.block?] at h
  rw [State.block?, State.setBlock, List.find?_map, hp, h, Option.map_some, if_pos (by rw [hb, State.block?_bid h])]

@[simp] theorem Block.setStore_bid (k : Block) (half : Nat) (sp : Space) (m : Store) : (k.setStore half sp m).bid = k.bid := by
  unfold Block.setStore; split <;> rfl

@[simp] theorem Block.store_setStore (k : Block) (half : Nat) (sp : Space) (m : Store) : (k.setStore half sp m).store half sp = m := by
  cases sp <;> simp [Block.setStore, Block.store, Bufs.space, Bufs.setSpace]

theorem State.engineBuf_of_block {s : State} {b : Bid} {k : Block} (h : s.block? b = some k) (half : Nat) (sp : Space) :
    s.engineBuf b half sp = k.store half sp := by
  rw [State.engineBuf, h]

@[simp] theorem State.engineBuf_mstatSet (s : State) (c bit : Nat) (b : Bid) (half : Nat) (sp : Space) :
    (s.mstatSet c bit).engineBuf b half sp = s.engineBuf b half sp := rfl

@[simp] theorem State.mstatSet_vq (s : State) (c bit : Nat) : ((s.mstatSet c bit).core c).vq = (s.core c).vq := by
  simp [State.mstatSet, State.mstatEvent]

/-- MSTAT takes the union of the bits in its low half. -/
theorem mstatAdd_bit (v e : Dword) (i : Nat) (h : i < 32) : (mstatAdd v e).getLsbD i = (v.getLsbD i || e.getLsbD i) := by
  unfold mstatAdd
  change BitVec.getLsbD (w := 32 + 32) _ i = _
  rw [BitVec.getLsbD_append, if_pos h]
  simp [h]

theorem State.mstatSet_bit (s : State) (c bit : Nat) (h : bit < 32) : ((s.mstatSet c bit).core c).mstat.getLsbD bit = true := by
  rw [State.mstatSet, State.mstatEvent, State.setCore_core, mstatAdd_bit _ _ _ h]
  have hb : bit < 64 := by omega
  rw [BitVec.getLsbD_shiftLeft, Nat.sub_self]
  simp [hb]

theorem State.setEngineBuf_cores (s : State) (b : Bid) (half : Nat) (sp : Space) (m : Store) : (s.setEngineBuf b half sp m).cores = s.cores := by
  unfold State.setEngineBuf; split <;> rfl

/-- What a row's write leaves in the buffer it writes. -/
theorem State.vecWrite_engineBuf {s : State} {v : VOp} {k : Block} (h : s.block? v.bid = some k) (c : Nat) (sp : Space) (a : Nat)
    (bs : List Byte) (bad : List Nat) :
    (s.vecWrite c v sp a bs bad).engineBuf v.bid v.half sp = (k.store v.half sp).writeMarked a bs bad := by
  have hset : (s.setEngineBuf v.bid v.half sp ((k.store v.half sp).writeMarked a bs bad)).engineBuf v.bid v.half sp =
      (k.store v.half sp).writeMarked a bs bad := by
    rw [State.setEngineBuf, h]
    have hk := State.block?_setBlock h (k.setStore v.half sp ((k.store v.half sp).writeMarked a bs bad)) (by simp [State.block?_bid h])
    rw [State.engineBuf_of_block hk, Block.store_setStore]
  unfold State.vecWrite
  rw [State.engineBuf_of_block h]
  dsimp only
  split
  · exact hset
  · rw [State.engineBuf_mstatSet, hset]

theorem State.vecWrite_vq (s : State) (c : Nat) (v : VOp) (sp : Space) (a : Nat) (bs : List Byte) (bad : List Nat) :
    ((s.vecWrite c v sp a bs bad).core c).vq = (s.core c).vq := by
  unfold State.vecWrite
  dsimp only
  split
  · rw [State.core, State.setEngineBuf_cores, State.core]
  · rw [State.mstatSet_vq, State.core, State.setEngineBuf_cores, State.core]

/-! ## Row operands (R264) -/

/-- A row as the elements at its places. -/
theorem readRow_eq (m : Store) (f : Fmt) (a : Nat) (hn : Fmt.n f = 8 * (Fmt.n f / 8)) :
    readRow m f a = (List.range 64).map fun i =>
      { v := toReal f (m.readNat (a + i * (Fmt.n f / 8)) (Fmt.n f / 8)), bad := m.bad (a + i * (Fmt.n f / 8)) } := by
  rw [readRow, rowBytes, unpackElems_readBytes _ _ _ _ _ hn]
  refine List.ext_getElem (by simp) fun i _ _ => ?_
  simp

/-- The format of an operand's elements: FP32 in `cbuf`, the operation's in `abuf`. -/
def VOp.fmtOf (v : VOp) (sp : Space) : Fmt := if sp = .cbuf then .f32 else v.fmt

def VOp.width (v : VOp) (sp : Space) : Nat := (v.fmtOf sp).n / 8

theorem rowFmt_eq_fmtOf (v : VOp) (sp : Space) : rowFmt sp v.fmt = v.fmtOf sp := by cases sp <;> rfl

/-- Element `i` of row `r` of an operand. -/
def VOp.elem (v : VOp) (k : Block) (r : Nat) (sp : Space) (a i : Nat) : XR :=
  toReal (v.fmtOf sp) ((k.store v.half sp).readNat (a + r * 64 * v.width sp + i * v.width sp) (v.width sp))

/-- The row scalar of row `r`. -/
def VOp.scalar (v : VOp) (k : Block) (r : Nat) (sp : Space) (a : Nat) : XR :=
  toReal .f32 ((k.store v.half sp).readNat (a + 4 * r) 4)

/-- The formats of the elementwise operations and of VST have elements of whole bytes. -/
theorem n_of_rowFmt : ∀ f ∈ [Fmt.f32, .f16, .bf16], Fmt.n f = 8 * (Fmt.n f / 8) := by decide

theorem VOp.n_fmtOf {v : VOp} (h : v.fmt ∈ [Fmt.f32, .f16, .bf16]) (sp : Space) : Fmt.n (v.fmtOf sp) = 8 * v.width sp := by
  refine n_of_rowFmt _ ?_
  unfold VOp.fmtOf
  split
  · exact List.mem_cons_self
  · exact h

/-- The codes of a row that is rounded into a format are encodings of it. -/
theorem roundedRow_lt (x : Nat → XR) (f : Fmt) (rm : Rm) (sat : Bool) :
    ∀ c ∈ (List.range 64).map fun i => round (x i) f rm 0 sat, c < 2 ^ Fmt.n f := by
  intro c hc
  obtain ⟨i, -, rfl⟩ := List.mem_map.1 hc
  exact round_lt ..

section
variable {s : State} {v : VOp} {k : Block} (hk : s.block? v.bid = some k) (hf : v.fmt ∈ [Fmt.f32, .f16, .bf16])
include hk hf

/-- A row operand as `vecRow` reads it. -/
theorem readRow_operand (r : Nat) (sp : Space) (a : Nat) :
    ∃ bad : Nat → Bool, readRow (s.engineBuf v.bid v.half sp) (rowFmt sp v.fmt) (a + r * rowBytes (rowFmt sp v.fmt)) =
      (List.range 64).map fun i => { v := v.elem k r sp a i, bad := bad i } := by
  refine ⟨fun i => (k.store v.half sp).bad (a + r * 64 * v.width sp + i * v.width sp), ?_⟩
  rw [State.engineBuf_of_block hk, readRow_eq, rowFmt_eq_fmtOf, rowBytes, ← Nat.mul_assoc]
  · rfl
  · rw [rowFmt_eq_fmtOf]; exact VOp.n_fmtOf hf sp

end

end Sys2Proof.Machine
end

section
/-! SUPPORT. What a row of an elementwise operation or of a reduction leaves in its buffer (R266, R267). -/

namespace Sys2Proof.Machine

/-! ## What a row leaves in its buffer -/

section
variable (s : State) (c : Nat) (v : VOp) (k : Block) (r : Nat)

/-- Outside `n` bytes from `lo` on, the destination's buffer reads as the block had it. -/
def VOp.Stands (s' : State) (lo n : Nat) : Prop :=
  ∀ a, a < lo ∨ lo + n ≤ a → (s'.engineBuf v.bid v.half v.sd).get a = (k.store v.half v.sd).get a

/-- Row `r` writes the values `out`, rounded into the destination's format, and no other byte of its buffer (R266). -/
def RowWritten (out : Nat → XR) : Prop :=
  ∃ s', s.vecRow c v r = some s' ∧
    (∀ i < 64, (s'.engineBuf v.bid v.half v.sd).readNat (v.d + r * 64 * v.width v.sd + i * v.width v.sd) (v.width v.sd) =
      round (out i) (v.fmtOf v.sd) v.rm 0 v.sat) ∧ v.Stands k s' (v.d + r * 64 * v.width v.sd) (64 * v.width v.sd)

/-- Row `r` writes one row scalar and no other byte of its buffer (R267). -/
def ScalarWritten (out : Nat) : Prop :=
  ∃ s', s.vecRow c v r = some s' ∧ (s'.engineBuf v.bid v.half v.sd).readNat (v.d + 4 * r) 4 = out ∧ v.Stands k s' (v.d + 4 * r) 4

end

/-! ## Elementwise operations (R266) -/

def VFun.elementwise : VFun → Bool
  | .rmax _ | .rsum _ | .cvt _ | .st _ _ => false
  | _ => true

/-- Whether operand b is a row scalar. -/
def VFun.scalarB : VFun → Bool
  | .scl _ | .mov _ => true
  | _ => false

theorem getD_replicate_of_lt {α : Type} (x z : α) {n i : Nat} (h : i < n) : (List.replicate n x).getD i z = x := by
  rw [List.getD_eq_getElem?_getD, List.getElem?_replicate, if_pos h, Option.getD_some]

section
variable (v : VOp) (k : Block) (r i : Nat)

def VOp.argA : XR := if usesA v.fn then v.elem k r v.sa v.a i else .fin false 0 0
def VOp.argB : XR :=
  if usesB v.fn then (if v.fn.scalarB then v.scalar k r v.sb v.b else v.elem k r v.sb v.b i) else .fin false 0 0
def VOp.argC : XR := if usesC v.fn then v.elem k r v.sc v.c i else .fin false 0 0

end

section
variable {s : State} {v : VOp} {k : Block} (hk : s.block? v.bid = some k) (hf : v.fmt ∈ [Fmt.f32, .f16, .bf16])
include hk hf

omit hf in
/-- A row scalar as `vecRow` reads it. -/
theorem readScalar_operand (r : Nat) (sp : Space) (a : Nat) :
    (readScalar (s.engineBuf v.bid v.half sp) (a + 4 * r)).v = v.scalar k r sp a := by
  rw [State.engineBuf_of_block hk]; rfl

/-- Element `i` of a row operand as `vecRow` picks it. -/
theorem readRow_operand_getD (r : Nat) (sp : Space) (a i : Nat) (hi : i < 64) (z : Elem) :
    ((readRow (s.engineBuf v.bid v.half sp) (rowFmt sp v.fmt) (a + r * rowBytes (rowFmt sp v.fmt))).getD i z).v = v.elem k r sp a i := by
  obtain ⟨bad, h⟩ := readRow_operand hk hf r sp a
  simp [h, hi]

/-- An elementwise operation takes its values from its operands, all read before it writes. -/
theorem vecRow_elementwise (c r : Nat) (hfn : v.fn.elementwise = true) :
    ∃ xs : List Elem, xs.map Elem.v = ((List.range 64).map fun i => vecVal v.fn v.rm (v.argA k r i) (v.argB k r i) (v.argC k r i)) ∧
      s.vecRow c v r = some (s.vecWrite c v v.sd (v.d + r * rowBytes (rowFmt v.sd v.fmt)) (packRow (rowFmt v.sd v.fmt) v.rm v.sat xs).1
        (packRow (rowFmt v.sd v.fmt) v.rm v.sat xs).2) := by
  unfold State.vecRow
  split
  · simp [VFun.elementwise, *] at hfn
  · simp [VFun.elementwise, *] at hfn
  · simp [VFun.elementwise, *] at hfn
  · simp [VFun.elementwise, *] at hfn
  · refine ⟨_, ?_, rfl⟩
    rw [List.map_map]
    refine List.map_congr_left fun i hi => ?_
    have hi := List.mem_range.1 hi
    have hA := readRow_operand_getD hk hf r v.sa v.a i hi
    have hB := readRow_operand_getD hk hf r v.sb v.b i hi
    have hC := readRow_operand_getD hk hf r v.sc v.c i hi
    have hS := readScalar_operand hk r v.sb v.b
    dsimp only [Function.comp_apply]
    congr 1
    · unfold VOp.argA
      split
      · exact hA _
      · rfl
    · unfold VOp.argB
      split
      · split
        · rw [getD_replicate_of_lt _ _ hi, hS, if_pos (by simp [VFun.scalarB, *])]
        · rw [getD_replicate_of_lt _ _ hi, hS, if_pos (by simp [VFun.scalarB, *])]
        · rw [hB, if_neg]
          unfold VFun.scalarB
          split <;> simp_all
      · rfl
    · unfold VOp.argC
      split
      · exact hC _
      · rfl

/-- The row that an elementwise operation writes. -/
theorem rowWritten_elementwise (c r : Nat) (out : Nat → XR) (hfn : v.fn.elementwise = true)
    (h : ∀ i, vecVal v.fn v.rm (v.argA k r i) (v.argB k r i) (v.argC k r i) = out i) : RowWritten s c v k r out := by
  obtain ⟨xs, hxs, hrow⟩ := vecRow_elementwise hk hf c r hfn
  have hn := VOp.n_fmtOf hf v.sd
  have hcodes : (packRow (rowFmt v.sd v.fmt) v.rm v.sat xs).1 =
      packElems (v.fmtOf v.sd) ((List.range 64).map fun i => round (out i) (v.fmtOf v.sd) v.rm 0 v.sat) := by
    have : (xs.map fun e => round e.v (v.fmtOf v.sd) v.rm 0 v.sat) = (xs.map Elem.v).map fun x => round x (v.fmtOf v.sd) v.rm 0 v.sat := by
      rw [List.map_map]; rfl
    rw [packRow, rowFmt_eq_fmtOf, this, hxs, List.map_map]
    simp only [Function.comp_def, h]
  rw [hcodes, rowFmt_eq_fmtOf, rowBytes, ← Nat.mul_assoc] at hrow
  have hlt := roundedRow_lt out (v.fmtOf v.sd) v.rm v.sat
  refine ⟨_, hrow, fun i hi => ?_, fun a ha => ?_⟩
  · rw [State.vecWrite_engineBuf hk]
    exact (Store.readNat_write_packElems hn hlt _ _ _ _ (by simpa using hi)).trans (by simp [hi])
  · rw [State.vecWrite_engineBuf hk]
    refine Store.get_writeMarked_outside _ _ _ _ _ ?_
    rw [length_packElems_of_bytes hn]
    simpa [VOp.width] using ha

/-- The same for an operation by its name, with the operands that it reads. -/
theorem rowWritten_of_fn (c r : Nat) {fn : VFun} {out : Nat → XR} (hfn : v.fn = fn) (he : fn.elementwise = true)
    (h : ∀ i, vecVal fn v.rm (if usesA fn then v.elem k r v.sa v.a i else .fin false 0 0)
      (if usesB fn then (if fn.scalarB then v.scalar k r v.sb v.b else v.elem k r v.sb v.b i) else .fin false 0 0)
      (if usesC fn then v.elem k r v.sc v.c i else .fin false 0 0) = out i) : RowWritten s c v k r out := by
  subst hfn
  exact rowWritten_elementwise hk hf c r out he h

end

/-! ## Reductions (R267) -/

section
variable {s : State} {v : VOp} {k : Block} (hk : s.block? v.bid = some k)
include hk

/-- What follows from a write of one FP32 encoding at the row scalar's place. -/
theorem scalarWritten_of_vecWrite (c r out : Nat) (hout : out < 2 ^ 32)
    (h : ∃ bad, s.vecRow c v r = some (s.vecWrite c v v.sd (v.d + 4 * r) (leBytes 4 out) bad)) : ScalarWritten s c v k r out := by
  obtain ⟨bad, h⟩ := h
  refine ⟨_, h, ?_, fun a ha => ?_⟩ <;> rw [State.vecWrite_engineBuf hk]
  · have hr := Store.readBytes_writeMarked (k.store v.half v.sd) (v.d + 4 * r) (leBytes 4 out) bad
    rw [length_leBytes] at hr
    rw [Store.readNat, hr, leNat_leBytes]
    exact Nat.mod_eq_of_lt hout
  · exact Store.get_writeMarked_outside _ _ _ _ _ (by simpa using ha)

end

theorem foldl_fMinMax_lt (f : Fmt) (maxi : Bool) (xs : List Nat) (x : Nat) (hx : x < 2 ^ Fmt.n f) (h : ∀ y ∈ xs, y < 2 ^ Fmt.n f) :
    xs.foldl (fMinMax f maxi) x < 2 ^ Fmt.n f := by
  induction xs generalizing x with
  | nil => exact hx
  | cons y ys ih =>
    exact ih _ (fMinMax_lt f maxi x y hx (h y List.mem_cons_self)) fun z hz => h z (List.mem_cons_of_mem _ hz)

/-- The greatest of a row's 64 elements, from the first on. -/
theorem rowMax_row (x : Nat → Nat) :
    rowMax ((List.range 64).map x) = ((List.range 63).map fun i => x (i + 1)).foldl (fMinMax .f32 true) (x 0) := by
  rw [List.range_succ_eq_map, List.map_cons, List.map_map]; rfl

/-- A level of the tree takes the sums of the level above. -/
theorem sumLevel_row (t : Nat → Nat → Nat) (n : Nat)
    (h : ∀ i < n, t n i = fAdd .f32 .rn false (t (2 * n) i) (t (2 * n) (i + n))) :
    sumLevel ((List.range (2 * n)).map (t (2 * n))) n = (List.range n).map (t n) := by
  refine List.map_congr_left fun i hi => ?_
  have hi := List.mem_range.1 hi
  have h1 : i < 2 * n := by omega
  have h2 : i + n < 2 * n := by omega
  rw [h i hi]
  simp [h1, h2]

/-- The sum of a row is the root of a tree whose leaves are its elements (R267). -/
theorem rowSum_row (t : Nat → Nat → Nat)
    (h : ∀ n ∈ [32, 16, 8, 4, 2, 1], ∀ i < n, t n i = fAdd .f32 .rn false (t (2 * n) i) (t (2 * n) (i + n))) :
    rowSum ((List.range 64).map (t 64)) = t 1 0 := by
  have hl (n : Nat) (hn : n ∈ [32, 16, 8, 4, 2, 1]) := sumLevel_row t n (h n hn)
  rw [rowSum]
  simp only [List.foldl_cons, List.foldl_nil]
  rw [hl 32 (by decide), hl 16 (by decide), hl 8 (by decide), hl 4 (by decide), hl 2 (by decide), hl 1 (by decide)]
  rfl

section
variable {s : State} {v : VOp} {k : Block} (hk : s.block? v.bid = some k) (hf : v.fmt ∈ [Fmt.f32, .f16, .bf16])
include hk hf

/-- The FP32 encodings of a row, as a reduction reads them. -/
theorem row_asF32 (r : Nat) :
    ((readRow (s.engineBuf v.bid v.half v.sa) (rowFmt v.sa v.fmt) (v.a + r * rowBytes (rowFmt v.sa v.fmt))).map fun e => asF32 e.v) =
      (List.range 64).map fun i => roundRne (v.elem k r v.sa v.a i) .f32 := by
  obtain ⟨bad, h⟩ := readRow_operand hk hf r v.sa v.a
  rw [h, List.map_map]; rfl

theorem scalarWritten_rmax (c r : Nat) (acc : Bool) (hfn : v.fn = .rmax acc) :
    let m := ((List.range 63).map fun i => roundRne (v.elem k r v.sa v.a (i + 1)) .f32).foldl (fMinMax .f32 true)
      (roundRne (v.elem k r v.sa v.a 0) .f32)
    ScalarWritten s c v k r (if acc then fMinMax .f32 true (roundRne (v.scalar k r v.sd v.d) .f32) m else m) := by
  intro m
  have hlt : m < 2 ^ Fmt.n .f32 := foldl_fMinMax_lt _ _ _ _ (round_lt ..) fun y hy => by
    obtain ⟨i, -, rfl⟩ := List.mem_map.1 hy
    exact round_lt ..
  have hrow : ∃ bad, s.vecRow c v r = some (s.vecWrite c v v.sd (v.d + 4 * r)
      (leBytes 4 (if acc then fMinMax .f32 true (roundRne (v.scalar k r v.sd v.d) .f32) m else m)) bad) := by
    unfold State.vecRow
    rw [hfn]
    dsimp only
    rw [row_asF32 hk hf, rowMax_row, readScalar_operand hk, asF32]
    exact ⟨_, rfl⟩
  refine scalarWritten_of_vecWrite hk c r _ ?_ hrow
  split
  · exact fMinMax_lt _ _ _ _ (round_lt ..) hlt
  · exact hlt

theorem scalarWritten_rsum (c r : Nat) (acc : Bool) (t : Nat → Nat → Nat) (hfn : v.fn = .rsum acc)
    (h64 : ∀ i < 64, t 64 i = roundRne (v.elem k r v.sa v.a i) .f32)
    (ht : ∀ n ∈ [32, 16, 8, 4, 2, 1], ∀ i < n, t n i = fAdd .f32 .rn false (t (2 * n) i) (t (2 * n) (i + n))) :
    ScalarWritten s c v k r (if acc then fAdd .f32 .rn false (roundRne (v.scalar k r v.sd v.d) .f32) (t 1 0) else t 1 0) := by
  have helems : ((List.range 64).map fun i => roundRne (v.elem k r v.sa v.a i) .f32) = (List.range 64).map (t 64) :=
    List.map_congr_left fun i hi => (h64 i (List.mem_range.1 hi)).symm
  have hrow : ∃ bad, s.vecRow c v r = some (s.vecWrite c v v.sd (v.d + 4 * r)
      (leBytes 4 (if acc then fAdd .f32 .rn false (roundRne (v.scalar k r v.sd v.d) .f32) (t 1 0) else t 1 0)) bad) := by
    unfold State.vecRow
    rw [hfn]
    dsimp only
    rw [row_asF32 hk hf, helems, rowSum_row t ht, readScalar_operand hk, asF32]
    exact ⟨_, rfl⟩
  refine scalarWritten_of_vecWrite hk c r _ ?_ hrow
  split
  · exact round_lt ..
  · rw [ht 1 (by decide) 0 (by decide)]; exact round_lt ..

end

end Sys2Proof.Machine
end

section
/-! SUPPORT. What a row of a VCVT leaves in `abuf` (R268). -/

namespace Sys2Proof.Machine

/-! ## Conversions into activation records (R268) -/

/-- Element `i` of the row that a VCVT converts: 64 FP32 values of either buffer. -/
def VOp.source (v : VOp) (k : Block) (r i : Nat) : XR := toReal .f32 ((k.store v.half v.sa).readNat (v.a + 256 * r + 4 * i) 4)

theorem readRow_source (v : VOp) (k : Block) (r : Nat) :
    ∃ bad : Nat → Bool, readRow (k.store v.half v.sa) .f32 (v.a + 256 * r) = (List.range 64).map fun i => { v := v.source k r i, bad := bad i } := by
  refine ⟨fun i => (k.store v.half v.sa).bad (v.a + 256 * r + 4 * i), ?_⟩
  rw [readRow_eq _ _ _ rfl]
  refine List.map_congr_left fun i _ => ?_
  rw [show Fmt.n .f32 / 8 = 4 from rfl, Nat.mul_comm i 4]
  rfl

/-- What a VCVT row leaves: its record with its padding at the record's place, and MSTAT bit 6 when a block held an infinity. -/
theorem vecRow_cvt {s : State} {v : VOp} {k : Block} (hk : s.block? v.bid = some k) (c r : Nat) {scaled : Bool} (hfn : v.fn = .cvt scaled) :
    let q := cvtRow v.fmt scaled v.sat v.rm (readRow (k.store v.half v.sa) .f32 (v.a + 256 * r))
    ∃ s' pad bad, s.vecRow c v r = some s' ∧ pad.length = vcvtBytes v.fmt scaled - q.1.length ∧
      s'.engineBuf v.bid v.half .abuf = (k.store v.half .abuf).writeMarked (v.d + vcvtBytes v.fmt scaled * r) (q.1 ++ pad) bad ∧
      (q.2.2 = true → (s'.core c).mstat.getLsbD 6 = true) := by
  intro q
  unfold State.vecRow
  rw [hfn]
  dsimp only
  rw [State.engineBuf_of_block hk]
  refine ⟨_, padding v scaled ((k.store v.half v.sa).readBytes (v.a + 256 * r) 256) (vcvtBytes v.fmt scaled - q.1.length), q.2.1,
    rfl, ?_, ?_, fun hq => ?_⟩
  · rw [padding, List.length_map, List.length_range]
  · split
    · rw [State.engineBuf_mstatSet]; exact State.vecWrite_engineBuf hk ..
    · exact State.vecWrite_engineBuf hk ..
  · rw [if_pos hq]
    exact State.mstatSet_bit _ _ _ (by decide)

/-- Rows of a plain conversion: 64 codes of one byte. -/
theorem cvtRow_plain (v : VOp) (k : Block) (r : Nat) :
    (cvtRow v.fmt false v.sat v.rm (readRow (k.store v.half v.sa) .f32 (v.a + 256 * r))).1 =
      packElems v.fmt ((List.range 64).map fun i => round (v.source k r i) v.fmt v.rm 0 v.sat) := by
  obtain ⟨bad, h⟩ := readRow_source v k r
  rw [h, cvtRow, if_neg Bool.false_ne_true, List.map_map]
  rfl

/-- A plain record of an FP8 format holds 64 codes of one byte and no padding. -/
theorem plainRecord_size : ∀ f ∈ [Fmt.e4m3, .e5m2], Fmt.n f = 8 * 1 ∧ vcvtBytes f false = 64 := by decide

theorem vecRow_cvt_plain {s : State} {v : VOp} {k : Block} (hk : s.block? v.bid = some k) (c r : Nat) (hsd : v.sd = .abuf)
    (hfn : v.fn = .cvt false) (hf : v.fmt ∈ [Fmt.e4m3, .e5m2]) :
    ∃ s', s.vecRow c v r = some s' ∧ v.Stands k s' (v.d + 64 * r) 64 ∧
      ∀ i < 64, ((s'.engineBuf v.bid v.half .abuf).get (v.d + 64 * r + i)).toNat = round (v.source k r i) v.fmt v.rm 0 v.sat := by
  have hn := plainRecord_size _ hf
  obtain ⟨s', pad, bad, hrow, hpad, hbuf, -⟩ := vecRow_cvt hk c r hfn
  have hlt := roundedRow_lt (v.source k r) v.fmt v.rm v.sat
  have hlen := length_packElems_of_bytes hn.1 ((List.range 64).map fun i => round (v.source k r i) v.fmt v.rm 0 v.sat)
  rw [cvtRow_plain, hn.2] at hbuf hpad
  rw [List.length_map, List.length_range, Nat.mul_one] at hlen
  rw [hlen, Nat.sub_self, List.length_eq_zero_iff] at hpad
  rw [hpad, List.append_nil] at hbuf
  refine ⟨s', hrow, fun a ha => ?_, fun i hi => ?_⟩
  · rw [hsd, hbuf]
    exact Store.get_writeMarked_outside _ _ _ _ _ (by rwa [hlen])
  · have hr := round_lt (v.source k r i) v.fmt v.rm 0 v.sat
    rw [hbuf, Store.get_writeMarked_of_lt _ _ _ _ _ (by rwa [hlen]), getD_packElems hn.1 hlt _ (by simpa using hi)]
    rw [hn.1] at hr
    simpa [hi, Nat.mod_one] using hr

theorem blocks32_row {α : Type} (x : Nat → α) :
    blocks32 ((List.range 64).map x) 2 = [(List.range 32).map fun i => x i, (List.range 32).map fun i => x (32 + i)] := rfl

@[simp] theorem length_quantise_codes (f : Fmt) (rm : Rm) (vs : List (XR × Nat)) : (quantise f rm vs).codes.length = vs.length := by
  unfold quantise
  split <;> simp

/-- The quantised block `j` of a row that a scaled VCVT converts. -/
def VOp.block (v : VOp) (k : Block) (r j : Nat) : QBlock :=
  quantise v.fmt v.rm ((List.range 32).map fun i => (v.source k r (32 * j + i), 0))

/-- The record of a quantised row: the codes of two blocks of 32, then their scale bytes (R64 to R67, R248). -/
theorem cvtRow_scaled (v : VOp) (k : Block) (r : Nat) :
    let out := cvtRow v.fmt true v.sat v.rm (readRow (k.store v.half v.sa) .f32 (v.a + 256 * r))
    out.1 = packElems v.fmt ((v.block k r 0).codes ++ (v.block k r 1).codes) ++
        [BitVec.ofNat 8 (v.block k r 0).scale, BitVec.ofNat 8 (v.block k r 1).scale] ∧
      out.2.2 = ((v.block k r 0).inf || (v.block k r 1).inf) := by
  intro out
  obtain ⟨bad, h⟩ := readRow_source v k r
  simp only [out, h, cvtRow, if_true, blocks32_row, List.map_cons, List.map_nil, List.map_map, List.flatMap_cons, List.flatMap_nil,
    List.append_nil, List.any_cons, List.any_nil, Bool.or_false]
  constructor <;> simp [VOp.block, Function.comp_def]

/-- The bytes that begin a write are read back. -/
theorem Store.readBytes_writeMarked_append (m : Store) (a : Nat) (bs cs : List Byte) (bad : List Nat) :
    (m.writeMarked a (bs ++ cs) bad).readBytes a bs.length = bs := by
  have h := Store.take_drop_readBytes (m.writeMarked a (bs ++ cs) bad) a (bs ++ cs).length 0 bs.length (by simp)
  rw [Store.readBytes_writeMarked] at h
  simpa using h.symm

/-- The size of a scaled record, which holds 64 codes and two scale bytes (R248). -/
theorem scaledRecord_size : ∀ f ∈ [Fmt.lns6, .e4m3, .e5m2],
    vcvtBytes f true = (if f = .lns6 then 64 else 80) ∧ 8 * Fmt.n f + 2 ≤ vcvtBytes f true := by decide

theorem vecRow_cvt_scaled {s : State} {v : VOp} {k : Block} (hk : s.block? v.bid = some k) (c r : Nat) (hsd : v.sd = .abuf)
    (hfn : v.fn = .cvt true) (hf : v.fmt ∈ [Fmt.lns6, .e4m3, .e5m2]) :
    let n := 8 * Fmt.n v.fmt
    let a := v.d + (if v.fmt = .lns6 then 64 else 80) * r
    ∃ s', s.vecRow c v r = some s' ∧ v.Stands k s' a (if v.fmt = .lns6 then 64 else 80) ∧
      (s'.engineBuf v.bid v.half .abuf).readBytes a n = packElems v.fmt ((v.block k r 0).codes ++ (v.block k r 1).codes) ∧
      (∀ j < 2, (s'.engineBuf v.bid v.half .abuf).get (a + n + j) = BitVec.ofNat 8 (v.block k r j).scale) ∧
      ((v.block k r 0).inf = true ∨ (v.block k r 1).inf = true → (s'.core c).mstat.getLsbD 6 = true) := by
  intro n a
  have hsize : vcvtBytes v.fmt true = (if v.fmt = .lns6 then 64 else 80) ∧ n + 2 ≤ vcvtBytes v.fmt true := scaledRecord_size _ hf
  obtain ⟨s', pad, bad, hrow, hpad, hbuf, hinf⟩ := vecRow_cvt hk c r hfn
  obtain ⟨hbytes, hany⟩ := cvtRow_scaled v k r
  rw [hany] at hinf
  rw [hbytes, hsize.1] at hbuf
  rw [hbytes] at hpad
  generalize hp : packElems v.fmt ((v.block k r 0).codes ++ (v.block k r 1).codes) = codes at hbuf hpad
  have hlen : codes.length = n := by
    rw [← hp, length_packElems, List.length_append]
    simp only [VOp.block, length_quantise_codes, List.length_map, List.length_range]
    omega
  rw [List.length_append, hlen] at hpad
  simp only [List.length_cons, List.length_nil] at hpad
  refine ⟨s', hrow, fun x hx => ?_, ?_, fun j hj => ?_, fun h => hinf (by simpa using h)⟩
  · rw [hsd, hbuf]
    refine Store.get_writeMarked_outside _ _ _ _ _ ?_
    rwa [List.length_append, List.length_append, hlen, hpad, List.length_cons, List.length_singleton, Nat.add_sub_cancel' hsize.2, hsize.1]
  · rw [hbuf, List.append_assoc, ← hlen]
    exact Store.readBytes_writeMarked_append ..
  · have hin : n + j < (codes ++ [BitVec.ofNat 8 (v.block k r 0).scale, BitVec.ofNat 8 (v.block k r 1).scale] ++ pad).length := by
      rw [List.length_append, List.length_append, hlen, List.length_cons, List.length_singleton]; omega
    rw [hbuf, Nat.add_assoc, Store.get_writeMarked_of_lt _ _ _ _ _ hin, ← hlen]
    have : j = 0 ∨ j = 1 := by omega
    rcases this with rfl | rfl <;> simp

end Sys2Proof.Machine
end

section
/-! SUPPORT. What a row of a VST leaves in device memory and in host memory (R11, R269, R270, R276, R383). -/

namespace Sys2Proof.Machine

/-! ## Writes to device memory and to the host (R199, R276, R383) -/

theorem State.l2WriteSector_caches (s : State) (pa n : Nat) : CachesOnly s (s.l2WriteSector pa n) := by
  have h0 : CachesOnly s (if (FMap.find? s.l2 (pa / 64)).isSome then s.sliceBump (sliceOf pa) 0 1 else s) := by
    split
    · exact ⟨rfl, rfl, rfl, rfl, rfl⟩
    · exact .refl s
  refine (h0.trans (State.l2Alloc_caches _ pa)).trans ?_
  unfold State.l2WriteSector
  dsimp only
  generalize State.l2Alloc (if (FMap.find? s.l2 (pa / 64)).isSome then s.sliceBump (sliceOf pa) 0 1 else s) pa = s1
  split
  · exact ⟨rfl, rfl, rfl, rfl, rfl⟩
  · exact .refl _

/-- A write enters the sectors' masks and changes no byte. -/
theorem State.l2Write_caches (s : State) (pa n : Nat) : CachesOnly s (s.l2Write pa n) :=
  CachesOnly.foldl (fun s (e : Nat × Nat) => s.l2WriteSector e.1 e.2) (fun s e => s.l2WriteSector_caches e.1 e.2) _ s

/-- What every byte of device memory is after a write of an engine or a thread. -/
theorem State.devWrite_get (s : State) (pa : Nat) (bs : List Byte) (bad : List Nat) (a : Nat) :
    (s.devWrite pa bs bad false).mem.get a =
      if pa ≤ a ∧ a < pa + bs.length then s.storedByte false a (bs.getD (a - pa) 0) else s.mem.get a := by
  change ((s.l2Write pa bs.length).mem.writeMarked pa (bs.mapIdx fun i b => s.storedByte false (pa + i) b) bad).get a = _
  rw [Store.get_writeMarked, Store.get_write, List.length_mapIdx, (s.l2Write_caches pa bs.length).get]
  split
  · have hi : a - pa < bs.length := by omega
    simp [hi, Nat.add_sub_cancel' ‹pa ≤ a ∧ _›.1]
  · rfl

theorem State.devWrite_hostMem (s : State) (pa : Nat) (bs : List Byte) (bad : List Nat) :
    (s.devWrite pa bs bad false).hostMem = s.hostMem := (s.l2Write_caches pa bs.length).2.2.2.1

/-- A byte that no queue page and no pool page keeps apart is stored as it is written. -/
theorem State.storedByte_plain (s : State) (a : Nat) (b : Byte) (h1 : isCfgByte a = false) (h2 : isPageZero a = false)
    (h3 : isPoolZero a = false) : s.storedByte false a b = b := by
  simp [State.storedByte, h1, h2, h3]

/-! ## The pieces of a stored row (R269, R270) -/

/-- Where the page of a virtual address lies. -/
def pageOf (ps : List (Nat × Tgt)) (x : Nat) : Option Tgt := (ps.find? fun e => decide (e.1 / 65536 = x / 65536)).map Prod.snd

/-- The piece of `len` bytes that lies at `x`, all on one page, and at offset `off` in its row. -/
def pieceAt (ps : List (Nat × Tgt)) (x len off : Nat) : List (Tgt × Nat × Nat × Nat) :=
  match pageOf ps x with
  | some (.dev pa) => [(.dev (pa / 65536 * 65536 + x % 65536), x, off, len)]
  | some (.host pa) => [(.host (pa / 65536 * 65536 + x % 65536), x, off, len)]
  | _ => []

theorem vstPieces_eq (ps : List (Nat × Tgt)) (a n : Nat) :
    vstPieces ps a n = pieceAt ps a (min n (65536 - a % 65536)) 0 ++
      if min n (65536 - a % 65536) < n then
        pieceAt ps (a + min n (65536 - a % 65536)) (n - min n (65536 - a % 65536)) (min n (65536 - a % 65536)) else [] := by
  unfold vstPieces pieceAt pageOf
  dsimp only
  generalize min n (65536 - a % 65536) = first
  generalize (ps.find? fun e => decide (e.1 / 65536 = a / 65536)) = here
  generalize (ps.find? fun e => decide (e.1 / 65536 = (a + first) / 65536)) = there
  obtain _ | ⟨_, _ | _ | _⟩ := here <;> obtain _ | ⟨_, _ | _ | _⟩ := there <;> rfl

/-- The effect of writing `len` bytes to one page, from virtual address `x` on: they stand where the page lies, and no other byte changes. -/
structure PieceStored (s s' : State) (ps : List (Nat × Tgt)) (x len : Nat) (byte : Nat → Byte) : Prop where
  dev : ∀ i < len, ∀ pa, pageOf ps x = some (.dev pa) →
    s'.mem.get (pa / 65536 * 65536 + x % 65536 + i) = s.storedByte false (pa / 65536 * 65536 + x % 65536 + i) (byte i)
  host : ∀ i < len, ∀ pa, pageOf ps x = some (.host pa) → s'.hostMem.get (pa / 65536 * 65536 + x % 65536 + i) = byte i
  devElse : ∀ a, (∀ i < len, ∀ pa, pageOf ps x = some (.dev pa) → a ≠ pa / 65536 * 65536 + x % 65536 + i) → s'.mem.get a = s.mem.get a
  hostElse : ∀ a, (∀ i < len, ∀ pa, pageOf ps x = some (.host pa) → a ≠ pa / 65536 * 65536 + x % 65536 + i) →
    s'.hostMem.get a = s.hostMem.get a

theorem PieceStored.refl (s : State) (ps : List (Nat × Tgt)) (x : Nat) (byte : Nat → Byte) : PieceStored s s ps x 0 byte :=
  ⟨fun _ h => absurd h (Nat.not_lt_zero _), fun _ h => absurd h (Nat.not_lt_zero _), fun _ _ => rfl, fun _ _ => rfl⟩

theorem storeRow_append (s : State) (ps qs : List (Tgt × Nat × Nat × Nat)) (out : List Byte × List Nat) :
    s.storeRow (ps ++ qs) out [] = (s.storeRow ps out []).storeRow qs out [] := List.foldl_append

/-- One piece is written whole. -/
theorem storeRow_pieceAt (s : State) (ps : List (Nat × Tgt)) (x len off : Nat) (out : List Byte × List Nat) (h : off + len ≤ out.1.length) :
    PieceStored s (s.storeRow (pieceAt ps x len off) out []) ps x len fun i => out.1.getD (off + i) 0 := by
  have hlen : ((out.1.drop off).take len).length = len :=
    List.length_take_of_le (by rw [List.length_drop]; omega)
  have hget (i : Nat) (hi : i < len) : ((out.1.drop off).take len).getD i 0 = out.1.getD (off + i) 0 := by
    have : off + i < out.1.length := by omega
    simp [List.getD_eq_getElem?_getD, hi]
  unfold pieceAt
  split
  · rename_i pa hp
    refine ⟨fun i hi pa' h' => ?_, fun i hi pa' h' => ?_, fun a ha => ?_, fun a ha => ?_⟩
    · cases hp.symm.trans h'
      refine (State.devWrite_get ..).trans ?_
      rw [hlen, if_pos (by omega), Nat.add_sub_cancel_left, hget i hi]
    · cases hp.symm.trans h'
    · refine (State.devWrite_get ..).trans (if_neg fun hin => ?_)
      rw [hlen] at hin
      exact ha (a - (pa / 65536 * 65536 + x % 65536)) (by omega) pa hp (by omega)
    · exact congrArg (fun m => Store.get m a) (State.devWrite_hostMem ..)
  · rename_i pa hp
    refine ⟨fun i hi pa' h' => ?_, fun i hi pa' h' => ?_, fun a ha => rfl, fun a ha => ?_⟩
    · cases hp.symm.trans h'
    · cases hp.symm.trans h'
      exact (Store.get_writeMarked_of_lt s.hostMem _ i ((out.1.drop off).take len) _ (by omega)).trans (hget i hi)
    · refine Store.get_writeMarked_outside _ _ _ _ _ (Decidable.byContradiction fun hin => ?_)
      rw [hlen] at hin
      exact ha (a - (pa / 65536 * 65536 + x % 65536)) (by omega) pa hp (by omega)
  · rename_i hdev hhost
    exact ⟨fun i hi pa' h' => absurd h' (hdev pa'), fun i hi pa' h' => absurd h' (hhost pa'), fun _ _ => rfl, fun _ _ => rfl⟩

/-- The effect of writing `n` bytes of a row from virtual address `base` on (R269): each byte stands where its page lies, unless a queue
page or the pool page keeps it apart, and no other byte changes. -/
structure RowStored (s s' : State) (ps : List (Nat × Tgt)) (base n : Nat) (byte : Nat → Byte) : Prop where
  dev : ∀ j < n, ∀ pa, pageOf ps (base + j) = some (.dev pa) →
    let a := pa / 65536 * 65536 + (base + j) % 65536
    isCfgByte a = false → isPageZero a = false → isPoolZero a = false → s'.mem.get a = byte j
  host : ∀ j < n, ∀ pa, pageOf ps (base + j) = some (.host pa) → s'.hostMem.get (pa / 65536 * 65536 + (base + j) % 65536) = byte j
  devElse : ∀ a, (∀ j < n, ∀ pa, pageOf ps (base + j) = some (.dev pa) → a ≠ pa / 65536 * 65536 + (base + j) % 65536) →
    s'.mem.get a = s.mem.get a
  hostElse : ∀ a, (∀ j < n, ∀ pa, pageOf ps (base + j) = some (.host pa) → a ≠ pa / 65536 * 65536 + (base + j) % 65536) →
    s'.hostMem.get a = s.hostMem.get a

theorem RowStored.congr {s s' : State} {ps : List (Nat × Tgt)} {base n : Nat} {byte byte' : Nat → Byte}
    (h : RowStored s s' ps base n byte) (hb : ∀ j < n, byte j = byte' j) : RowStored s s' ps base n byte' :=
  ⟨fun j hj pa hp hc hz ho => (h.dev j hj pa hp hc hz ho).trans (hb j hj), fun j hj pa hp => (h.host j hj pa hp).trans (hb j hj),
    h.devElse, h.hostElse⟩

/-- Addresses on one page lie on it alike. -/
theorem pageOf_congr (ps : List (Nat × Tgt)) {x y : Nat} (h : x / 65536 = y / 65536) : pageOf ps x = pageOf ps y := by
  unfold pageOf; rw [h]

/-- Two pieces that meet at a page's end make up a row. They lie apart even on one frame: a row is far shorter than a page. -/
theorem RowStored.of_pieces {s s1 s2 : State} {ps : List (Nat × Tgt)} {base n first : Nat} {byte : Nat → Byte} (hn : n ≤ 256)
    (hf : first = min n (65536 - base % 65536)) (h1 : PieceStored s s1 ps base first byte)
    (h2 : PieceStored s1 s2 ps (base + first) (n - first) fun i => byte (first + i)) : RowStored s s2 ps base n byte := by
  have low (j : Nat) (hj : j < first) : pageOf ps (base + j) = pageOf ps base ∧
      ∀ p, p / 65536 * 65536 + (base + j) % 65536 = p / 65536 * 65536 + base % 65536 + j :=
    ⟨pageOf_congr ps (by omega), by omega⟩
  have high (i : Nat) (hi : i < n - first) : pageOf ps (base + (first + i)) = pageOf ps (base + first) ∧
      ∀ p, p / 65536 * 65536 + (base + (first + i)) % 65536 = p / 65536 * 65536 + (base + first) % 65536 + i :=
    ⟨pageOf_congr ps (by omega), by omega⟩
  have apart (p q j i : Nat) (hj : j < first) (hi : i < n - first) :
      p / 65536 * 65536 + base % 65536 + j ≠ q / 65536 * 65536 + (base + first) % 65536 + i := by omega
  have lowOrHigh (j : Nat) (hj : j < n) : j < first ∨ ∃ i < n - first, j = first + i := by
    by_cases h : j < first
    · exact .inl h
    · exact .inr ⟨j - first, by omega, by omega⟩
  refine ⟨fun j hj pa hp => ?_, fun j hj pa hp => ?_, fun a ha => ?_, fun a ha => ?_⟩
  · intro a hc hz ho
    obtain hj | ⟨i, hi, rfl⟩ := lowOrHigh j hj
    · have e : a = _ := (low j hj).2 pa
      rw [(low j hj).1] at hp
      rw [e] at hc hz ho ⊢
      rw [h2.devElse _ fun i hi q _ => apart pa q j i hj hi, h1.dev j hj pa hp, State.storedByte_plain _ _ _ hc hz ho]
    · have e : a = _ := (high i hi).2 pa
      rw [(high i hi).1] at hp
      rw [e] at hc hz ho ⊢
      rw [h2.dev i hi pa hp, State.storedByte_plain _ _ _ hc hz ho]
  · obtain hj | ⟨i, hi, rfl⟩ := lowOrHigh j hj
    · rw [(low j hj).1] at hp
      rw [(low j hj).2, h2.hostElse _ fun i hi q _ => apart pa q j i hj hi, h1.host j hj pa hp]
    · rw [(high i hi).1] at hp
      rw [(high i hi).2, h2.host i hi pa hp]
  · rw [h2.devElse a fun i hi pa hp => ?_, h1.devElse a fun j hj pa hp => ?_]
    · rw [← (low j hj).2]
      exact ha j (by omega) pa ((low j hj).1.trans hp)
    · rw [← (high i hi).2]
      exact ha (first + i) (by omega) pa ((high i hi).1.trans hp)
  · rw [h2.hostElse a fun i hi pa hp => ?_, h1.hostElse a fun j hj pa hp => ?_]
    · rw [← (low j hj).2]
      exact ha j (by omega) pa ((low j hj).1.trans hp)
    · rw [← (high i hi).2]
      exact ha (first + i) (by omega) pa ((high i hi).1.trans hp)

/-- A row of a VST that has written no part yet goes to the pages that its issue translated. -/
theorem rowStored_storeRow (s : State) (ps : List (Nat × Tgt)) (base : Nat) (out : List Byte × List Nat) (hn : out.1.length ≤ 256) :
    RowStored s (s.storeRow (vstPieces ps base out.1.length) out []) ps base out.1.length fun j => out.1.getD j 0 := by
  rw [vstPieces_eq]
  generalize hf : min out.1.length (65536 - base % 65536) = first
  have hle : first ≤ out.1.length := hf ▸ Nat.min_le_left ..
  rw [storeRow_append]
  refine .of_pieces hn hf.symm ?_ (s1 := s.storeRow (pieceAt ps base first 0) out []) ?_
  · simpa using storeRow_pieceAt s ps base first 0 out (by omega)
  · split
    · exact storeRow_pieceAt _ ps _ _ first out (by omega)
    · rw [Nat.sub_eq_zero_of_le (by omega)]
      exact .refl ..

/-- The bytes of a row that a VST reads: rounded from `cbuf`, copied from `abuf` (R269). -/
def VOp.stored (v : VOp) (k : Block) (r j : Nat) : Byte :=
  if v.sa = .cbuf then BitVec.ofNat 8 (round (v.elem k r .cbuf v.a (j / (v.fmt.n / 8))) v.fmt v.rm 0 v.sat / 256 ^ (j % (v.fmt.n / 8)))
  else (k.store v.half .abuf).get (v.a + r * 64 * (v.fmt.n / 8) + j)

section
variable {s : State} {v : VOp} {k : Block} (hk : s.block? v.bid = some k) (hf : v.fmt ∈ [Fmt.f32, .f16, .bf16])
include hk

omit hf in
theorem vstRow_abuf (r : Nat) (hs : v.sa = .abuf) :
    (vstRow v (s.engineBuf v.bid v.half v.sa) r).1 =
      (k.store v.half .abuf).readBytes (v.a + r * 64 * (Fmt.n v.fmt / 8)) (rowBytes v.fmt) := by
  rw [hs, State.engineBuf_of_block hk, Nat.mul_assoc]
  simp [vstRow, hs, rowFmt, rowBytes]

include hf

theorem vstRow_cbuf (r : Nat) (hs : v.sa = .cbuf) :
    (vstRow v (s.engineBuf v.bid v.half v.sa) r).1 =
      packElems v.fmt ((List.range 64).map fun i => round (v.elem k r .cbuf v.a i) v.fmt v.rm 0 v.sat) := by
  obtain ⟨bad, h⟩ := readRow_operand hk hf r v.sa v.a
  rw [vstRow, if_pos (by simp [hs]), h, packRow, List.map_map, hs]
  rfl

theorem vstRow_stored (r : Nat) (hsa : v.sa ∈ [Space.abuf, .cbuf]) :
    (vstRow v (s.engineBuf v.bid v.half v.sa) r).1.length = rowBytes v.fmt ∧
      ∀ j < rowBytes v.fmt, (vstRow v (s.engineBuf v.bid v.half v.sa) r).1.getD j 0 = v.stored k r j := by
  have hn := n_of_rowFmt _ hf
  unfold VOp.stored
  have hs : v.sa = .abuf ∨ v.sa = .cbuf := by simpa using hsa
  obtain hs | hs := hs
  · rw [vstRow_abuf hk r hs, hs]
    exact ⟨Store.length_readBytes .., fun j hj => Store.getD_readBytes _ _ _ _ hj⟩
  · rw [vstRow_cbuf hk hf r hs, hs]
    have hlen := length_packElems_of_bytes hn ((List.range 64).map fun i => round (v.elem k r .cbuf v.a i) v.fmt v.rm 0 v.sat)
    rw [List.length_map, List.length_range] at hlen
    refine ⟨hlen, fun j hj => ?_⟩
    have hi : j / (Fmt.n v.fmt / 8) < 64 := Nat.div_lt_of_lt_mul (by rwa [Nat.mul_comm])
    rw [getD_packElems hn (roundedRow_lt _ _ _ _) j (by simpa [rowBytes] using hj)]
    simp [hi]

omit hk hf in
/-- A row is at most 64 elements of 4 bytes. -/
theorem rowBytes_le : ∀ f ∈ [Fmt.f32, .f16, .bf16], rowBytes f ≤ 256 := by decide

/-- A row of a VST that has begun none of it is stored when the lines it goes to are free (R237, R269). -/
theorem vecRow_st (c r : Nat) {stride : Nat} {ps : List (Nat × Tgt)} (hfn : v.fn = .st stride ps) (hparts : v.parts = [])
    (hrow : v.row = none) (hsa : v.sa ∈ [Space.abuf, .cbuf])
    (hready : s.vstReady v.uid (vstPieces ps (v.d + r * stride) (rowBytes v.fmt)) = true) :
    ∃ s', s.vecRow c v r = some s' ∧ RowStored s s' ps (v.d + r * stride) (rowBytes v.fmt) (v.stored k r) := by
  obtain ⟨hlen, hbyte⟩ := vstRow_stored hk hf r hsa
  have hout : s.vstOut v r = vstRow v (s.engineBuf v.bid v.half v.sa) r := by rw [State.vstOut, hrow, Option.getD_none]
  generalize vstRow v (s.engineBuf v.bid v.half v.sa) r = out at hlen hbyte hout
  have hsize : rowBytes v.fmt ≤ 256 := rowBytes_le _ hf
  have h := rowStored_storeRow s ps (v.d + r * stride) out (hlen ▸ hsize)
  rw [hlen] at h
  have hstored := h.congr hbyte
  have hstep : s.vecRow c v r = some (if out.2.isEmpty then s.storeRow (vstPieces ps (v.d + r * stride) (rowBytes v.fmt)) out []
      else (s.storeRow (vstPieces ps (v.d + r * stride) (rowBytes v.fmt)) out []).mstatSet c 5) := by
    unfold State.vecRow
    rw [hfn]
    dsimp only
    rw [if_pos hready, hout, hparts]
  refine ⟨_, hstep, ?_⟩
  split
  · exact hstored
  · exact ⟨hstored.dev, hstored.host, hstored.devElse, hstored.hostElse⟩

end

end Sys2Proof.Machine
end

section
/-! SUPPORT. The rows of a tile vector operation in turn, its end, and the statement on tile vector operations (R238, R266, R271). -/

namespace Sys2Proof.Machine

/-! ## The rows of an operation (R266, R271) -/

/-- A vector operation after `n` more of its rows. -/
def VOp.advance (v : VOp) (n : Nat) : VOp :=
  { v with done := min v.rows (v.done + n), parts := if 0 < n ∧ v.done < v.rows then [] else v.parts,
           row := if 0 < n ∧ v.done < v.rows then none else v.row }

theorem VOp.advance_of_done {v : VOp} (h : v.rows = v.done) (n : Nat) : v.advance n = v := by
  have hd : min v.rows (v.done + n) = v.done := by omega
  have hn : ¬ (0 < n ∧ v.done < v.rows) := by omega
  simp only [VOp.advance, hd, if_neg hn]

/-- The first row, and then `n` more. -/
theorem VOp.advance_row {v : VOp} (h : v.done < v.rows) (n : Nat) :
    ({ v with done := v.done + 1, parts := [], row := none } : VOp).advance n = v.advance (n + 1) := by
  have hd : min v.rows (v.done + 1 + n) = min v.rows (v.done + (n + 1)) := by omega
  simp only [VOp.advance, hd, ite_self, if_pos (And.intro (Nat.succ_pos n) h)]

/-- A row of any operation but VST is performed at once and leaves the queue of its core. -/
theorem vecRow_vq (s : State) (c r : Nat) (v : VOp) (h : ∀ stride ps, v.fn ≠ .st stride ps) :
    ∃ s', s.vecRow c v r = some s' ∧ (s'.core c).vq = (s.core c).vq := by
  unfold State.vecRow
  split
  · exact ⟨_, rfl, State.vecWrite_vq ..⟩
  · exact ⟨_, rfl, State.vecWrite_vq ..⟩
  · refine ⟨_, rfl, ?_⟩
    split
    · rw [State.mstatSet_vq, State.vecWrite_vq]
    · exact State.vecWrite_vq ..
  · exact absurd ‹_› (h _ _)
  · exact ⟨_, rfl, State.vecWrite_vq ..⟩

/-- Running rows advances the head of the queue and leaves what follows it. -/
theorem vecRows_vq (n : Nat) (s : State) (c : Nat) (v : VOp) (rest : List VOp) (hq : (s.core c).vq = v :: rest)
    (hd : v.done ≤ v.rows) (h : ∀ stride ps, v.fn ≠ .st stride ps) : ((s.vecRows c v n).core c).vq = v.advance n :: rest := by
  induction n generalizing s v with
  | zero => simp [State.vecRows, hq, VOp.advance, hd]
  | succ n ih =>
    unfold State.vecRows
    split
    · rw [hq, VOp.advance_of_done (Nat.le_antisymm ‹_› hd)]
    · obtain ⟨s', hs', hq'⟩ := vecRow_vq s c v.done v h
      rw [hs', ← VOp.advance_row (by omega)]
      refine ih _ _ ?_ (Nat.lt_of_not_le ‹_›) h
      rw [State.setCore_core, Core.bump, hq', hq]
      rfl

theorem rowsNow_of_enginesRun {s : State} {c : Nat} (h : s.enginesRun c = true) (v : VOp) (n : Nat) : s.rowsNow c v n = n := by
  rw [State.rowsNow, if_pos h]

/-- What VECTOR_OP_EXECUTE does while the engines run and the head's issuer has performed what comes before it (R238, R266). -/
theorem execVectorOpExecute_runs {s : State} {c n : Nat} {v : VOp} {rest : List VOp} (hq : (s.core c).vq = v :: rest)
    (hrun : s.enginesRun c = true) (hclear : s.issuerClear c v.slot v.bid v.uid = true) (hn : 0 < n) {v' : VOp} {rest' : List VOp}
    (hq' : ((s.vecRows c v n).core c).vq = v' :: rest') :
    exec (.vectorOpExecute c n) s = .next (
      let s1 := s.vecRows c v n
      if v'.rows ≤ v'.done then
        (s1.setCore c { s1.core c with vq := rest' }).engineDone c v'.slot v'.uid v'.bid (s1.vecScope c v')
      else s1) := by
  change execVectorOpExecute c n s = _
  unfold execVectorOpExecute
  rw [hq]
  dsimp only
  have hn0 : n ≠ 0 := by omega
  rw [rowsNow_of_enginesRun hrun, hclear, if_neg (by simp [hn0]), hq']
  dsimp only
  split <;> rfl

/-- Settles O29: the row of each operation from its lemma above, and the end of an operation from how its rows advance the queue's head. -/
theorem vectorOperationsPerform : Obligations.VectorOperationsPerform := by
  refine ⟨fun s c r v k hk => ⟨fun _ _ _ _ hf => ?_, fun hsd _ => ?_, ?_⟩, ?_⟩
  · have row {out : Nat → XR} {fn : VFun} := rowWritten_of_fn hk hf c r (out := out) (fn := fn)
    exact ⟨fun h => row h rfl fun _ => rfl, fun h => row h rfl fun _ => rfl, fun h => row h rfl fun _ => rfl,
      fun h => row h rfl fun _ => rfl, fun h => row h rfl fun _ => rfl, fun h => row h rfl fun _ => rfl,
      fun h => row h rfl fun _ => rfl, fun h => row h rfl fun _ => rfl, fun h => row h rfl fun _ => rfl,
      fun h => row h rfl fun _ => rfl, fun _ h => row h rfl fun _ => rfl, fun h => row h rfl fun _ => rfl,
      fun h => row h rfl fun _ => rfl, scalarWritten_rmax hk hf c r, scalarWritten_rsum hk hf c r⟩
  · exact ⟨vecRow_cvt_plain hk c r hsd, vecRow_cvt_scaled hk c r hsd⟩
  · intro stride ps hfn hparts hrow hsa hf w base byte place off hready
    obtain ⟨s', hs', hst⟩ := vecRow_st hk hf c r hfn hparts hrow hsa hready
    exact ⟨s', hs', fun j hj => ⟨hst.host j hj, hst.dev j hj⟩, hst.devElse, hst.hostElse⟩
  · intro s c n v rest hq hrun hclear hn s1 v' rest' hq'
    have hexec := execVectorOpExecute_runs hq hrun hclear hn hq'
    refine ⟨fun hd => hexec.trans (by rw [if_pos hd]), fun hd => hexec.trans (by rw [if_neg (by omega)]), fun hd hst => ?_⟩
    have := hq'.symm.trans (vecRows_vq n s c v rest hq hd hst)
    obtain ⟨rfl, rfl⟩ := List.cons.inj this
    simp [VOp.advance, hn]

end Sys2Proof.Machine
end

section
/-! SUPPORT. What the moves of cores, of the memory system and of the Ladles never touch: the launches, what retired blocks left in their cores, and
the command queues. -/

namespace Sys2Proof.Machine

/-- The launches, what retired blocks left, and the command queues' execution states. -/
def State.launchSide (s : State) : List Launch × List Saved × FMap LQ := (s.launches, s.finals, s.lqs)

theorem launches_of_launchSide {s s' : State} (h : s'.launchSide = s.launchSide) : s'.launches = s.launches := congrArg Prod.fst h
theorem finals_of_launchSide {s s' : State} (h : s'.launchSide = s.launchSide) : s'.finals = s.finals := congrArg (·.2.1) h
theorem lqs_of_launchSide {s s' : State} (h : s'.launchSide = s.launchSide) : s'.lqs = s.lqs := congrArg (·.2.2) h

/-- A fold whose every step keeps them keeps them. -/
theorem foldl_launchSide {α : Type} {f : State → α → State} (h : ∀ s a, (f s a).launchSide = s.launchSide) (l : List α) (s : State) :
    (l.foldl f s).launchSide = s.launchSide := by
  induction l generalizing s with
  | nil => rfl
  | cons a l ih => exact (ih _).trans (h s a)

/-! ## Setters -/

@[simp] theorem State.setCore_launchSide (s : State) (c : Nat) (k : Core) : (s.setCore c k).launchSide = s.launchSide := rfl
@[simp] theorem State.setThread_launchSide (s : State) (c t : Nat) (th : Thread) : (s.setThread c t th).launchSide = s.launchSide := rfl
@[simp] theorem State.setCtx_launchSide (s : State) (i : Nat) (x : Ctx) : (s.setCtx i x).launchSide = s.launchSide := rfl
@[simp] theorem State.setBlock_launchSide (s : State) (k : Block) : (s.setBlock k).launchSide = s.launchSide := rfl
@[simp] theorem State.setStream_launchSide (s : State) (l k : Nat) (y : Stream) : (s.setStream l k y).launchSide = s.launchSide := rfl
@[simp] theorem State.setChan_launchSide (s : State) (c ch : Nat) (x : Chan) : (s.setChan c ch x).launchSide = s.launchSide := rfl
@[simp] theorem State.unstage_launchSide (s : State) (l k : Nat) : (s.unstage l k).launchSide = s.launchSide := rfl
@[simp] theorem State.freeStream_launchSide (s : State) (l k : Nat) : (s.freeStream l k).launchSide = s.launchSide := rfl
@[simp] theorem State.relSlots_launchSide (s : State) (c ch n : Nat) : (s.relSlots c ch n).launchSide = s.launchSide := rfl
@[simp] theorem State.l1Invalidate_launchSide (s : State) (c : Nat) : (s.l1Invalidate c).launchSide = s.launchSide := rfl
@[simp] theorem State.leaveGang_launchSide (s : State) (c t : Nat) : (s.leaveGang c t).launchSide = s.launchSide := rfl
@[simp] theorem State.closeReceipts_launchSide (s : State) (ctx launch : Nat) (lo hi : Word) :
    (s.closeReceipts ctx launch lo hi).launchSide = s.launchSide := rfl
@[simp] theorem State.escalate_launchSide (s : State) (c t : Nat) (th : Thread) (n : Bool) (f : Flt) (at_ : Site) :
    (s.escalate c t th n f at_).launchSide = s.launchSide := rfl

@[simp] theorem State.mapThread_launchSide (s : State) (c t : Nat) (f : Thread → Thread) : (s.mapThread c t f).launchSide = s.launchSide := by
  simp [State.launchSide]

@[simp] theorem State.noteRecall_launchSide (s : State) (skip : Skip) (pa n : Nat) : (s.noteRecall skip pa n).launchSide = s.launchSide := by
  simp [State.launchSide]

/-! ## The memory system -/

@[simp] theorem State.evictSector_launchSide (s : State) (n : Nat) : (s.evictSector n).launchSide = s.launchSide := by
  unfold State.evictSector; split <;> rfl

@[simp] theorem State.l2Room_launchSide (s : State) (line : Nat) : (s.l2Room line).launchSide = s.launchSide := by
  unfold State.l2Room
  dsimp only
  split
  · rfl
  · exact foldl_launchSide (fun s i => s.evictSector_launchSide _) _ s

@[simp] theorem State.l2Alloc_launchSide (s : State) (pa : Nat) : (s.l2Alloc pa).launchSide = s.launchSide := by
  unfold State.l2Alloc
  split
  · rfl
  · exact s.l2Room_launchSide _

@[simp] theorem State.l2ReadSector_launchSide (s : State) (pa n : Nat) : (s.l2ReadSector pa n).launchSide = s.launchSide := by
  refine Eq.trans ?_ (s.l2Alloc_launchSide pa)
  unfold State.l2ReadSector
  dsimp only
  split
  · split <;> rfl
  · rfl

@[simp] theorem State.l2Read_launchSide (s : State) (pa n : Nat) : (s.l2Read pa n).launchSide = s.launchSide :=
  foldl_launchSide (f := fun s (e : Nat × Nat) => s.l2ReadSector e.1 e.2) (fun s e => s.l2ReadSector_launchSide e.1 e.2) _ s

@[simp] theorem State.l2WriteSector_launchSide (s : State) (pa n : Nat) : (s.l2WriteSector pa n).launchSide = s.launchSide := by
  have h0 : (if (FMap.find? s.l2 (pa / 64)).isSome then s.sliceBump (sliceOf pa) 0 1 else s).launchSide = s.launchSide := by split <;> rfl
  refine Eq.trans ?_ ((State.l2Alloc_launchSide _ pa).trans h0)
  unfold State.l2WriteSector
  dsimp only
  split <;> rfl

@[simp] theorem State.l2Write_launchSide (s : State) (pa n : Nat) : (s.l2Write pa n).launchSide = s.launchSide :=
  foldl_launchSide (f := fun s (e : Nat × Nat) => s.l2WriteSector e.1 e.2) (fun s e => s.l2WriteSector_launchSide e.1 e.2) _ s

@[simp] theorem State.walked_launchSide (s : State) (ctx : Nat) (va : Dword) : (s.walked ctx va).launchSide = s.launchSide := by
  unfold State.walked
  split
  · rfl
  · dsimp only
    split
    · rfl
    · exact (State.l2Read_launchSide _ _ 8).trans (foldl_launchSide (fun s e => s.l2Read_launchSide e 8) _ s)

/-- A write that only the host and the Lanterns may make is no write of a thread or an engine. -/
@[simp] theorem State.devWrite_launchSide (s : State) (pa : Nat) (bs : List Byte) (bad : List Nat) :
    (s.devWrite pa bs bad false).launchSide = s.launchSide := s.l2Write_launchSide pa bs.length

@[simp] theorem State.l1Update_launchSide (s : State) (c pa n : Nat) : (s.l1Update c pa n).launchSide = s.launchSide := by
  refine foldl_launchSide (fun s e => ?_) _ s
  split <;> rfl

@[simp] theorem State.writeHome_launchSide (s : State) (c : Nat) (b : Bid) (t : Tgt) (bs : List Byte) (bad : List Nat) :
    (s.writeHome c b t bs bad).launchSide = s.launchSide := by
  unfold State.writeHome
  split
  · exact s.devWrite_launchSide ..
  · rfl
  · split <;> rfl

@[simp] theorem State.writeTgt_launchSide (s : State) (c : Nat) (b : Bid) (t : Tgt) (bs : List Byte) (bad : List Nat) :
    (s.writeTgt c b t bs bad).launchSide = s.launchSide := by
  unfold State.writeTgt; split <;> simp

@[simp] theorem State.putPages_launchSide (s : State) (c : Nat) (b : Bid) (bytes : List Byte) (ps : List (Nat × Tgt)) :
    (s.putPages c b bytes ps).launchSide = s.launchSide := by
  induction ps generalizing s with
  | nil => rfl
  | cons p ps ih => exact (ih _).trans (s.writeTgt_launchSide ..)

@[simp] theorem State.writeCk_launchSide (s : State) (c t : Nat) : (s.writeCk c t).launchSide = s.launchSide := by
  unfold State.writeCk
  split
  · rfl
  · split
    · rfl
    · split <;> simp

/-! ## Faults and wakes -/

@[simp] theorem State.takeFault_launchSide (s : State) (c t : Nat) (f : Flt) (at_ : Site) : (s.takeFault c t f at_).launchSide = s.launchSide := by
  unfold State.takeFault
  split
  · rfl
  · rename_i th _
    have h0 : (s.faultWalk th f).launchSide = s.launchSide := by
      dsimp only [State.faultWalk]
      split <;> split <;> simp
    have h1 : ((s.faultWalk th f).vectorRead th.ctx f.code).launchSide = s.launchSide := by
      unfold State.vectorRead
      split <;> simp [h0]
    dsimp only
    split
    · simp [h0]
    · split
      · simp [h0]
      · split
        · simp [State.awaitVector]
        · split <;> simp [h1]

@[simp] theorem State.wake_launchSide (s : State) (c t : Nat) : (s.wake c t).launchSide = s.launchSide := s.mapThread_launchSide ..

@[simp] theorem State.wakeNext_launchSide (s : State) (c t : Nat) : (s.wakeNext c t).launchSide = s.launchSide := s.wake_launchSide c t

@[simp] theorem State.returnAcq_launchSide (s : State) (c : Nat) (th : Thread) (sc : Scope) : (s.returnAcq c th sc).launchSide = s.launchSide := by
  unfold State.returnAcq; split <;> rfl

@[simp] theorem State.wakeAcq_launchSide (s : State) (c t : Nat) (th : Thread) (sc : Scope) : (s.wakeAcq c t th sc).launchSide = s.launchSide := by
  simp [State.wakeAcq]

/-! ## Crew masks (R177, R178, R181) -/

@[simp] theorem State.setMask_launchSide (s : State) (b : Bid) (crew m : Nat) (x : Mask) : (s.setMask b crew m x).launchSide = s.launchSide := by
  unfold State.setMask; split <;> rfl

@[simp] theorem State.arrive_launchSide (s : State) (c t : Nat) (th : Thread) (m : Nat) (v : Word) (p : Bool) :
    (s.arrive c t th m v p).launchSide = s.launchSide := by
  unfold State.arrive; dsimp only; split <;> simp

@[simp] theorem State.testMask_launchSide (s : State) (c : Nat) (b : Bid) (crew m : Nat) : (s.testMask c b crew m).launchSide = s.launchSide := by
  unfold State.testMask
  split
  · exact (foldl_launchSide (fun s t => s.wakeNext_launchSide c t) _ _).trans (s.setMask_launchSide ..)
  · rfl

@[simp] theorem State.deadlockThread_launchSide (s : State) (c : Nat) (e : Nat × Thread) : (s.deadlockThread c e).launchSide = s.launchSide := by
  unfold State.deadlockThread; split <;> simp

@[simp] theorem State.settleCrew_launchSide (s : State) (c : Nat) (b : Bid) (crew : Nat) : (s.settleCrew c b crew).launchSide = s.launchSide := by
  have h := foldl_launchSide (fun s m => s.testMask_launchSide c b crew m) (List.range 12) s
  unfold State.settleCrew
  dsimp only
  split
  · exact (foldl_launchSide (fun s e => s.deadlockThread_launchSide c e) _ _).trans h
  · exact h

@[simp] theorem State.settleMasks_launchSide (s : State) (c : Nat) : (s.settleMasks c).launchSide = s.launchSide :=
  foldl_launchSide (f := fun s (e : Bid × Nat) => s.settleCrew c e.1 e.2) (fun s e => s.settleCrew_launchSide c e.1 e.2) _ s

/-! ## Barriers, rings, tokens and channels (R333, R359, R404 to R408) -/

@[simp] theorem State.updateTbar_launchSide (s : State) (b : Bid) (a : Nat) (f : TBar → TBar) : (s.updateTbar b a f).launchSide = s.launchSide := by
  have hput (r : TBar) : (s.putTbar b a r).launchSide = s.launchSide := by unfold State.putTbar; split <;> rfl
  unfold State.updateTbar
  dsimp only
  split
  · exact hput _
  · refine (foldl_launchSide (fun s e => ?_) _ _).trans (hput _)
    split
    · split <;> simp
    · rfl

@[simp] theorem State.setBarrier_launchSide (s : State) (b : Bid) (k : Nat) (v : Barrier) : (s.setBarrier b k v).launchSide = s.launchSide := by
  unfold State.setBarrier; split <;> rfl

@[simp] theorem State.barAdd_launchSide (s : State) (th : Thread) (k : Nat) : (s.barAdd th k).launchSide = s.launchSide := s.setBarrier_launchSide ..

@[simp] theorem State.barArrive_launchSide (s : State) (c t : Nat) (th : Thread) (k : Nat) (arv : Bool) :
    (s.barArrive c t th k arv).launchSide = s.launchSide := by
  unfold State.barArrive
  split
  · simp
  · split <;> simp

@[simp] theorem State.releaseBar_launchSide (s : State) (b : Bid) (k : Nat) : (s.releaseBar b k).launchSide = s.launchSide := by
  refine (foldl_launchSide (fun s e => ?_) _ _).trans (s.setBarrier_launchSide ..)
  split
  · split <;> simp
  · split
    · split <;> simp
    · rfl
  · rfl

@[simp] theorem State.settleBars_launchSide (s : State) (c : Nat) : (s.settleBars c).launchSide = s.launchSide :=
  foldl_launchSide (fun s b => foldl_launchSide (fun s k => by unfold State.testBar; dsimp only; split <;> simp) _ s) _ s

@[simp] theorem State.ringPost_launchSide (s : State) (b : Bid) (q slots i : Nat) : (s.ringPost b q slots i).launchSide = s.launchSide := by
  unfold State.ringPost
  split
  · rfl
  · refine (foldl_launchSide (fun s e => ?_) _ _).trans (s.setBlock_launchSide _)
    split
    · split <;> simp
    · rfl

@[simp] theorem State.serveTokens_launchSide (s : State) (ctx n : Nat) : (s.serveTokens ctx n).launchSide = s.launchSide := by
  induction n generalizing s with
  | zero => rfl
  | succ n ih =>
    unfold State.serveTokens
    split
    · simp [ih]
    · split
      · exact ih _
      · rfl
    · rfl

@[simp] theorem State.tokenAdd_launchSide (s : State) (ctx t : Nat) : (s.tokenAdd ctx t).launchSide = s.launchSide :=
  (State.serveTokens_launchSide ..).trans (s.setCtx_launchSide ..)

@[simp] theorem State.testChan_launchSide (s : State) (c ch : Nat) : (s.testChan c ch).launchSide = s.launchSide := by
  refine foldl_launchSide (fun s e => ?_) _ s
  split
  · split
    · dsimp only
      split <;> simp
    · rfl
  · rfl

/-! ## What follows a completion (R176, R404, R406, R407) -/

@[simp] theorem State.doAct_launchSide (s : State) (c : Nat) (th : Thread) (a : RelAct) : (s.doAct c th a).launchSide = s.launchSide := by
  cases a <;> simp [State.doAct]

@[simp] theorem State.runActs_launchSide (s : State) (c t n : Nat) : (s.runActs c t n).launchSide = s.launchSide := by
  induction n generalizing s with
  | zero => rfl
  | succ n ih =>
    unfold State.runActs
    split
    · rfl
    · split
      · rfl
      · split
        · simp [ih]
        · rfl

@[simp] theorem State.threadHook_launchSide (s : State) (c t : Nat) : (s.threadHook c t).launchSide = s.launchSide := by
  have h := s.runActs_launchSide c t (((s.thread? c t).map fun th => th.ops.length).getD 0)
  unfold State.threadHook
  generalize s.runActs c t (((s.thread? c t).map fun th => th.ops.length).getD 0) = s1 at h ⊢
  dsimp only
  split
  · exact h
  · rename_i th _
    refine (State.writeCk_launchSide ..).trans ?_
    cases th.status with
    | blocked w =>
      cases w with
      | bar k stage arv => cases stage <;> simp [apply_ite State.launchSide, h]
      | _ => simp [apply_ite State.launchSide, h]
    | parked p => cases p <;> simp [apply_ite State.launchSide, h]
    | _ => exact h

@[simp] theorem State.after_launchSide (s : State) (c : Nat) (ts : List Nat) : (s.after c ts).launchSide = s.launchSide := by
  have h := foldl_launchSide (fun s t => s.threadHook_launchSide c t) ts s
  unfold State.after
  dsimp only
  split
  · simp [State.settle, h]
  · exact h

/-! ## Streams (R321, R326, R329, R330) -/

@[simp] theorem State.startDone_launchSide (s : State) (y : Stream) : (s.startDone y).launchSide = s.launchSide := by
  unfold State.startDone
  split
  · rfl
  · split
    · rfl
    · dsimp only
      split
      · rfl
      · split <;> simp

@[simp] theorem State.disown_launchSide (s : State) (l k : Nat) (err : Bool) : (s.disown l k err).launchSide = s.launchSide := by
  refine foldl_launchSide (fun s c => foldl_launchSide (fun s e => ?_) _ s) _ s
  split
  · dsimp only
    split <;> simp
  · rfl

@[simp] theorem State.endStream_launchSide (s : State) (l k : Nat) (st : StreamSt) (err : Nat) :
    (s.endStream l k st err).launchSide = s.launchSide := by simp [State.endStream]

@[simp] theorem State.deliverTo_launchSide (s : State) (y : Stream) (d : LDst) (e : Emit) (c : Nat) :
    (s.deliverTo y d e c).launchSide = s.launchSide := by
  have hbuf (b : Bid) (half : Nat) (sp : Space) (m : Store) : (s.setEngineBuf b half sp m).launchSide = s.launchSide := by
    unfold State.setEngineBuf; split <;> rfl
  simp [State.deliverTo, State.deliver, hbuf]

@[simp] theorem State.writeNext_launchSide (s : State) (l k : Nat) (y : Stream) (x : LSrc) (d : LDst) (e : Emit) (i : Nat) :
    (s.writeNext l k y x d e i).launchSide = s.launchSide := by
  unfold State.writeNext
  dsimp only
  split
  · rfl
  · split
    · simp [State.streamErr]
    · split
      · simp
      · rw [State.setStream_launchSide]
        split <;> simp

@[simp] theorem State.finishRow_launchSide (s : State) (l k n : Nat) : (s.finishRow l k n).launchSide = s.launchSide := by
  induction n generalizing s with
  | zero => rfl
  | succ n ih =>
    unfold State.finishRow
    dsimp only
    split
    · split
      · simp [ih]
      · rfl
    · rfl

@[simp] theorem State.stopStream_launchSide (s : State) (l k : Nat) : (s.stopStream l k).launchSide = s.launchSide := by
  unfold State.stopStream; dsimp only; split <;> simp

@[simp] theorem State.disownWaiting_launchSide (s : State) (u : SavedStream) : (s.disownWaiting u).launchSide = s.launchSide := by
  refine foldl_launchSide (fun s r => ?_) _ s
  split <;> rfl

@[simp] theorem State.endStreams_launchSide (s : State) (b : Bid) : (s.endStreams b).launchSide = s.launchSide := by
  refine (foldl_launchSide (fun s e => ?_) _ _).trans (foldl_launchSide (fun s u => s.disownWaiting_launchSide u) _ s)
  split
  · dsimp only
    split <;> simp
  · rfl

@[simp] theorem State.unbind_launchSide (s : State) (b : Bid) (cs : List Nat) : (s.unbind b cs).launchSide = s.launchSide := by
  refine foldl_launchSide (fun s c => foldl_launchSide (fun s e => ?_) _ s) _ s
  split <;> rfl

end Sys2Proof.Machine
end

section
/-! SUPPORT. The events of launches: placing the last block, retirement, completion and the release sequencer (R29 to R31, R241, R286, R287, R411). -/

namespace Sys2Proof.Machine

theorem State.launch?_uid {s : State} {u : Nat} {l : Launch} (h : s.launch? u = some l) : l.uid = u := by
  simpa using List.find?_some h

/-- A launch that is replaced is found again under its number. -/
theorem State.launch?_setLaunch {s : State} {u : Nat} {l : Launch} (h : s.launch? u = some l) (l' : Launch) (hu : l'.uid = u) :
    (s.setLaunch l').launch? u = some l' := by
  subst hu
  simp only [State.launch?, State.setLaunch, List.find?_map] at h ⊢
  have hp : ((fun l : Launch => decide (l.uid = l'.uid)) ∘ fun x => if x.uid = l'.uid then l' else x) =
      fun l : Launch => decide (l.uid = l'.uid) := by
    funext x
    by_cases hx : x.uid = l'.uid <;> simp [hx]
  have hl : l.uid = l'.uid := State.launch?_uid h
  rw [hp, h]
  simp [hl]

/-! ## The place of a block (R29) -/

/-- The core at which the dispatcher looks in place `i` of its round. -/
def Launch.coreAt (l : Launch) (i : Nat) : Nat := l.first + (l.cursor - l.first + i) % l.count

/-- Whether a core, or the twin that begins with it, takes a new block of a launch. -/
def State.Admits (s : State) (l : Launch) (c : Nat) : Prop :=
  s.takes c l.ctx l.desc 0 none = true ∧
    (l.desc.twin = true → c % 2 = 0 ∧ c + 1 < l.first + l.count ∧ s.takes (c + 1) l.ctx l.desc 1 none = true)

/-- The search of `findCore`, as the proposition that it decides. -/
theorem State.admits_iff (s : State) (l : Launch) (c : Nat) :
    (if l.desc.twin then
        c % 2 == 0 && decide (c + 1 < l.first + l.count) && s.takes c l.ctx l.desc 0 none && s.takes (c + 1) l.ctx l.desc 1 none
      else s.takes c l.ctx l.desc 0 none) = true ↔ s.Admits l c := by
  unfold State.Admits
  by_cases h : l.desc.twin = true
  · rw [if_pos h]
    simp only [Bool.and_eq_true, beq_iff_eq, decide_eq_true_eq]
    constructor
    · rintro ⟨⟨⟨heven, hin⟩, hcold⟩, hodd⟩
      exact ⟨hcold, fun _ => ⟨heven, hin, hodd⟩⟩
    · rintro ⟨hcold, htwin⟩
      obtain ⟨heven, hin, hodd⟩ := htwin h
      exact ⟨⟨⟨heven, hin⟩, hcold⟩, hodd⟩
  · rw [if_neg h]
    exact ⟨fun hcold => ⟨hcold, fun ht => absurd ht h⟩, And.left⟩

/-- The first of a round that satisfies a test. -/
theorem find?_round_eq_some {n c : Nat} {f : Nat → Nat} {p : Nat → Bool} :
    ((List.range n).map f).find? p = some c ↔ ∃ i, i < n ∧ f i = c ∧ p c = true ∧ ∀ j, j < i → ¬ p (f j) = true := by
  simp only [List.find?_map, Option.map_eq_some_iff, List.find?_range_eq_some, Function.comp, List.mem_range]
  constructor
  · rintro ⟨i, ⟨hp, hi, hj⟩, rfl⟩
    exact ⟨i, hi, rfl, hp, fun j h => by simpa using hj j h⟩
  · rintro ⟨i, hi, rfl, hp, hj⟩
    exact ⟨i, ⟨hp, hi, fun j h => by simpa using hj j h⟩, rfl⟩

theorem State.findCore_eq_some {s : State} {l : Launch} {c : Nat} :
    s.findCore l none = some c ↔ ∃ i, i < l.count ∧ l.coreAt i = c ∧ s.Admits l c ∧ ∀ j, j < i → ¬ s.Admits l (l.coreAt j) := by
  simp only [← State.admits_iff]
  exact find?_round_eq_some

theorem State.findCore_eq_none {s : State} {l : Launch} :
    s.findCore l none = none ↔ ∀ i, i < l.count → ¬ s.Admits l (l.coreAt i) := by
  simp only [← State.admits_iff, State.findCore, List.find?_eq_none, List.mem_map, List.mem_range, forall_exists_index, and_imp,
    forall_apply_eq_imp_iff₂]
  rfl

/-! ## Dispatch of a last block (R286, R287) -/

/-- Seating threads and taking cores leave the launches and the streams that wait as they are. -/
theorem State.seat_rest (s : State) (d : Desc) (c : Nat) (ths : List (Nat × Thread)) :
    (s.seat d c ths).1.launches = s.launches ∧ (s.seat d c ths).1.unplaced = s.unplaced := by
  induction ths generalizing s with
  | nil => exact ⟨rfl, rfl⟩
  | cons e ths ih => exact ih _

theorem State.takeCore_rest (s : State) (c ctx : Nat) :
    (s.takeCore c ctx).launches = s.launches ∧ (s.takeCore c ctx).unplaced = s.unplaced := by
  unfold State.takeCore
  dsimp only
  split <;> exact ⟨rfl, rfl⟩

theorem State.startBlock_rest (s : State) (l : Launch) (idx c : Nat) :
    (s.startBlock l idx c).launches = s.launches ∧ (s.startBlock l idx c).unplaced = s.unplaced := by
  unfold State.startBlock
  simp only [State.seat_rest]
  split <;> simp [State.takeCore_rest]

/-- A launch whose last block is placed has none left to place. -/
theorem State.mayDispatch_of_placed {s : State} {l : Launch} (ha : l.again = []) (hn : l.total ≤ l.next) : s.mayDispatch l = false := by
  have hq : l.queued = false := decide_eq_false (Nat.not_lt.2 hn)
  simp [State.mayDispatch, hq, ha]

theorem dispatchOrder_single {l : Launch} (h : l.prio < 4) : dispatchOrder [l] = [l] := by
  obtain ⟨p, hp⟩ : ∃ p, l.prio = p := ⟨_, rfl⟩
  have : p = 0 ∨ p = 1 ∨ p = 2 ∨ p = 3 := by omega
  rcases this with rfl | rfl | rfl | rfl <;> simp [dispatchOrder, hp]

/-- A launch whose next block has been placed on core `c`, or on the twin that begins with it. -/
def Launch.placed (l : Launch) (c : Nat) : Launch :=
  { l with next := l.next + 1, cursor := l.first + (c - l.first + (if l.desc.twin then 2 else 1)) % l.count }

theorem State.placeNext_new {s : State} {l : Launch} {c : Nat} (ha : l.again = []) (hc : s.findCore l none = some c) :
    s.placeNext l = some ((s.startBlock l l.next c).setLaunch (l.placed c)) := by
  unfold State.placeNext
  split
  · rename_i h
    rw [ha] at h
    cases h
  · simp only [hc]
    rfl

/-- A launch whose last block has a place is placed, and nothing more of it. -/
theorem State.placeAll_last {s : State} {l : Launch} {c : Nat} (hl : s.launch? l.uid = some l) (ha : l.again = []) (hn : l.next + 1 = l.total)
    (hd : s.mayDispatch l = true) (hc : s.findCore l none = some c) :
    s.placeAll l.uid placeFuel = (s.startBlock l l.next c).setLaunch (l.placed c) := by
  have hl' : ((s.startBlock l l.next c).setLaunch (l.placed c)).launch? l.uid = some (l.placed c) := by
    refine State.launch?_setLaunch (l := l) ?_ _ rfl
    rw [State.launch?, (s.startBlock_rest l l.next c).1]
    exact hl
  have hd' := State.mayDispatch_of_placed (s := (s.startBlock l l.next c).setLaunch (l.placed c)) (l := l.placed c) ha (Nat.le_of_eq hn.symm)
  obtain ⟨n, hfuel⟩ : ∃ n, placeFuel = n + 2 := ⟨placeFuel - 2, by decide⟩
  rw [hfuel]
  simp only [State.placeAll, hl, hd, State.placeNext_new ha hc, hl', hd', Bool.not_true, Bool.not_false, Bool.false_eq_true, if_false, if_true]

theorem State.placeStreams_none {s : State} (h : s.unplaced = []) : s.placeStreams = s := by
  cases s
  cases h
  rfl

/-- With one launch, whose last block has a place, the dispatcher places that block and stops. -/
theorem execDispatch_last {s : State} {l : Launch} {c : Nat} (hs : s.launches = [l]) (hu : s.unplaced = []) (hp : l.prio < 4)
    (ha : l.again = []) (hn : l.next + 1 = l.total) (hd : s.mayDispatch l = true) (hc : s.findCore l none = some c) :
    execDispatch s = .next ((s.startBlock l l.next c).setLaunch (l.placed c)) := by
  have hl : s.launch? l.uid = some l := by simp [State.launch?, hs]
  rw [execDispatch, hs, dispatchOrder_single hp, List.foldl_cons, List.foldl_nil, State.placeAll_last hl ha hn hd hc,
    State.placeStreams_none (s := (s.startBlock l l.next c).setLaunch (l.placed c)) ((s.startBlock_rest l l.next c).2.trans hu)]

/-! ## The start of a thread (R97 to R99, R287) -/

theorem startThread_reg (l : Launch) (idx j r : Nat) : (startThread l idx j).reg r = 0 := rfl

theorem startThread_flagCount (l : Launch) (idx j i : Nat) : (startThread l idx j).flagCount i = 0 := rfl

/-! ## Retirement (R30) -/

/-- A block's threads as they are taken off their cores. -/
def State.unseat (s : State) (e : Nat × Nat) : State :=
  (s.leaveGang e.1 e.2).setCore e.1 { (s.leaveGang e.1 e.2).core e.1 with threads := FMap.del ((s.leaveGang e.1 e.2).core e.1).threads e.2 }

theorem State.unseat_thread (s : State) (e : Nat × Nat) (c t : Nat) :
    (s.unseat e).thread? c t = if (c, t) = e then none else s.thread? c t := by
  obtain ⟨d, u⟩ := e
  rw [← s.leaveGang_thread d u c t]
  by_cases h : c = d
  · subst h
    simp [State.unseat, State.thread?]
  · simp [State.unseat, State.thread?, State.setCore_core_ne _ _ _ _ h, h]

theorem State.removeBlock_eq (s : State) (b : Block) :
    s.removeBlock b = { b.threads.foldl State.unseat s with
      blocks := (b.threads.foldl State.unseat s).blocks.filter fun x => x.bid != b.bid } := rfl

theorem State.foldl_unseat_thread (s : State) (es : List (Nat × Nat)) (c t : Nat) :
    (es.foldl State.unseat s).thread? c t = if (c, t) ∈ es then none else s.thread? c t := by
  induction es generalizing s with
  | nil => simp
  | cons e es ih =>
    rw [List.foldl_cons, ih, State.unseat_thread]
    by_cases h1 : (c, t) ∈ es <;> by_cases h2 : (c, t) = e <;> simp [h1, h2]

theorem State.removeBlock_thread (s : State) (b : Block) : ∀ e ∈ b.threads, (s.removeBlock b).thread? e.1 e.2 = none := fun e he => by
  rw [State.removeBlock_eq]
  exact (State.foldl_unseat_thread s b.threads e.1 e.2).trans (if_pos he)

theorem State.removeBlock_block (s : State) (b : Block) : (s.removeBlock b).block? b.bid = none := by
  simp [State.removeBlock_eq, State.block?]

@[simp] theorem State.removeBlock_launchSide (s : State) (b : Block) : (s.removeBlock b).launchSide = s.launchSide :=
  foldl_launchSide (f := State.unseat) (fun _ _ => rfl) b.threads s

/-- A block that may retire leaves its core; what it held stays among what retired blocks left, and its launch notes it. -/
theorem execBlockRetirement_retires {s : State} {u idx : Nat} {b : Block} {l : Launch} (hb : s.block? { launch := u, idx := idx } = some b)
    (hl : s.launch? u = some l) (hm : s.mayRetire b = true) :
    ∃ s', execBlockRetirement u idx s = .next s' ∧ s'.block? b.bid = none ∧ (∀ e ∈ b.threads, s'.thread? e.1 e.2 = none) ∧
      s'.finals.length = s.finals.length + 1 ∧ ∃ logs, s'.launch? u = some { l with retired := insertAsc idx l.retired, logs := logs } := by
  unfold execBlockRetirement
  simp only [hb, hl, hm, Bool.not_true, Bool.false_eq_true, if_false]
  generalize (if (s.ctx b.ctx).det then FMap.put l.logs idx (s.logsOf { launch := u, idx := idx }) else l.logs) = logs
  have hside : ((s.endStreams { launch := u, idx := idx }).unbind { launch := u, idx := idx } [b.core, b.core + 1]).launchSide = s.launchSide := by
    simp
  generalize (s.endStreams { launch := u, idx := idx }).unbind { launch := u, idx := idx } [b.core, b.core + 1] = s1 at hside ⊢
  generalize Saved.mk _ _ _ = left
  have hrem := ({ s1 with finals := left :: s1.finals } : State).removeBlock_launchSide b
  refine ⟨_, rfl, ({ s1 with finals := left :: s1.finals } : State).removeBlock_block b,
    ({ s1 with finals := left :: s1.finals } : State).removeBlock_thread b, ?_, logs, ?_⟩
  · rw [State.setLaunch_finals, finals_of_launchSide hrem]
    simp [finals_of_launchSide hside]
  · refine State.launch?_setLaunch (l := l) ?_ _ (show l.uid = u from State.launch?_uid hl)
    rw [← hl, State.launch?, launches_of_launchSide hrem]
    exact congrArg (List.find? _) (show s1.launches = s.launches from launches_of_launchSide hside)

/-! ## Completion (R31, R389) -/

theorem State.dropReceipts_receipts (s : State) (ctx number : Nat) :
    ∀ e ∈ (s.dropReceipts ctx number).tables.receipts, e.1 % 64 = ctx → ∀ r ∈ e.2, r.launch ≠ number % 65536 := by
  intro e he hc r hr hn
  obtain ⟨e0, -, rfl⟩ := List.mem_map.1 he
  have hkey : e0.1 % 64 = ctx := by
    split at hc <;> exact hc
  rw [if_pos hkey] at hr
  have htag : r.tag ≤ 0xFFFFFFFF#32 := by bv_omega
  simpa [hn, htag] using (List.mem_filter.1 hr).2

/-- A launch that is done leaves the launches, and its receipts go. -/
theorem execLaunchCompletion_completes {s : State} {u : Nat} {l : Launch} (hl : s.launch? u = some l) (hd : s.launchDone l = true) :
    ∃ s', execLaunchCompletion u s = .next s' ∧ s'.launch? u = none ∧
      ∀ e ∈ s'.tables.receipts, e.1 % 64 = l.ctx → ∀ r ∈ e.2, r.launch ≠ l.number % 65536 := by
  unfold execLaunchCompletion
  simp only [hl, hd, Bool.not_true, Bool.false_eq_true, if_false]
  exact ⟨_, rfl, by simp [State.launch?], s.dropReceipts_receipts l.ctx l.number⟩

/-! ## The release sequencer (R241, R411) -/

/-- The sequencer runs a step of a launch in deterministic mode whose ticket block has retired. -/
theorem execSequencerApply_step {s : State} {u : Nat} {l : Launch} (hl : s.launch? u = some l) (hdet : (s.ctx l.ctx).det = true)
    (ht : l.ticket < l.total) (hr : l.retired.contains l.ticket = true) : execSequencerApply u s = .next (s.seqStep l) := by
  unfold execSequencerApply
  simp only [hl, hdet, ht, hr, decide_true, Bool.and_true, if_true]

theorem State.seqStep_read {s : State} {l : Launch} {va : Dword} {bs : List Byte} {s1 : State}
    (hp : logPlace (FMap.getD l.logs l.ticket []) l.applied = some va) (hread : s.agentRead l.ctx va 32 = .ok (bs, [], s1)) :
    s.seqStep l = seqSet l (s1.seqRecord l (logRecOf bs)) := by
  unfold State.seqStep
  simp only [hp, hread, List.isEmpty_nil, if_true]

/-- A record of a reduce-store of one part is applied as one atomic operation. -/
theorem State.seqRecord_reduce {s s2 : State} {l : Launch} {r : LogRec} (hk : r.kind = 0) (hw : twoWide (AtomOp.ofCodes r.op r.ty) = false)
    (hrmw : s.agentRmw l.ctx r.va ((AtomOp.ofCodes r.op r.ty).n / 8) (fun m => atomNew (AtomOp.ofCodes r.op r.ty) m r.v.toNat) false
      = .ok (some s2)) : s.seqRecord l r = .done s2 := by
  have hh : nextHalf s.hiFirst (AtomOp.ofCodes r.op r.ty) l.half = none := by simp [nextHalf, hw]
  have hva : r.va + BitVec.ofNat 64 (2 * 0) = r.va := BitVec.add_zero _
  simp only [State.seqRecord, hk, State.seqReduce, hh, Option.getD_none, hva, Option.isSome_none, Bool.false_eq_true, if_false, partNew,
    partVal, hrmw]
  rfl

/-- A record of an RCLOSE removes the receipts of its range. -/
theorem State.seqRecord_close {s : State} {l : Launch} {r : LogRec} (hk : r.kind = 2) :
    s.seqRecord l r = .done (s.closeReceipts l.ctx (l.number % 65536) r.lo r.hi) := if_pos hk

theorem State.seqStep_end {s : State} {l : Launch} (hp : logPlace (FMap.getD l.logs l.ticket []) l.applied = none) :
    s.seqStep l = s.setLaunch { l with ticket := l.ticket + 1, applied := 0, half := none, waited := false } := by
  unfold State.seqStep
  simp only [hp]

/-- Settles O41, clause by clause from the events above. -/
theorem launchEvents : Obligations.LaunchEvents := by
  intro s l
  refine ⟨fun c hs hu hp ha hn hd hc => execDispatch_last hs hu hp ha hn hd hc,
    fun _ _ => ⟨fun c => State.findCore_eq_some, State.findCore_eq_none⟩, fun idx j _ => ?_,
    fun u idx b hb hl hm => execBlockRetirement_retires hb hl hm, fun u hl hret hdet => ?_, fun u hl hdet ht hret => ?_⟩
  · exact ⟨rfl, rfl, Nat.div_add_mod' j l.desc.width, rfl, startThread_flagCount l idx j, rfl, rfl, rfl, startThread_reg l idx j⟩
  · refine execLaunchCompletion_completes hl ?_
    have hret' : l.retired.length = l.total := hret
    have hdet' : (s.ctx l.ctx).det = false ∨ l.ticket = l.total := by
      cases h : (s.ctx l.ctx).det
      · exact .inl rfl
      · exact .inr (hdet h)
    simpa [State.launchDone, hret'] using hdet'
  · have hstep := execSequencerApply_step hl hdet ht hret
    refine ⟨⟨_, hstep⟩, fun va bs s1 hp hread => ⟨fun hk hw s2 hrmw => ?_, fun hk => ?_⟩, fun hp => ?_⟩
    · exact hstep.trans (congrArg _ ((State.seqStep_read hp hread).trans (congrArg (seqSet l) (State.seqRecord_reduce hk hw hrmw))))
    · exact hstep.trans (congrArg _ ((State.seqStep_read hp hread).trans (congrArg (seqSet l) (State.seqRecord_close hk))))
    · exact hstep.trans (congrArg _ (State.seqStep_end hp))

end Sys2Proof.Machine
end

section
/-! SUPPORT. The command queues' pages, the end of a record, and the launch records (R237, R276 to R279, R281 to R283, R380). -/

namespace Sys2Proof.Machine

/-! ## Writes to a queue's page (R276, R277, R279) -/

/-- What a write at the home slice stores, before a queue's CFG takes effect. -/
def State.stored (s : State) (pa : Nat) (bs : List Byte) (bad : List Nat) (privileged : Bool) : State :=
  let s0 := s.l2Write pa bs.length
  { s0 with mem := s0.mem.writeMarked pa (bs.mapIdx fun i b => s.storedByte privileged (pa + i) b) bad,
            recalls := s0.recalls.filter fun l => !linesMeet pa bs.length (256 * l) 256 }.purge pa bs.length

theorem State.devWrite_unprivileged (s : State) (pa : Nat) (bs : List Byte) (bad : List Nat) :
    s.devWrite pa bs bad false = s.stored pa bs bad false := rfl

theorem State.devWrite_privileged (s : State) (pa : Nat) (bs : List Byte) (bad : List Nat) :
    s.devWrite pa bs bad true = (cfgTouched pa bs.length).foldl State.cfgWritten (s.stored pa bs bad true) := rfl

@[simp] theorem State.stored_launchSide (s : State) (pa : Nat) (bs : List Byte) (bad : List Nat) (p : Bool) :
    (s.stored pa bs bad p).launchSide = s.launchSide := s.l2Write_launchSide pa bs.length

theorem State.stored_hostMem (s : State) (pa : Nat) (bs : List Byte) (bad : List Nat) (p : Bool) : (s.stored pa bs bad p).hostMem = s.hostMem :=
  (s.l2Write_caches pa bs.length).2.2.2.1

theorem State.stored_get_outside (s : State) (pa : Nat) (bs : List Byte) (bad : List Nat) (p : Bool) (a : Nat)
    (h : a < pa ∨ pa + bs.length ≤ a) : (s.stored pa bs bad p).mem.get a = s.mem.get a := by
  refine Eq.trans ?_ ((s.l2Write_caches pa bs.length).get a)
  exact Store.get_writeMarked_outside _ _ _ _ _ (by rwa [List.length_mapIdx])

theorem State.stored_get (s : State) (pa : Nat) (bs : List Byte) (bad : List Nat) (p : Bool) (j : Nat) (h : j < bs.length) :
    (s.stored pa bs bad p).mem.get (pa + j) = s.storedByte p (pa + j) (bs.getD j 0) := by
  refine (Store.get_writeMarked_of_lt _ _ j _ _ (by rwa [List.length_mapIdx])).trans ?_
  simp [h]

theorem State.storedByte_zero (s : State) (a : Nat) : s.storedByte true a 0 = 0 := by
  simp [State.storedByte]

/-- The words of a queue's page below STAT, and CFG in a privileged write, are stored as they are written. -/
theorem State.storedByte_page (s : State) {q i : Nat} (p : Bool) (b : Byte) (hq : q < Config.nQueues) (h8 : 8 ≤ i) (hi : i < 0x20)
    (hp : p = true ∨ 16 ≤ i) : s.storedByte p (65536 * q + i) b = b := by
  have hq' : q < 128 := hq
  have hmod : (65536 * q + i) % 65536 = i := by omega
  have hzero : isPageZero (65536 * q + i) = false := by simp [isPageZero, hmod]; omega
  have hpool : isPoolZero (65536 * q + i) = false := by simp [isPoolZero]; omega
  have hcfg : (!p && isCfgByte (65536 * q + i)) = false := by
    rcases hp with rfl | hp
    · rfl
    · simp [isCfgByte, hmod]; omega
  simp [State.storedByte, hzero, hpool, hcfg]

/-- A word of a page whose bytes are those of a number. -/
theorem State.page_eq_of_bytes {s : State} {q off v : Nat} (h : ∀ j, j < 8 → s.mem.get (65536 * q + off + j) = (leBytes 8 v).getD j 0) :
    s.page q off = v % 2 ^ 64 := by
  have hb : s.mem.readBytes (65536 * q + off) 8 = leBytes 8 v := by
    refine List.ext_getElem (by simp) fun j h1 h2 => ?_
    have hj : j < 8 := by simpa using h2
    have hget : (leBytes 8 v).getD j 0 = (leBytes 8 v)[j] := by
      rw [List.getD_eq_getElem?_getD, List.getElem?_eq_getElem h2]
      rfl
    refine Eq.trans ?_ ((h j hj).trans hget)
    simp only [Store.readBytes, List.getElem_map, List.getElem_range]
  have hw : (256 : Nat) ^ 8 = 2 ^ 64 := by decide
  exact (congrArg leNat hb).trans ((leNat_leBytes 8 v).trans (congrArg (v % ·) hw))

/-- The word that a write of a whole word leaves, where no byte of it is kept apart. -/
theorem State.stored_page {s : State} {q off v : Nat} {p : Bool}
    (h : ∀ j, j < 8 → s.storedByte p (65536 * q + off + j) ((leBytes 8 v).getD j 0) = (leBytes 8 v).getD j 0) :
    (s.stored (65536 * q + off) (leBytes 8 v) [] p).page q off = v % 2 ^ 64 :=
  State.page_eq_of_bytes fun j hj => (s.stored_get _ _ _ _ j (by simpa using hj)).trans (h j hj)

theorem State.stored_page_plain {s : State} {q off v : Nat} (p : Bool) (hq : q < Config.nQueues) (h8 : 8 ≤ off) (ho : off + 8 ≤ 0x20)
    (hp : p = true ∨ 16 ≤ off) : (s.stored (65536 * q + off) (leBytes 8 v) [] p).page q off = v % 2 ^ 64 :=
  State.stored_page fun j hj => by
    rw [Nat.add_assoc]
    exact s.storedByte_page p _ hq (by omega) (by omega) (hp.imp_right (Nat.le_add_right_of_le ·))

/-- The only queue whose CFG a word of queue `q`'s page can touch is `q`. -/
theorem cfgTouched_word (q off : Nat) (hq : q < Config.nQueues) (h8 : 8 ≤ off) (ho : off + 8 ≤ 65536) :
    cfgTouched (65536 * q + off) 8 = if off < 16 then [q] else [] := by
  have hdiv : (65536 * q + off) / 65536 = q := by omega
  have hrange : (List.range (8 / 65536 + 2)).map ((65536 * q + off) / 65536 + ·) = [q, q + 1] := by rw [hdiv]; rfl
  have hnext : ¬ (65536 * (q + 1) < 65536 * q + off) := by omega
  have hself : 65536 * q < 65536 * q + off := by omega
  rw [cfgTouched, hrange]
  by_cases h : off < 16 <;> simp [hq, h, hnext, hself]

/-- A write of a Lantern to a word of a page other than CFG only stores it. -/
theorem State.setPage_eq_stored (s : State) {q off : Nat} (v : Nat) (hq : q < Config.nQueues) (h16 : 16 ≤ off) (ho : off + 8 ≤ 65536) :
    s.setPage q off v = s.stored (65536 * q + off) (leBytes 8 v) [] true := by
  rw [State.setPage, State.devWrite_privileged, length_leBytes, cfgTouched_word q off hq (by omega) ho, if_neg (by omega), List.foldl_nil]

theorem State.setPage_cfg (s : State) {q : Nat} (v : Nat) (hq : q < Config.nQueues) :
    s.setPage q 8 v = (s.stored (65536 * q + 8) (leBytes 8 v) [] true).cfgWritten q := by
  rw [State.setPage, State.devWrite_privileged, length_leBytes, cfgTouched_word q 8 hq (by omega) (by omega), if_pos (by omega),
    List.foldl_cons, List.foldl_nil]

/-! ## CFG (R276) -/

theorem cfgStored_toNat (v : Dword) :
    cfgStored v.toNat = (v.extractLsb' 6 10).toNat * 64 + max 8 (min 24 (v.toNat % 32)) := by
  simp only [cfgStored, BitVec.extractLsb'_toNat, Nat.shiftRight_eq_div_pow]
  omega

theorem cfgStored_lt (v : Nat) : cfgStored v < 2 ^ 64 := by unfold cfgStored; omega

/-- EN is kept as it is written. -/
theorem cfgEn_cfgStored (v : Nat) : cfgEn (cfgStored v) = v.testBit 15 := by
  have h : cfgStored v / 2 ^ 15 % 2 = v / 2 ^ 15 % 2 := by unfold cfgStored; omega
  simp only [cfgEn, Nat.testBit_eq_decide_div_mod_eq, h]

/-- CFG as a write leaves it. -/
theorem State.cfgWritten_page (s : State) (q : Nat) : (s.cfgWritten q).page q 8 = cfgStored (s.page q 8) := by
  have h : ({ s with mem := s.mem.putBytes (65536 * q + 8) (leBytes 8 (cfgStored (s.page q 8))) } : State).page q 8 = cfgStored (s.page q 8) := by
    refine (State.page_eq_of_bytes fun j hj => ?_).trans (Nat.mod_eq_of_lt (cfgStored_lt _))
    rw [Store.get_putBytes, length_leBytes, if_pos (by omega), Nat.add_sub_cancel_left]
  unfold State.cfgWritten
  dsimp only
  split
  · exact h
  · exact h

/-- The queue runs as CFG says. -/
theorem State.cfgWritten_en (s : State) (q : Nat) : ((s.cfgWritten q).lq q).en = cfgEn (cfgStored (s.page q 8)) := by
  unfold State.cfgWritten
  dsimp only
  split
  · rename_i h; exact eq_of_beq h
  · rw [State.setLq_lq]

/-! ## When a write to a page is taken (R117, R237, R380) -/

theorem pageWrite_rom {s : State} (q : Nat) (f : State → State) (h : s.dev.stage = 0) : pageWrite q s f = .next s := by
  simp [pageWrite, State.rom, h]

theorem pageWrite_held {s : State} {q : Nat} (f : State → State) (hq : q < Config.nQueues) (h : s.dev.stage ≠ 0)
    (hh : s.agentHeld true (65536 * q) 64 = true) : pageWrite q s f = .next (s.noteRecall noSkip (65536 * q) 64) := by
  simp [pageWrite, State.rom, h, Nat.not_le.2 hq, State.pageHeld, hh, State.pageWait]

theorem pageWrite_free {s : State} {q : Nat} (f : State → State) (hq : q < Config.nQueues) (h : s.dev.stage ≠ 0)
    (hh : s.agentHeld true (65536 * q) 64 = false) : pageWrite q s f = .next (f s) := by
  simp [pageWrite, State.rom, h, Nat.not_le.2 hq, State.pageHeld, hh]

theorem exec_wptrWrite (s : State) (q : Nat) (v : Dword) :
    exec (.wptrWrite q v) s = pageWrite q s fun s => s.stored (65536 * q + 0x10) (leBytes 8 v.toNat) [] false := rfl

theorem exec_statClear (s : State) (q : Nat) : exec (.statClear q) s = pageWrite q s fun s => s.setPage q 0x20 0 := rfl

theorem exec_cfgWrite (s : State) (q : Nat) (v : Dword) : exec (.cfgWrite q v) s = pageWrite q s fun s => s.setPage q 8 v.toNat := rfl

/-- What holds of every `pageWrite` on a page holds of the three writes to it. -/
theorem forall_pageWrite {s : State} {q : Nat} {o : Out} (h : ∀ f, pageWrite q s f = o) (v : Dword) :
    ∀ i ∈ [Instr.wptrWrite q v, .statClear q, .cfgWrite q v], exec i s = o := by
  simp only [List.forall_mem_cons, List.not_mem_nil, false_imp_iff, implies_true, and_true]
  exact ⟨(exec_wptrWrite s q v).trans (h _), (exec_statClear s q).trans (h _), (exec_cfgWrite s q v).trans (h _)⟩

/-! ## The end of a record (R278) -/

/-- The queue as the end of a record leaves it. -/
def LQ.ended (x : LQ) (pos : LPos) (stack : List LLevel) : LQ :=
  { x with pos := pos, stack := stack, waiting := .none, missed := none, desc := none, snapWait := none }

theorem State.settleQueue_ring (s : State) (q o : Nat) :
    State.settleQueue q (.done s (.ring o) []) = (s.setLq q ((s.lq q).ended (.ring o) [])).setPage q 0x18 o := rfl

/-- Only a record that ends in the ring, outside every list and loop, writes RPTR. -/
theorem State.settleQueue_level (s : State) (q : Nat) {pos : LPos} {stack : List LLevel} (h : ∀ o, pos = .ring o → stack ≠ []) :
    State.settleQueue q (.done s pos stack) = s.setLq q ((s.lq q).ended pos stack) := by
  cases stack with
  | cons _ _ => rfl
  | nil =>
    cases pos with
    | ring o => exact absurd rfl (h o rfl)
    | list _ => rfl

theorem State.settleQueue_done (s : State) {q : Nat} (hq : q < Config.nQueues) (pos : LPos) (stack : List LLevel) :
    (State.settleQueue q (.done s pos stack)).lq q = (s.lq q).ended pos stack ∧
      (∀ o, o < 2 ^ 64 → stack = [] → pos = .ring o → (State.settleQueue q (.done s pos stack)).page q 0x18 = o) ∧
      (stack ≠ [] → (State.settleQueue q (.done s pos stack)).mem = s.mem) := by
  by_cases h : ∃ o, pos = .ring o ∧ stack = []
  · obtain ⟨o, rfl, rfl⟩ := h
    rw [State.settleQueue_ring, State.setPage_eq_stored _ o hq (by omega) (by omega)]
    refine ⟨?_, fun o' ho _ he => ?_, fun hne => absurd rfl hne⟩
    · rw [State.lq, lqs_of_launchSide (State.stored_launchSide ..)]
      exact State.setLq_lq ..
    · cases he
      exact (State.stored_page_plain true hq (by omega) (by omega) (.inl rfl)).trans (Nat.mod_eq_of_lt ho)
  · have h' : ∀ o, pos = .ring o → stack ≠ [] := fun o hp hs => h ⟨o, hp, hs⟩
    rw [State.settleQueue_level s q h']
    exact ⟨State.setLq_lq .., fun o _ hs hp => absurd hs (h' o hp), fun _ => rfl⟩

/-! ## Launch records (R281 to R283) -/

theorem runQueue_queue {s : State} {q : Nat} {body : Nat → LQ → State → QRes} (h : s.cur = .queue q) :
    runQueue body s = .next (State.settleQueue q (body q (s.lq q) s)) := by
  unfold runQueue
  rw [h]

/-- A launch takes the context's next number. -/
def State.numbered (s : State) (x : LQ) : State :=
  s.nextUid.setCtx x.ctx { s.ctx x.ctx with launches := (s.ctx x.ctx).launches + 1 }

theorem State.enterLaunch_empty {s : State} {q : Nat} {x : LQ} {l : Launch} (h : l.total = 0) :
    s.enterLaunch q x l = .done (s.numbered x) x.pos.next x.stack := by
  simp [State.enterLaunch, h, QRes.retire, State.numbered]

theorem State.enterLaunch_room {s : State} {q : Nat} {x : LQ} {l : Launch} (h : l.total ≠ 0)
    (hb : decide (Config.launchEntries ≤ (s.launches.filter Launch.queued).length) = false) :
    s.enterLaunch q x l = .done { s.numbered x with
      launches := (s.numbered x).launches ++ [{ l with uid := s.uid, number := (s.ctx x.ctx).launches % 65536 }] } x.pos.next x.stack := by
  simp only [State.enterLaunch, hb, Bool.and_false, Bool.false_eq_true, if_false, h]
  rfl

theorem State.enterLaunch_full {s : State} {q : Nat} {x : LQ} {l : Launch} (h : l.total ≠ 0)
    (hb : decide (Config.launchEntries ≤ (s.launches.filter Launch.queued).length) = true) :
    s.enterLaunch q x l = .stay (s.setLq q { x with waiting := .room l }) := by
  simp [State.enterLaunch, hb, h]

theorem qRead_ok {s s1 : State} {ctx n : Nat} {va : Dword} {bs : List Byte} {f : List Byte → State → QRes}
    (h : s.agentRead ctx va n = .ok (bs, [], s1)) : qRead s ctx va n f = f bs s1 := by
  simp [qRead, qAccess, h]

/-- Whether the descriptor of a launch passes steps 4 to 6 of R282. -/
structure Admitted (s : State) (x : LQ) (first count : Nat) (bs : List Byte) : Prop where
  zeros : descZeros bs = true
  ok : (descOf bs).ok first count (s.ctx x.ctx).policy = true
  gated : s.descGated (descOf bs) = false
  locked : s.dev.featLock = true
  det : (s.ctx x.ctx).det = true → s.dev.clkLock = true
  holdable : (descOf bs).holdable = true

/-- A launch that no check stops goes on with its grid, once its descriptor is read. -/
theorem launchBody_admitted {s s1 : State} {q first count : Nat} {x : LQ} {desc : Dword} {bs : List Byte} {grid : Desc → State → QRes}
    (hw : ∀ l, x.waiting ≠ .room l) (hv : (s.ctx x.ctx).valid = true) (hk : (s.ctx x.ctx).killing = false)
    (hd : (x.desc = none ∧ ∃ s0, s.agentRead x.ctx desc 128 = .ok (bs, [], s0) ∧ s1 = s0.setLq q { x with desc := some bs }) ∨
      (x.desc = some bs ∧ s1 = s)) (ha : Admitted s1 x first count bs) :
    launchBody q x desc first count grid s = grid (descOf bs) s1 := by
  obtain ⟨hz, hok, hg, hl, hdet, hh⟩ := ha
  have hlock : ((s1.ctx x.ctx).det && !s1.dev.clkLock) = false := by
    cases h : (s1.ctx x.ctx).det
    · rfl
    · simp [hdet h]
  unfold launchBody
  split
  · exact absurd ‹_› (hw _)
  · rcases hd with ⟨hn, s0, hread, rfl⟩ | ⟨hs, rfl⟩
    · simp only [hv, hk, hn, qRead_ok hread, hz, hok, hg, hl, hlock, hh, Bool.not_true, Bool.or_false, Bool.false_eq_true, if_false]
    · simp only [hv, hk, hs, hz, hok, hg, hl, hlock, hh, Bool.not_true, Bool.or_false, Bool.false_eq_true, if_false]

/-- The three outcomes of a launch record whose launch no check stops (R31, R282). -/
theorem launch_enters {i : Instr} {s s1 : State} {q : Nat} {x : LQ} {l : Launch}
    (h : exec i s = .next (State.settleQueue q (s1.enterLaunch q x l))) :
    (l.total = 0 → exec i s = .next (State.settleQueue q (.done (s1.numbered x) x.pos.next x.stack))) ∧
    (l.total ≠ 0 → decide (Config.launchEntries ≤ (s1.launches.filter Launch.queued).length) = false →
      exec i s = .next (State.settleQueue q (.done { s1.numbered x with
        launches := (s1.numbered x).launches ++ [{ l with uid := s1.uid, number := (s1.ctx x.ctx).launches % 65536 }] } x.pos.next x.stack))) ∧
    (l.total ≠ 0 → decide (Config.launchEntries ≤ (s1.launches.filter Launch.queued).length) = true →
      exec i s = .next (s1.setLq q { x with waiting := .room l })) :=
  ⟨fun h0 => by rw [h, State.enterLaunch_empty h0], fun hn hb => by rw [h, State.enterLaunch_room hn hb],
    fun hn hb => by rw [h, State.enterLaunch_full hn hb]; rfl⟩

theorem exec_launch {s s1 : State} {q : Nat} (y : LaunchArgs) {bs : List Byte} (hcur : s.cur = .queue q)
    (h : ∀ grid, launchBody q (s.lq q) y.desc y.first.toNat (y.count1.toNat + 1) grid s = grid (descOf bs) s1) :
    exec (.launch y) s = .next (State.settleQueue q (s1.enterLaunch q (s.lq q)
      (newLaunch q (s.lq q) (descOf bs) y.first.toNat (y.count1.toNat + 1) y.gx.toNat y.gy.toNat y.gz.toNat))) := by
  change execLaunch y s = _
  rw [execLaunch, runQueue_queue hcur]
  dsimp only
  rw [h]

/-- LAUNCHI reads its grid once its descriptor has passed. -/
theorem exec_launchi {s s1 s2 : State} {q : Nat} (y : LaunchiArgs) {bs gb : List Byte} (hcur : s.cur = .queue q)
    (h : ∀ grid, launchBody q (s.lq q) y.desc y.first.toNat (y.count1.toNat + 1) grid s = grid (descOf bs) s1)
    (hread : s1.agentRead (s.lq q).ctx y.grid 12 = .ok (gb, [], s2)) (hy : fieldAt gb 4 4 < 65536) (hz : fieldAt gb 8 4 < 65536)
    (hn : fieldAt gb 0 4 * fieldAt gb 4 4 * fieldAt gb 8 4 < 2 ^ 32) :
    exec (.launchi y) s = .next (State.settleQueue q (s2.enterLaunch q (s.lq q)
      (newLaunch q (s.lq q) (descOf bs) y.first.toNat (y.count1.toNat + 1) (fieldAt gb 0 4) (fieldAt gb 4 4) (fieldAt gb 8 4)))) := by
  have hfits : (decide (65535 < fieldAt gb 4 4) || decide (65535 < fieldAt gb 8 4) ||
      decide (2 ^ 32 ≤ fieldAt gb 0 4 * fieldAt gb 4 4 * fieldAt gb 8 4)) = false := by
    simp only [Bool.or_eq_false_iff, decide_eq_false_iff_not]
    omega
  change execLaunchi y s = _
  rw [execLaunchi, runQueue_queue hcur]
  dsimp only
  rw [h, qRead_ok hread]
  simp only [hfits, Bool.false_eq_true, if_false]

/-- Settles O42: the writes to a page and the end of a record from what `stored` leaves, the launch records from the three outcomes of
`enterLaunch`. -/
theorem queuesAndLaunchRecords : Obligations.QueuesAndLaunchRecords := by
  refine ⟨fun s q hq => ⟨fun h0 => forall_pageWrite fun f => pageWrite_rom q f h0,
    fun h0 hh => forall_pageWrite fun f => pageWrite_held f hq h0 hh, fun h0 hh => ⟨fun v => ?_, ?_⟩, fun h0 hh v => ?_,
    fun s1 pos stack => s1.settleQueue_done hq pos stack⟩, ?_⟩
  · refine ⟨_, (exec_wptrWrite s q v).trans (pageWrite_free _ hq h0 hh), ?_, fun a ha => ?_,
      lqs_of_launchSide (State.stored_launchSide ..), State.stored_hostMem ..⟩
    · exact (State.stored_page_plain false hq (by omega) (by omega) (.inr (by omega))).trans (Nat.mod_eq_of_lt v.isLt)
    · exact s.stored_get_outside _ _ _ _ _ (by rwa [length_leBytes])
  · refine ⟨_, (exec_statClear s q).trans (pageWrite_free _ hq h0 hh), ?_⟩
    rw [State.setPage_eq_stored s 0 hq (by omega) (by omega)]
    refine ⟨State.stored_page fun j hj => ?_, fun a ha => ?_, lqs_of_launchSide (State.stored_launchSide ..), State.stored_hostMem ..⟩
    · rw [getD_leBytes 8 0 j hj, Nat.zero_div]
      exact s.storedByte_zero _
    · exact s.stored_get_outside _ _ _ _ _ (by rwa [length_leBytes])
  · refine ⟨_, (exec_cfgWrite s q v).trans (pageWrite_free _ hq h0 hh), ?_⟩
    have hpage := (State.stored_page_plain (s := s) (off := 8) (v := v.toNat) true hq (by omega) (by omega) (.inl rfl)).trans
      (Nat.mod_eq_of_lt v.isLt)
    rw [State.setPage_cfg s v.toNat hq]
    exact ⟨by rw [State.cfgWritten_en, hpage, cfgEn_cfgStored]; rfl, by rw [State.cfgWritten_page, hpage, cfgStored_toNat]⟩
  · intro s q hcur x ends enters first count1 desc bs s1 hw hv hk hd d count hz hok hg hl hdet hh
    have hbody grid : launchBody q x desc first.toNat count grid s = grid d s1 :=
      launchBody_admitted hw hv hk hd ⟨hz, hok, hg, hl, hdet, hh⟩
    exact ⟨fun gx gy gz => launch_enters (exec_launch { desc := desc, gx := gx, gy := gy, gz := gz, first := first, count1 := count1 } hcur hbody),
      fun grid gb s2 hread hgy hgz hn =>
        launch_enters (exec_launchi { desc := desc, grid := grid, first := first, count1 := count1 } hcur hbody hread hgy hgz hn)⟩

end Sys2Proof.Machine
end
